-- ==== Sys2Proof/Word.lean ====
section
/-!
DEFINITION. The word types of the BX2560 model: registers are 32-bit words (R12, R42), memory is bytes (R42), FTIME is
one 64-bit value with seconds in bits 63:30 and nanoseconds in bits 29:0 (glossary of 00_scope.md).
-/
namespace Sys2Proof

/-- A 32-bit register word. -/
abbrev Word := BitVec 32

/-- One byte of memory, of a frame or of sentence text. -/
abbrev Byte := BitVec 8

/-- A 64-bit value: an FTIME, a DUID, a route key. -/
abbrev DWord := BitVec 64

end Sys2Proof
end

