-- ==== Sys2Proof/Syntax.lean ====
section
/-!
DEFINITION. The commands of the block: one constructor for each row of the table of commands, with the row's operands. An operand that a
rule does not bound is a number; the meaning says which values it acts on. Commands with operands come first, in the table's order; then
those without (Lean's evaluator represents few constructors with fields).
-/
namespace Sys2Proof

/-- One data phase of a host access (R553): the byte enables (1: enabled), the word the host drives in a write, and whether
HBLAST_N is low. -/
structure HostPhase where
  be : BitVec 4 := 15
  data : Word := 0
  last : Bool := false
  deriving DecidableEq, Repr

/-- How a reception ends (R488, R503): EOF, ABORT, or an invalid or unexpected symbol, loss of synchronisation, LOS or ABS. -/
inductive FrameEnd where
  | eof | abort | bad
  deriving DecidableEq, Repr

/-- How the transmission of a CAN frame fails (R606, R612, R615): arbitration lost; an ACK error, and whether a dominant bit was seen while
the error flag was sent; a stuff error in the arbitration field that ISO 11898-1 exempts; another error. -/
inductive TxFail where
  | arbitration
  | ack (dominant : Bool)
  | stuff
  | other
  deriving DecidableEq, Repr

/-- A supply rail whose failure does not reset the device (R659, R662): VIO bank j, VHB, VCAN. -/
inductive Rail where
  | vio (j : Nat)
  | vhb
  | vcan
  deriving DecidableEq, Repr

/-- A wake source of R679: a low level on the receive pin (`tx`: the transmit pin) of port n, a wake-up pattern or a classical frame (IDE,
identifier, DLC, data) on CAN k, a level change of discrete line k, an edge of PPSA or PPSB (`b`), HWAKE_N, a host address phase, and ring
link m. -/
inductive WakeSrc where
  | port (n : Nat) (tx : Bool := false)
  | canPattern (k : Nat)
  | canFrame (k : Nat) (ide : Bool) (id dlc : Nat) (data : List Byte)
  | dl (k : Nat)
  | pps (b : Bool)
  | hwake
  | host
  | ring (m : Nat)
  deriving DecidableEq, Repr

/-- A software-visible FIFO (R163): the inbound and the outbound FIFO of mailbox m, the message FIFO of logical engine L, the receive
FIFO of CAN k, the Shutter. -/
inductive FifoId where
  | hmbIn (m : Nat)
  | hmbOut (m : Nat)
  | emq (l : Nat)
  | canRx (k : Nat)
  | shut
  deriving DecidableEq, Repr

/-- A command. Each constructor cites the rule of its row. -/
inductive Instr where
  /-- RST_CMD_FULL_SOFT (R663): A write of NODE.RST_CMD with KIND 1 and the right KEY starts a full soft reset, the ring unit included. -/
  | rstCmdFullSoft (key : BitVec 16) (torn : Option (Nat × Option Nat) := none)
  /-- RST_CMD_CORE_RESTART (R663): A write of NODE.RST_CMD with KIND 0 starts a core restart that keeps the ring unit and forwarding. -/
  | rstCmdCoreRestart (key : BitVec 16) (torn : Option (Nat × Option Nat) := none)
  /-- RESET_END (R668): The end of a reset samples MODE1:0 and starts the boot: PLL lock, journal read, retirements restored, sections
  loaded. -/
  | resetEnd (mode : BitVec 2) (testen refaGood : Bool)
  /-- IO_RAIL_FAIL (R662): A VIO bank, VHB or VCAN fails, its pins present stop level or go undriven and event 95 is set. -/
  | ioRailFail (r : Rail)
  /-- IO_RAIL_GOOD (R662): A VIO bank, VHB or VCAN becomes good, its voltage is sensed and event 95 is set. -/
  | ioRailGood (r : Rail) (code : BitVec 2)
  /-- FAULT_CMD (R670): A write of NODE.FAULT_CMD with KEY 5A5Ah puts the node into FAULT. -/
  | faultCmd (key : BitVec 16)
  /-- WDOG_KICK (R672): A write of WDOG[i].KICK restarts the count on 0000_5A5Ah, expires it at once on any other value, or is ignored while
  EN is 0. -/
  | wdogKick (i : Nat) (v : Word)
  /-- WDOG_EXPIRY (R673): A watchdog count reaches TIMEOUT without service, sets EXP and event 98 and acts as ACTION selects. -/
  | wdogExpiry (i : Nat) (served : Bool := false) (torn : Option (Nat × Option Nat) := none)
  /-- WDOG_CTL_WRITE (R674): A write of WDOG[i].CTL enables the watchdog, and a change of TIMEOUT or ACTION while enabled is refused. -/
  | wdogCtlWrite (i : Nat) (v : Word)
  /-- SLEEP_CMD (R675): A write of NODE.SLEEP_CMD with GO starts a Stabled entry, stopping dispatch and waiting for queues and contexts to
  drain. -/
  | sleepCmd (v : Word)
  /-- WAKE_DETECT (R679): An enabled wake source is detected in Stabled, is recorded in WAKE_SRC and starts the wake time. -/
  | wakeDetect (ws : List WakeSrc)
  /-- WAKE_END (R680): The wake time ends: clocks restart, FTIME is adjusted by the sleep time, the former state returns and event 96 is
  set. -/
  | wakeEnd (slept : Nat)
  /-- WAKE_OUT (R682): A write of NODE.WAKE_OUT with the KEY sends WAKE ordered sets instead of idle sets on the selected links. -/
  | wakeOut (v : Word)
  /-- REGISTER_WRITE (R36): A write to a register or table entry without a row of its own sets its fields, or is refused with CFG_ERR set.
  -/
  | registerWrite (a : Nat) (v : Word) (be : BitVec 4)
  /-- GATE_PEER_RESET (R149): One side of a gate is reset, the surviving side discards contents, counts proved losses and sets PEER_RST. -/
  | gatePeerReset (g : Nat) (dst : Bool) (lag : Nat) (recent : Bool) (part : Nat := 0)
  /-- START_EDGE (R93): A falling edge on a slice's receive line opens a start candidate, confirmed or rejected by the glitch filter and
  start-bit vote. -/
  | startEdge (n : Nat) (ago : Word) (low : Nat) (v : BitVec 3) (echo idleDue tmoDue : Bool) (tx : Bool := false)
  /-- CHARACTER_RECEIPT (R103): At the 9/16 point of the first stop bit the slice forms an item with value, edge clock and FE, PE, NOISE,
  BRK, LOST flags. -/
  | characterReceipt (n : Nat) (votes : List (BitVec 3)) (amp : Nat) (cm : Int) (fresh : Bool := false)
  /-- IDLE_TIMER_EXPIRY (R110): The receive line stays at stop level for 1 ct and STATUS.IDLE is set. -/
  | idleTimerExpiry (n : Nat)
  /-- RAW_TIMEOUT_EXPIRY (R187): TMO ct of idle line pass and a timeout marker closes the non-empty raw or tunnel block. -/
  | rawTimeoutExpiry (n : Nat)
  /-- PORT_MODE_WRITE (R90): A write of PORT[n].MODE changes the port mode at the next character boundary of each direction, flushing a
  transmit queue that leaves SENTENCE or TUNNEL. -/
  | portModeWrite (n : Nat) (v : Word)
  /-- SWAP_REQUEST (R133): A write of PORT[n].SLICE with REQ asks to move the port to a spare slice, stopping new transmit sentences. -/
  | swapRequest (n : Nat) (v : Word)
  /-- SLICE_SWAP (R133): With the transmit shifter empty and the line idle the new slice takes over pins and state, and event 93 is set. -/
  | sliceSwap (n : Nat)
  /-- SWAPWAIT_EXPIRY (R134): SWAPWAIT ct pass without a swap, and the port swaps by force or the request ends aborted. -/
  | swapwaitExpiry (n : Nat)
  /-- FORCED_SWAP (R134): A forced swap at the next transmit character boundary loses any receive character in the old shifter. -/
  | forcedSwap (n : Nat)
  /-- MEAS_START (R118): A write of MEAS_CTL.START starts a rate measurement window on the receive pin. -/
  | measStart (n : Nat) (v : Word)
  /-- MEAS_WINDOW_END (R119): The measurement window ends, MIN and MEAS_EDGES are updated and MEAS_DONE is set. -/
  | measWindowEnd (n : Nat) (runs : List Nat) (after : Nat)
  /-- SENTENCE_SELECT (R310): The scheduler selects the head unstarted sentence of the highest class for a free port, removing stale heads.
  -/
  | sentenceSelect (n : Nat)
  /-- TX_CHARACTER_LOAD (R311): The next character of the started sentence, TAG block or CR LF is loaded into the transmit shifter. -/
  | txCharacterLoad (n load : Nat)
  /-- SENTENCE_TX_END (R315): The last stop bit of a sentence or tunnel block is sent, its reference and charge are released and CNT_TXSENT
  counts it. -/
  | sentenceTxEnd (n load : Nat)
  /-- COLLISION_DETECT (R123): A single-wire read-back differs from the driven level, the slice stops driving and abandons the sentence. -/
  | collisionDetect (n : Nat) (k : Nat := 0) (level : Bool := true)
  /-- BACKOFF_EXPIRY (R124): The random k ct of idle line after a collision pass and the port may retry the sentence. -/
  | backoffExpiry (n : Nat)
  /-- DIR_LEAD_EXPIRY (R127): LEAD bt after the direction output asserts, the first start bit of the burst begins. -/
  | dirLeadExpiry (n : Nat)
  /-- DIR_TRAIL_EXPIRY (R127): TRAIL bt after the last stop bit with no next sentence ready, the direction output is deasserted. -/
  | dirTrailExpiry (n : Nat)
  /-- TILE_PWR_EN (R196): A write of LT[k].CTL.PWR_EN starts or stops the tile's isolated converter. -/
  | tilePwrEn (k : Nat) (v : Word)
  /-- PGOOD_RISE (R196): The tile converter reaches PGOOD and after 10 µs the receivers reach the slices and drivers may be enabled. -/
  | pgoodRise (k : Nat)
  /-- PWR_FAULT (R199): PGOOD falls while enabled and VLT is good, setting PWR_FAULT, counting it and raising event 108. -/
  | pwrFault (k : Nat)
  /-- CONVERTER_RETRY (R199): Every 100 ms after a power fault the converter retries while PWR_EN stays 1. -/
  | converterRetry (k : Nat)
  /-- VLT_UV_CHANGE (R198): VLT crosses 4.55 V or 4.65 V, stopping or restarting the converters and setting event 108 on a fall. -/
  | vltUvChange (uv : Bool)
  /-- RX_OPEN_DETECT (R211): With bias on, VD stays in the open band for OPEN_T × 10 ms and RX_OPEN is set. -/
  | rxOpenDetect (p : Nat)
  /-- RX_ZERO_DETECT (R212): |VD| stays below 100 mV for 1 ms and RX_ZERO is set. -/
  | rxZeroDetect (p : Nat)
  /-- TX_SHORT (R214): The driver stays in current limit for 10 µs and the tile disables it, setting TX_SHORT. -/
  | txShort (p : Nat)
  /-- TX_SHORT_RETRY (R214): At the first start bit 100 ms or more after a short disable the tile re-enables the driver. -/
  | txShortRetry (p : Nat)
  /-- TILE_OVERTEMP (R215): The tile exceeds 140 °C and all four drivers are disabled. -/
  | tileOvertemp (k : Nat)
  /-- TILE_TEMP_RECOVER (R215): The tile cools below 125 °C and its drivers are enabled again. -/
  | tileTempRecover (k : Nat)
  /-- REST_DETECT (R216): A line port sees 2 ct without a receiver transition and the rest is judged as a reversal candidate or not. -/
  | restDetect (p : Nat) (space trans : Bool) (written : Bool := false)
  /-- PARSER_ITEM (R241): The switch parser takes one item of a SENTENCE-mode port and applies LOST, error flags, grammar and length rules.
  -/
  | parserItem (n : Nat)
  /-- CT_GAP_EXPIRY (R330): A cut-through listener waits GAP ct for the next character and ends the sentence with a fogged tail. -/
  | ctGapExpiry (p : Nat)
  /-- SWEEP_PASS (R322): Every PERIOD µs the sweep visits every queued unstarted sentence and removes the stale ones. -/
  | sweepPass (k : Nat := 0)
  /-- RAW_ITEM (R188): The switch places a RAW or TUNNEL item into the current block, dropping it when descriptor IDX is not owned. -/
  | rawItem (n : Nat)
  /-- POOL_RSV_WRITE (R267): A write of SW.POOL_RSV changes the withheld cells when every affected pool cell is FREE, updating POOL_FREE and
  POOL_PAIRS. -/
  | poolRsvWrite (v : Word)
  /-- TABLE_SWAP (R296): A write of SW.TBL_CTL.SWAP exchanges the active and inactive banks of all three tables between lookups. -/
  | tableSwap (v : Word)
  /-- TABLE_COPY (R297): A write of SW.TBL_CTL.COPY starts copying all three tables from the active to the inactive bank. -/
  | tableCopy (v : Word)
  /-- STAGED_UPDATE (R298): A write of SW.STG_CMD with GO replaces one entry of the active bank with the staged image, or is refused. -/
  | stagedUpdate (v : Word) (counted : Bool := false)
  /-- HMB_IN_WRITE (R163): A host write of HMB[m].IN_DATA appends one word to the inbound mailbox FIFO, or is ignored with OVER set when
  full. -/
  | hmbInWrite (m : Nat) (v : Word)
  /-- HMB_INBOUND_ITEM (R165): The switch takes a whole inbound mailbox item and parses it, forwards it to a message FIFO, or sends it as a
  tunnel payload. -/
  | hmbInboundItem (m : Nat)
  /-- HMB_OUT_READ (R172): A read of HMB[m].OUT_DATA removes and returns one outbound word, or sets UNDER when empty. -/
  | hmbOutRead (m : Nat)
  /-- FIFO_FLUSH (R163): A write of CTL.FLUSH empties a software-visible FIFO in one clock. -/
  | fifoFlush (f : FifoId) (v : Word)
  /-- EMQ_RDATA_READ (R176): A read of EMQ[L].RDATA removes and returns one engine message word. -/
  | emqRdataRead (l : Nat)
  /-- REFRESH_PAIR (R160): The switch pairs the latched count and refresh time of one index for a stamping clock. -/
  | refreshPair (clk : Nat) (ago : Word) (acked : Bool)
  /-- TIME_SRC_WRITE (R353): A write of TIME.CTL changing SRC puts the loop in HOLD or ACQ and restarts qualification. -/
  | timeSrcWrite (v : Word)
  /-- TIME_RATE_WRITE (R353): A write of TIME.RATE sets the integrator and ρ at the next refresh launch. -/
  | timeRateWrite (v : Word)
  /-- PPS_EDGE (R351): A PPS edge is captured and qualified in ACQ or judged against its window in LOCK. -/
  | ppsEdge (b : Bool)
  /-- LEAP_ARM (R363): A write of TIME.LEAP_CTL arms or replaces a leap second at instant AT. -/
  | leapArm (v : Word)
  /-- SYNC_RECEIVE (R370): A SYNC copy from the master is taken as a sample and its offset processed by the loop, or counted as unused. -/
  | syncReceive (m : Nat)
  /-- PD_REQ_RECEIVE (R372): A RUNNING neighbour answers a PD_REQ with a PD_RESP carrying its turnaround. -/
  | pdReqReceive (m : Nat)
  /-- PD_RESP_RECEIVE (R372): A PD_RESP yields a link-delay sample that sets or filters LINK[m].DELAY. -/
  | pdRespReceive (m : Nat)
  /-- PD_TIMEOUT (R372): 10 ms pass without a PD_RESP, no sample is taken, and after three such DELAY becomes unmeasured. -/
  | pdTimeout (m : Nat)
  /-- DL_RAW_EDGE (R626): A filtered discrete-line level change opens a new raw run with its edge clock. -/
  | dlRawEdge (k : Nat) (ago : Word) (more accept : BitVec 32 := 0)
  /-- DL_EDGE_ACCEPT (R627): A raw run lasts the debounce time and the edge is accepted, changing DL.IN and feeding Shutter, counter and
  period. -/
  | dlEdgeAccept (k : Nat) (more : BitVec 32 := 0)
  /-- DL_PERIOD_OVERFLOW (R633): An open period group reaches FFFF_FFFFh clocks, PER_OVF is set and measurement closes. -/
  | dlPeriodOverflow (k : Nat)
  /-- DL_CFG_WRITE (R633): A write of DL[k].CFG sets the line's mode and functions, closing the period measurement when PEDGE or PER_N
  changes. -/
  | dlCfgWrite (k : Nat) (v : Word)
  /-- DL_SHUT_DEB_WRITE (R629): A write of DL.SHUT_DEB takes effect at the first clock with no Shutter line awaiting acceptance. -/
  | dlShutDebWrite (v : Word)
  /-- DL_OUT_WRITE (R635): A write of DL.OUT sets every output bit. -/
  | dlOutWrite (v : Word)
  /-- DL_OUT_SET (R635): A write of DL.OUT_SET sets the OUT bits of OUT-mode lines and feeds heartbeat lines. -/
  | dlOutSet (v : Word)
  /-- DL_OUT_CLR (R635): A write of DL.OUT_CLR clears the OUT bits of OUT-mode lines and feeds heartbeat lines. -/
  | dlOutClr (v : Word)
  /-- DL_OUT_TOG (R635): A write of DL.OUT_TOG inverts the OUT bits of OUT-mode lines and feeds heartbeat lines. -/
  | dlOutTog (v : Word)
  /-- DL_PWM_PERIOD (R636): A PWM period of T1 µs begins with the line active, taking pending OPER and OHI values. -/
  | dlPwmPeriod (k : Nat)
  /-- DL_PWM_HIGH_END (R636): T2 µs into a PWM period the line goes inactive. -/
  | dlPwmHighEnd (k : Nat)
  /-- DL_HB_TOGGLE (R637): Every T1 µs a running heartbeat line toggles. -/
  | dlHbToggle (k : Nat)
  /-- DL_HB_STARVE (R637): The starvation timer expires, HB_RUN clears, HB_STOP is set and the line returns to its OUT level. -/
  | dlHbStarve (k : Nat) (fed : Bool := false) (more : BitVec 32 := 0)
  /-- DL_DRIVE_FAULT (R638): The ball differs from the driven level for 1 µs and STAT.FAULT is set. -/
  | dlDriveFault (k : Nat) (more starve : BitVec 32 := 0)
  /-- CTX_START (R388): A write of CTX[c].CTL.START loads pc, clears st and makes an IDLE or HALT context READY. -/
  | ctxStart (l c : Nat) (v : Word)
  /-- CTX_STOP (R388): A write of CTX[c].CTL.STOP puts the context into IDLE, releasing any held sentence as dropped. -/
  | ctxStop (l c : Nat) (v : Word)
  /-- ENGINE_HOLD (R410): A write of ENG[L].CTL.HOLD = 1 stops every context at its next boundary and stops dispatch. -/
  | engineHold (l : Nat) (v : Word)
  /-- ENGINE_RELEASE (R410): A write of ENG[L].CTL.HOLD = 0 resumes every context in the state it held. -/
  | engineRelease (l : Nat) (v : Word)
  /-- SCHEDULER_SELECT (R387): The running context stops issuing or is pre-empted and the scheduler selects the next READY context. -/
  | schedulerSelect (l : Nat)
  /-- DISPATCH (R396): The head sentence is deadline-tested and its first cell written into a waiting context's window, completing its wait
  with DISP. -/
  | dispatch (l : Nat)
  /-- WAIT_WAKE (R390): A wake condition of a waiting context holds and the wait completes with the wake word. -/
  | waitWake (l c : Nat)
  /-- WAIT_TIMEOUT (R389): T µs pass since the wait issued and it completes with KIND TMO. -/
  | waitTimeout (l c : Nat)
  /-- RESPONSE_ARRIVAL (R403): The response to a blocking access arrives through gate 46 + e and the context becomes READY. -/
  | responseArrival (l c : Nat)
  /-- BUDGET_EXPIRY (R400): A handler's remaining budget reaches 0, its sentence is dropped and a BUDGET exception is taken when EXL is 0.
  -/
  | budgetExpiry (l c : Nat)
  /-- ADD (R433): gd = ga + gb. -/
  | add (l c : Nat) (gd ga gb : BitVec 4)
  /-- SUB (R433): gd = ga − gb. -/
  | sub (l c : Nat) (gd ga gb : BitVec 4)
  /-- AND (R433): gd = ga & gb. -/
  | and (l c : Nat) (gd ga gb : BitVec 4)
  /-- OR (R433): gd = ga | gb. -/
  | or (l c : Nat) (gd ga gb : BitVec 4)
  /-- XOR (R433): gd = ga xor gb. -/
  | xor (l c : Nat) (gd ga gb : BitVec 4)
  /-- NOR (R433): gd = ~(ga | gb). -/
  | nor (l c : Nat) (gd ga gb : BitVec 4)
  /-- SLL (R433): gd = ga shifted left by gb[4:0]. -/
  | sll (l c : Nat) (gd ga gb : BitVec 4)
  /-- SRL (R433): gd = ga shifted right logically by gb[4:0]. -/
  | srl (l c : Nat) (gd ga gb : BitVec 4)
  /-- SRA (R433): gd = ga shifted right arithmetically by gb[4:0]. -/
  | sra (l c : Nat) (gd ga gb : BitVec 4)
  /-- SLT (R433): gd = 1 when ga < gb signed, else 0. -/
  | slt (l c : Nat) (gd ga gb : BitVec 4)
  /-- SLTU (R433): gd = 1 when ga < gb unsigned, else 0. -/
  | sltu (l c : Nat) (gd ga gb : BitVec 4)
  /-- MUL (R433): gd = low 32 bits of ga × gb. -/
  | mul (l c : Nat) (gd ga gb : BitVec 4)
  /-- MULH (R433): gd = high 32 bits of the signed product. -/
  | mulh (l c : Nat) (gd ga gb : BitVec 4)
  /-- MULHU (R433): gd = high 32 bits of the unsigned product. -/
  | mulhu (l c : Nat) (gd ga gb : BitVec 4)
  /-- DIV (R434): gd = ga / gb signed, saturating on overflow, DIVZERO on zero divisor. -/
  | div (l c : Nat) (gd ga gb : BitVec 4)
  /-- DIVU (R434): gd = ga / gb unsigned, DIVZERO on zero divisor. -/
  | divu (l c : Nat) (gd ga gb : BitVec 4)
  /-- REM (R434): gd = signed remainder of ga / gb, DIVZERO on zero divisor. -/
  | rem (l c : Nat) (gd ga gb : BitVec 4)
  /-- REMU (R434): gd = unsigned remainder of ga / gb, DIVZERO on zero divisor. -/
  | remu (l c : Nat) (gd ga gb : BitVec 4)
  /-- MIN (R433): gd = smaller of ga and gb, signed. -/
  | min (l c : Nat) (gd ga gb : BitVec 4)
  /-- MAX (R433): gd = larger of ga and gb, signed. -/
  | max (l c : Nat) (gd ga gb : BitVec 4)
  /-- MINU (R433): gd = smaller of ga and gb, unsigned. -/
  | minu (l c : Nat) (gd ga gb : BitVec 4)
  /-- MAXU (R433): gd = larger of ga and gb, unsigned. -/
  | maxu (l c : Nat) (gd ga gb : BitVec 4)
  /-- CLZ (R433): gd = number of leading zero bits of ga. -/
  | clz (l c : Nat) (gd ga : BitVec 4)
  /-- POPC (R433): gd = number of 1 bits of ga. -/
  | popc (l c : Nat) (gd ga : BitVec 4)
  /-- ADDI (R435): gd = ga + sign-extended imm18. -/
  | addi (l c : Nat) (gd ga : BitVec 4) (imm : BitVec 18)
  /-- ANDI (R435): gd = ga & sign-extended imm18. -/
  | andi (l c : Nat) (gd ga : BitVec 4) (imm : BitVec 18)
  /-- ORI (R435): gd = ga | sign-extended imm18. -/
  | ori (l c : Nat) (gd ga : BitVec 4) (imm : BitVec 18)
  /-- XORI (R435): gd = ga xor sign-extended imm18. -/
  | xori (l c : Nat) (gd ga : BitVec 4) (imm : BitVec 18)
  /-- LUI (R435): gd = imm22 << 10. -/
  | lui (l c : Nat) (gd : BitVec 4) (imm : BitVec 22)
  /-- SLTI (R435): gd = 1 when ga < sign-extended imm18 signed, else 0. -/
  | slti (l c : Nat) (gd ga : BitVec 4) (imm : BitVec 18)
  /-- SLLI (R436): gd = ga shifted left by an immediate amount. -/
  | slli (l c : Nat) (gd ga : BitVec 4) (amt : BitVec 5)
  /-- SRLI (R436): gd = ga shifted right logically by an immediate amount. -/
  | srli (l c : Nat) (gd ga : BitVec 4) (amt : BitVec 5)
  /-- SRAI (R436): gd = ga shifted right arithmetically by an immediate amount. -/
  | srai (l c : Nat) (gd ga : BitVec 4) (amt : BitVec 5)
  /-- LW (R437): Loads the word at EA into gd. -/
  | lw (l c : Nat) (gd ga : BitVec 4) (imm : BitVec 18)
  /-- LH (R437): Loads the sign-extended half-word at EA into gd. -/
  | lh (l c : Nat) (gd ga : BitVec 4) (imm : BitVec 18)
  /-- LHU (R437): Loads the zero-extended half-word at EA into gd. -/
  | lhu (l c : Nat) (gd ga : BitVec 4) (imm : BitVec 18)
  /-- LB (R437): Loads the sign-extended byte at EA into gd. -/
  | lb (l c : Nat) (gd ga : BitVec 4) (imm : BitVec 18)
  /-- LBU (R437): Loads the zero-extended byte at EA into gd. -/
  | lbu (l c : Nat) (gd ga : BitVec 4) (imm : BitVec 18)
  /-- SW (R437): Stores the word of the gd-field register at EA. -/
  | sw (l c : Nat) (gs ga : BitVec 4) (imm : BitVec 18)
  /-- SH (R437): Stores bits 15:0 of the gd-field register at EA. -/
  | sh (l c : Nat) (gs ga : BitVec 4) (imm : BitVec 18)
  /-- SB (R437): Stores bits 7:0 of the gd-field register at EA. -/
  | sb (l c : Nat) (gs ga : BitVec 4) (imm : BitVec 18)
  /-- BEQ (R441): Branches when ga == gb. -/
  | beq (l c : Nat) (ga gb : BitVec 4) (off : BitVec 18)
  /-- BNE (R441): Branches when ga != gb. -/
  | bne (l c : Nat) (ga gb : BitVec 4) (off : BitVec 18)
  /-- BLT (R441): Branches when ga < gb signed. -/
  | blt (l c : Nat) (ga gb : BitVec 4) (off : BitVec 18)
  /-- BGE (R441): Branches when ga ≥ gb signed. -/
  | bge (l c : Nat) (ga gb : BitVec 4) (off : BitVec 18)
  /-- BLTU (R441): Branches when ga < gb unsigned. -/
  | bltu (l c : Nat) (ga gb : BitVec 4) (off : BitVec 18)
  /-- BGEU (R441): Branches when ga ≥ gb unsigned. -/
  | bgeu (l c : Nat) (ga gb : BitVec 4) (off : BitVec 18)
  /-- JAL (R442): Writes the link and jumps pc-relative. -/
  | jal (l c : Nat) (gd : BitVec 4) (imm : BitVec 22)
  /-- JALR (R443): Writes the link and jumps to ga + imm18, or raises MISALIGN or BUSERR. -/
  | jalr (l c : Nat) (gd ga : BitVec 4) (imm : BitVec 18)
  /-- NOP (R444): No effect. -/
  | nop (l c : Nat)
  /-- TRAP (R444): Raises TRAP with epc at the next instruction. -/
  | trap (l c : Nat) (code : BitVec 8)
  /-- ERET (R444): Returns to epc and clears EXL, or raises ILLEGAL when EXL is 0. -/
  | eret (l c : Nat)
  /-- HALT (R444): The context enters HALT and ends its handler. -/
  | halt (l c : Nat)
  /-- IFENCE (R444): Later fetches of the context see every earlier instruction-memory write. -/
  | ifence (l c : Nat)
  /-- MFS (R444): gd = special register number gb. -/
  | mfs (l c : Nat) (gd : BitVec 4) (spr : BitVec 2)
  /-- MTS (R445): Writes a special register from ga, effective at the next boundary. -/
  | mts (l c : Nat) (ga : BitVec 4) (spr : BitVec 2)
  /-- BUDGET (R482): Sets the remaining handler budget to ga. -/
  | budget (l c : Nat) (ga : BitVec 4)
  /-- BLEFT (R482): gd = remaining budget, or 0 when no sentence is held. -/
  | bleft (l c : Nat) (gd : BitVec 4)
  /-- CSTART (R482): Writes CTX[ga].PC = gb and starts context ga, returning whether it started. -/
  | cstart (l c : Nat) (gd ga gb : BitVec 4)
  /-- CSTOP (R482): Stops context ga of the own logical engine. -/
  | cstop (l c : Nat) (ga : BitVec 4)
  /-- CSTAT (R482): gd = CTX[ga].STAT. -/
  | cstat (l c : Nat) (gd ga : BitVec 4)
  /-- FPOS (R462): gd = position word of a field of the held sentence. -/
  | fpos (l c : Nat) (gd ga : BitVec 4) (sel : BitVec 8)
  /-- FCH (R462): gd = one text byte of the held sentence. -/
  | fch (l c : Nat) (gd ga : BitVec 4) (sel : BitVec 8)
  /-- FCNT (R462): gd = number of fields, address field included. -/
  | fcnt (l c : Nat) (gd ga : BitVec 4)
  /-- FCPY (R462): Copies a field or the whole text to a buffer and returns the byte count. -/
  | fcpy (l c : Nat) (gd ga : BitVec 4) (sel : BitVec 8) (whole : Bool)
  /-- FTAG (R462): gd = position word of the value of a TAG parameter. -/
  | ftag (l c : Nat) (gd ga : BitVec 4) (x : BitVec 8)
  /-- FMATCH (R462): gd = 1 when a field equals a 00h-terminated string. -/
  | fmatch (l c : Nat) (gd ga : BitVec 4) (sel : BitVec 8)
  /-- NDEC (R463): Reads a decimal field scaled by 10^S. -/
  | ndec (l c : Nat) (gd ga : BitVec 4) (sel : BitVec 8) (sc : BitVec 6)
  /-- NHEX (R464): Reads a hex field as an unsigned value. -/
  | nhex (l c : Nat) (gd ga : BitVec 4) (sel : BitVec 8)
  /-- NFMT (R465): Writes a signed decimal with S decimals and advances gd. -/
  | nfmt (l c : Nat) (gd ga : BitVec 4) (wid : BitVec 8) (sc : BitVec 6)
  /-- NHEXF (R465): Writes D uppercase hex digits and advances gd. -/
  | nhexf (l c : Nat) (gd ga : BitVec 4) (d : BitVec 8)
  /-- CXOR (R456): gd = exclusive OR of n bytes at ga. -/
  | cxor (l c : Nat) (gd ga : BitVec 4) (n : BitVec 8)
  /-- CXORA (R456): gd = gd xor the exclusive OR of n bytes at ga. -/
  | cxora (l c : Nat) (gd ga : BitVec 4) (n : BitVec 8)
  /-- CHEX (R456): gd = the two uppercase hex digits of ga[7:0]. -/
  | chex (l c : Nat) (gd ga : BitVec 4)
  /-- CUNHEX (R456): gd = value of two hex digits, or FFFF_FFFFh when not hex. -/
  | cunhex (l c : Nat) (gd ga : BitVec 4)
  /-- CCLASS (R456): gd = parser class bits of a character. -/
  | cclass (l c : Nat) (gd ga : BitVec 4)
  /-- EMIT (R468): Checks and commits a sentence from an emit descriptor as source 272 + L. -/
  | emit (l c : Nat) (gd ga : BitVec 4)
  /-- EFWD (R469): Emits the held sentence's stored text unchanged. -/
  | efwd (l c : Nat) (gd ga : BitVec 4) (f : BitVec 2)
  /-- ECHAIN (R470): Commits an engine-owned cell chain as a sentence. -/
  | echain (l c : Nat) (gd ga : BitVec 4) (f : BitVec 2)
  /-- EMSG (R471): Sends an engine message to a local message FIFO or as a TUN frame. -/
  | emsg (l c : Nat) (gd ga : BitVec 4)
  /-- TNOW (R473): Reads FTIME into a register pair. -/
  | tnow (l c : Nat) (gd ga : BitVec 4)
  /-- TDIFF (R473): gd = difference of two FTIME pairs in ns, limited. -/
  | tdiff (l c : Nat) (gd ga : BitVec 4)
  /-- TADD (R473): Adds signed nanoseconds to an FTIME pair. -/
  | tadd (l c : Nat) (gd ga : BitVec 4)
  /-- TDL (R473): gd = DEADLINE encoding of an FTIME pair. -/
  | tdl (l c : Nat) (gd ga : BitVec 4)
  /-- WAIT (R389): Waits for DISP, MSG, EVT or TMO conditions, ending a handler when DISP is named. -/
  | wait (l c : Nat) (gd ga : BitVec 4) (cond : BitVec 4)
  /-- SIGNAL (R474): Sets the event latch of a context of a logical engine and its SIGNAL flag. -/
  | signal (l c : Nat) (gd ga : BitVec 4) (k : BitVec 3)
  /-- YIELD (R474): The running context becomes READY and last in its level's rotation. -/
  | yield (l c : Nat) (gd ga : BitVec 4)
  /-- SWE (R474): Sets software event 112 + n. -/
  | swe (l c : Nat) (gd ga : BitVec 4) (n : BitVec 4)
  /-- DLWR_CLR (R475): Clears the output value of the masked discrete lines. -/
  | dlwrClr (l c : Nat) (gd ga : BitVec 4)
  /-- DLWR_SET (R475): Sets the output value of the masked discrete lines. -/
  | dlwrSet (l c : Nat) (gd ga : BitVec 4)
  /-- DLWR_TOG (R475): Toggles the output value of the masked discrete lines. -/
  | dlwrTog (l c : Nat) (gd ga : BitVec 4)
  /-- DLRD (R475): gd = debounced input levels of the discrete lines. -/
  | dlrd (l c : Nat) (gd ga : BitVec 4)
  /-- CALLOC (R476): Allocates one cell or a continuation pair owned by the engine. -/
  | calloc (l c : Nat) (gd ga : BitVec 4) (pair : Bool)
  /-- CFREE (R476): Returns owned cells to FREE. -/
  | cfree (l c : Nat) (gd ga : BitVec 4) (two : Bool)
  /-- CLD (R476): Copies a store cell into the context's cell window. -/
  | cld (l c : Nat) (gd ga : BitVec 4)
  /-- CST (R476): Copies the cell window into an owned or withheld cell. -/
  | cst (l c : Nat) (gd ga : BitVec 4)
  /-- CREL (R476): Releases the held sentence. -/
  | crel (l c : Nat) (gd ga : BitVec 4)
  /-- CRD (R478): Copies a route, port-set or subscription entry of a bank to data memory. -/
  | crd (l c : Nat) (gd ga : BitVec 4)
  /-- CWR (R478): Replaces an active-bank entry or writes an inactive-bank entry from an image; `counted`: a commit of the clock in which it
  takes effect, whose command came before, has counted the entry (R301). -/
  | cwr (l c : Nat) (gd ga : BitVec 4) (counted : Bool := false)
  /-- CLOOK (R478): gd = lowest RT index matching a key in the active bank. -/
  | clook (l c : Nat) (gd ga : BitVec 4)
  /-- FRD (R480): Reads a word at a fabric address. -/
  | frd (l c : Nat) (gd ga : BitVec 4)
  /-- FWR (R480): Writes a word to a fabric address, non-posted. -/
  | fwr (l c : Nat) (gd ga : BitVec 4)
  /-- FWRP (R480): Writes a word to a fabric address, posted. -/
  | fwrp (l c : Nat) (gd ga : BitVec 4)
  /-- FBLK (R481): Transfers up to 256 bytes between data memory and the fabric by descriptor. -/
  | fblk (l c : Nat) (gd ga : BitVec 4)
  /-- FFENCE (R480): Completes when every earlier posted fabric write of L has completed and returns the failures. -/
  | ffence (l c : Nat) (gd ga : BitVec 4)
  /-- HOST_OWN_ACCESS (R558): A host access whose fabric node is the own node completes directly, word by word, with HRDY_N, HRTY_N or
  HERR_N. -/
  | hostOwnAccess (a : Word) (len1 : BitVec 4) (wr : Bool) (phs : List HostPhase) (full : Bool := false)
  /-- HOST_READ_FIRST (R562): A remote host read with no matching tag allocates tags, launches its pieces and answers HRTY_N. -/
  | hostReadFirst (a : Word) (len1 : BitVec 4) (phs : List HostPhase) (full : Bool := false)
  /-- HOST_READ_RETRY (R564): A matching retry of a remote read gets HRTY_N while fetching or is delivered when every tag is READY. -/
  | hostReadRetry (a : Word) (len1 : BitVec 4) (phs : List HostPhase) (full : Bool := false)
  /-- HOST_POSTED_WRITE (R569): A posted remote write takes its words when slots are free and is cut into fabric requests. -/
  | hostPostedWrite (a : Word) (len1 : BitVec 4) (phs : List HostPhase) (full : Bool := false)
  /-- HOST_NONPOSTED_WRITE (R574): A non-posted remote write holds its last data phase until every request is acknowledged. -/
  | hostNonpostedWrite (a : Word) (len1 : BitVec 4) (phs : List HostPhase) (full : Bool := false)
  /-- HWIN_ATTR_WRITE (R560): A write of HWIN[w].ATTR applies the window's registers and discards its read tags, or is refused. -/
  | hwinAttrWrite (w : BitVec 3) (v : Word)
  /-- HB_FENCE_READ (R573): A read of HB.FENCE waits for earlier posted writes and returns and clears the failure count. -/
  | hbFenceRead (full : Bool := false)
  /-- RETX_TIMER_EXPIRY (R577): RETX_TIME passes without a response and the request is resent or fails with NORESP. -/
  | retxTimerExpiry (tseq : BitVec 16)
  /-- READ_HOLD_EXPIRY (R568): READ_HOLD passes with a READY tag unclaimed or read-ahead bytes held, and they are discarded. -/
  | readHoldExpiry (t : Nat)
  /-- PW_TIMEOUT_EXPIRY (R571): PW_TIMEOUT passes without a WRA and the posted write fails with NORESP. -/
  | pwTimeoutExpiry (tseq : BitVec 16)
  /-- REPLAY_HISTORY_EXPIRY (R582): A replay-cache or history key reaches 20 ms after execution and is forgotten. -/
  | replayHistoryExpiry (node : BitVec 12) (iloc : BitVec 9) (itag tseq : BitVec 16)
  /-- FRAME_HEADER_DECODE (R501): Bytes 00–03 of a received frame decide whether it is passed on, taken or stripped, and the onward copy
  starts. -/
  | frameHeaderDecode (m : Nat) (w : Word) (junc : Bool)
  /-- FRAME_END (R502): A received frame ends, is checked for CRC and length, ended EOF or ABORT onward, and tested against the duplicate
  window. -/
  | frameEnd (m : Nat) (bs : List Byte) (fin : FrameEnd) (soe : Bool := false)
  /-- RING_FRAME_DELIVER (R290): A taken frame crosses the ring-to-switch gate and is delivered as a sentence cell, tunnel item, transaction
  or event. -/
  | ringFrameDeliver (m : Nat)
  /-- TX_FRAME_START (R506): A free transmitter chooses the next frame to send by the transmit order. -/
  | txFrameStart (m : Nat) (part : Nat := 0) (held : Bool := false) (coming : Bool := false)
  /-- PREEMPTION_POINT (R508): At a 16-byte boundary an express frame or filler is sent inside a normal frame, then RESUME. -/
  | preemptionPoint (m : Nat) (part : Nat := 0) (held : Bool := false)
  /-- LINK_SIGNAL_CHANGE (R486): RNGm_LOS or RNGm_ABS changes and the link state follows. -/
  | linkSignalChange (m : Nat) (los abs : Bool)
  /-- LINK_SYNC_CHANGE (R487): A receiver gains synchronisation after 8 idle sets or loses it after 4 invalid symbols in 16. -/
  | linkSyncChange (m : Nat) (rd : Bool) (codes : List Nat := [])
  /-- LINK_UP (R486): Four consecutive IDLE_R sets arrive and the link enters UP. -/
  | linkUp (m : Nat)
  /-- RING_RATE_WRITE (R515): A write of RING.CTL changing a pair's rate takes both links into ALIGN. -/
  | ringRateWrite (v : Word)
  /-- MOD_READ (R521): A RING.MOD_CMD GO with WR = 0 reads one byte of an SFP module into MOD_DATA. -/
  | modRead (v : Word)
  /-- MOD_WRITE (R521): A RING.MOD_CMD GO with WR = 1 writes MOD_DATA to an SFP module. -/
  | modWrite (v : Word)
  /-- MOD_ACCESS_DONE (R521): The module bus access ends, GO clears and ERR shows acknowledgement. -/
  | modAccessDone (ack : Bool) (data : Byte)
  /-- HELLO_RECEIVE (R525): A HELLO sets NBR[m] and, from a ready Halter node, makes a RUNNING relay send an ADMIT_REQ. -/
  | helloReceive (m : Nat)
  /-- NBR_EXPIRY (R525): 3 × HELLO_MS pass without a HELLO and NBR[m].VALID returns to 0. -/
  | nbrExpiry (m : Nat)
  /-- ADMIT_REQ_RECEIVE (R528): The manager decides an admission request automatically or queues it in ADMQ. -/
  | admitReqReceive (m : Nat)
  /-- ASSIGN_RECEIVE (R530): An ASSIGN updates MEMBER and may admit, refuse or evict this node. -/
  | assignReceive (m : Nat)
  /-- ADM_GRANTED (R550): ADM_CMD with ACTION GRANTED broadcasts ASSIGN(GRANTED) for the DUID. -/
  | admGranted (id : BitVec 12)
  /-- ADM_REFUSED (R550): ADM_CMD with ACTION REFUSED broadcasts ASSIGN(REFUSED) for the DUID. -/
  | admRefused (id : BitVec 12)
  /-- ADM_EVICTED (R550): ADM_CMD with ACTION EVICTED broadcasts ASSIGN(EVICTED) for the DUID. -/
  | admEvicted (id : BitVec 12)
  /-- CLAIM_RECEIVE (R534): A CLAIM lowering BEST is adopted and sent on, or a node joins the election. -/
  | claimReceive (m : Nat)
  /-- SURVEY_RECEIVE (R536): A SURVEY sets the followed manager, ends an election and is answered with a REPORT. -/
  | surveyReceive (m : Nat)
  /-- REPORT_RECEIVE (R537): The manager marks a REPORT's sender seen or grants or evicts its ID. -/
  | reportReceive (m : Nat)
  /-- EVT_FRAME_RECEIVE (R543): An admitted EVT frame writes an REVT entry, or is lost when REVT is full. -/
  | evtFrameReceive (m : Nat)
  /-- EVENT_SETTING (R646): A setting reaches the event unit, sets EVT.STAT, and may set a context latch and send an EVT frame. -/
  | eventSetting (n : Nat) (acked : Bool := false)
  /-- EVT_HOLDOFF_END (R653): A holdoff ends, sending one frame for merged settings or ending holding. -/
  | evtHoldoffEnd (n : Nat)
  /-- SWE_SET (R656): A write of EVT.SWE_SET sets the selected software events. -/
  | sweSet (v : Word) (joined : Word := 0)
  /-- CAN_INIT (R592): A write of CAN[k].CTL.INIT = 1 enters INIT at the end of the frame in progress, clearing TEC and REC. -/
  | canInit (k : Nat) (v : Word) (busy : Bool)
  /-- CAN_INTEGRATION_DONE (R591): After INIT is cleared, 11 recessive bits bring the controller to ACTIVE. -/
  | canIntegrationDone (k : Nat)
  /-- CAN_FRAME_RECEIVE (R597): A frame received without error is stamped and filtered into the staging buffer or discarded. -/
  | canFrameReceive (k : Nat) (w0 : Word) (b4 : Byte) (ago delay : Nat) (data : List Byte)
  /-- CAN_RX_READ (R603): A read of CAN[k].RX_DATA returns one word of the receive FIFO, freeing the cell at the item's last word. -/
  | canRxRead (k : Nat)
  /-- CAN_TX_REQUEST (R604): A write of TXB[b].CTL.REQ checks the buffer's record and makes it PENDING or rejects it. -/
  | canTxRequest (k b : Nat) (v : Word)
  /-- CAN_TX_ABORT (R608): A write of TXB[b].CTL.ABORT frees a pending or suspended buffer or stops retransmission of an active one. -/
  | canTxAbort (k b : Nat) (v : Word)
  /-- CAN_ARBITRATION (R605): At each start of arbitration the most urgent pending frame is deadline-tested and offered. -/
  | canArbitration (k : Nat)
  /-- CAN_TX_DONE (R607): A transmission succeeds, stamps are stored and the buffer becomes FREE with RESULT 1. -/
  | canTxDone (k ago delay : Nat)
  /-- CAN_TX_FAIL (R606): A transmission loses arbitration or errs and the frame returns to PENDING or is freed. -/
  | canTxFail (k : Nat) (how : TxFail) (more : Nat)
  /-- CAN_LONE_RETRY (R616): Every LONE.RETRY ms each suspended buffer is offered once. -/
  | canLoneRetry (k : Nat)
  /-- CAN_RECOVER (R613): A write of CTL.RECOVER starts bus-off recovery. -/
  | canRecover (k : Nat) (v : Word)
  /-- CAN_RECOVERY_DONE (R613): 128 sequences of 11 recessive bits complete and the controller becomes ACTIVE. -/
  | canRecoveryDone (k : Nat)
  /-- CAN_SENTENCE_START (R610): The sentence sender takes its head sentence when its buffer is free and loads the first fast-packet frame.
  -/
  | canSentenceStart (k : Nat)
  /-- UPD_BEGIN (R701): BEGIN claims the update unit and starts or resumes a download into the proof slot. -/
  | updBegin (node : BitVec 12) (loc : BitVec 9) (flash : Bool)
  /-- UPD_BLOCK (R702): BLOCK checks UPD.BUF as block BLK and programs it into the proof slot. -/
  | updBlock (node : BitVec 12) (loc : BitVec 9) (blk : BitVec 12) (flash : Bool)
  /-- UPD_VERIFY (R703): VERIFY applies every image check to the proof slot and records VERIFIED on success. -/
  | updVerify (node : BitVec 12) (loc : BitVec 9) (flash : Bool)
  /-- UPD_ACTIVATE (R704): ACTIVATE makes the verified proof slot the print slot on trial, restarting now or later. -/
  | updActivate (node : BitVec 12) (loc : BitVec 9) (now flash : Bool)
  /-- UPD_CONFIRM (R708): CONFIRM ends the trial, writes a stable record and raises MINVER. -/
  | updConfirm (node : BitVec 12) (loc : BitVec 9) (flash : Bool)
  /-- UPD_ABANDON (R710): ABANDON gives up a download or cancels an activation not yet booted. -/
  | updAbandon (node : BitVec 12) (loc : BitVec 9) (flash : Bool)
  /-- UPD_KEYPROG (R697): KEYPROG programs a key slot from UPD.BUF in test mode. -/
  | updKeyprog (node : BitVec 12) (loc : BitVec 9) (key : BitVec 2) (flash : Bool)
  /-- UPD_UNLISTED_OP (R697): A command with an unlisted OP ends with CODE 2. -/
  | updUnlistedOp (node : BitVec 12) (loc : BitVec 9) (op : BitVec 4)
  /-- UPD_OWNER_TIMEOUT (R698): 60 s pass without a command from the owner and the update unit is released. -/
  | updOwnerTimeout (taken : Bool := false)
  /-- SCRUB_PASS_START (R717): Every SCRUB_S seconds a pass starts reading every protected word. -/
  | scrubPassStart (ups : List (Nat × Nat))
  /-- SCRUB_PASS_END (R717): A scrub pass ends, SCRUB_LAST and CNT_SCRUB update and event 90 is set when errors were found. -/
  | scrubPassEnd (ms : Nat)
  /-- RT_WALK_PASS (R723): Every 10 ms the walker compares every table word with its shadow and repairs mismatches. -/
  | rtWalkPass (errs : List (Nat × Nat))
  /-- SLICE_TEST (R724): SLICE_CMD TEST runs an internal loopback test of a spare slice. -/
  | sliceTest (x : BitVec 9)
  /-- SLICE_RETIRE (R725): SLICE_CMD RETIRE logs and permanently retires a spare slice. -/
  | sliceRetire (x : BitVec 9)
  /-- SLICE_TEST_RETIRE (R724): SLICE_CMD TEST_RETIRE tests a spare slice and retires it on failure. -/
  | sliceTestRetire (x : BitVec 9)
  /-- SLICE_CMD_END (R724): A slice command ends, RESULT is written and event 93 is set. -/
  | sliceCmdEnd (pass : Bool)
  /-- ROT_MOVE (R732): ROT_CMD MOVE moves a logical engine at once onto a spare. -/
  | rotMove (l : BitVec 4) (target : BitVec 5)
  /-- ROT_RETIRE (R732): ROT_CMD RETIRE retires a spare physical engine without test. -/
  | rotRetire (l : BitVec 4) (target : BitVec 5)
  /-- MOVE_COPY_ROUND (R729): A background copy round ends and the move stalls, copies again, or is abandoned. -/
  | moveCopyRound (dirty : Nat)
  /-- SELF_TEST_END (R730): The left engine's self-test ends and it becomes a spare or is retired. -/
  | selfTestEnd (e res word : Nat)
  /-- TEMP_SAMPLE (R734): Every 1 ms the sensors update and THERM_WARN or THERM_CRIT may be set. -/
  | tempSample (t0 t1 t2 t3 : BitVec 16)
  /-- VMON_WARN (R735): A rail stays outside its band for 1 ms and VWARN is set. -/
  | vmonWarn (r mv : Nat)
  /-- LOG_CMD (R738): A write of AV.LOG_CMD.GO queues a SOFTWARE record. -/
  | logCmd (v : Word)
  /-- IDLE_NR_RECEIVE (R486): An IDLE_NR set arrives from the peer on a link in UP and the link leaves UP for WAITPEER. -/
  | idleNrReceive (m : Nat)
  /-- LINE_LOW_CLEAR (R106): A slice waiting with LINE_LOW samples the receive line high in GLITCH + 1 consecutive clocks, clears LINE_LOW,
  re-arms the start detector and starts the idle timer. -/
  | lineLowClear (n : Nat)
  /-- RX_LIVE_CLEAR (R211): A 10 µs line sample falls outside the open band, or reaches 100 mV, and RXOPEN_LIVE or RXZERO_LIVE clears so the
  tile passes the receiver output again. -/
  | rxLiveClear (p : Nat) (vd : Int)
  /-- CAN_RECEIVE_ERROR (R612): A bus error is detected while receiving, an error frame is sent, REC rises, and the controller may become
  error passive. -/
  | canReceiveError (k : Nat) (big : Bool) (more : Nat := 0)
  /-- RESERVED_OPCODE (R426): A context issues a word with opcode 22h–3Eh, or with a reserved fn, function or field encoding, and takes
  ILLEGAL. -/
  | reservedOpcode (l c : Nat) (w : Word)
  /-- POWER_ON_RESET (R661): A core rail is not good or fails, holding the whole device in power-on reset until 2 ms after the last core
  rail is good. -/
  | powerOnReset
  /-- PIN_RESET (R664): RESET_N held low for at least 1 µs resets the node with RWS fields kept and links dark. -/
  | pinReset (torn : Option (Nat × Option Nat) := none)
  /-- HALTER_ENTRY (R668): The boot completes, the node enters HALTER, events 97 and 99 are set and L0 C0 starts in boot mode 00b. -/
  | halterEntry
  /-- REFA_FAIL (R751): REFA loses edges or leaves ±1,000 ppm and the PLLs continue from REFB. -/
  | refaFail
  /-- SLEEP_DRAIN_END (R675): The drain wait ends, parsers truncate units, unstarted sentences are tail-dropped and running contexts are
  stopped. -/
  | sleepDrainEnd
  /-- STABLED_ENTRY (R675): After any move in progress ends, paddock clocks stop, SLEEPST rises and the node is STABLED. -/
  | stabledEntry
  /-- WAKE_OUT_END (R682): The 1 ms of WAKE ordered sets ends and the links return to idle sets. -/
  | wakeOutEnd
  /-- STRIP_WINDOW_END (R665): The 100 ms after a core restart end and the ring unit stops stripping frames of the former node ID. -/
  | stripWindowEnd
  /-- TABLE_COPY_DONE (R297): The bank copy completes and BUSY returns to 0. -/
  | tableCopyDone
  /-- REFRESH_LAUNCH (R158): Every 512 time-paddock clocks a refresh starts and pending FTIME changes take effect in one new epoch. -/
  | refreshLaunch
  /-- TIME_LOAD (R348): A SET_CMD with MODE LOAD sets FTIME to SET_HI:SET_LO at the next refresh launch. -/
  | timeLoad
  /-- TIME_AT_SAMPLE (R348): A SET_CMD with MODE AT_SAMPLE sets the seconds of FTIME at the next accepted PPS edge. -/
  | timeAtSample
  /-- TIME_ADJUST (R348): A SET_CMD with MODE ADJUST adds TIME.ADJ nanoseconds to FTIME at the next refresh launch. -/
  | timeAdjust
  /-- TIME_NOW_READ (R347): A read of TIME.NOW_LO returns FTIME bits 31:0 and latches bits 63:32 into NOW_HI. -/
  | timeNowRead
  /-- PPS_WINDOW_MISS (R355): FTIME passes the whole second plus WIN with no accepted edge, a miss is counted and after MISS_MAX the loop
  enters ACQ. -/
  | ppsWindowMiss
  /-- PPSOUT_PULSE (R365): FTIME reaches a whole second less ADVANCE and PPSOUT goes active. -/
  | ppsoutPulse
  /-- PPSOUT_END (R365): 100 ms after it went active, PPSOUT returns inactive. -/
  | ppsoutEnd
  /-- SYNC_SEND (R368): Every SYNC_MS a time master sends an express broadcast SYNC in both main-pair directions. -/
  | syncSend
  /-- SYNC_MISS (R371): 2 × SYNC_MS pass without an accepted SYNC and a miss is recorded. -/
  | syncMiss
  /-- PD_REQ_SEND (R372): Once a second a RUNNING node sends a link-local PD_REQ on each UP link. -/
  | pdReqSend
  /-- SHUTTER_READ (R379): A read of SHUT.DATA2 returns the head entry's descriptor and removes the entry. -/
  | shutterRead
  /-- ERRLOG_READ (R584): A read of HB.ERRLOG4 returns the head entry's descriptor and removes the entry. -/
  | errlogRead
  /-- TRANSACTION_RESPONSE (R578): A response naming an incomplete transaction completes it, failing it on STATUS 1 or 3. -/
  | transactionResponse
  /-- NP_TIMEOUT_EXPIRY (R574): NP_TIMEOUT expires before a non-posted write is acknowledged and the phase ends with HERR_N. -/
  | npTimeoutExpiry
  /-- FABRIC_REQUEST_TAKEN (R580): An RDQ, WRN or WRP addressed to this node enters the target queue, or is dropped when it is full. -/
  | fabricRequestTaken
  /-- TARGET_EXECUTE (R582): The target takes the next queued request and replays, answers STALE_RETRY, drops, or executes and answers it.
  -/
  | targetExecute
  /-- HELLO_SEND (R524): Every HELLO_MS, or on a change, a node sends a HELLO on each UP link. -/
  | helloSend
  /-- ELECT_QUIET_EXPIRY (R534): BEST is unchanged for ELECT_QUIET and the candidate holding it becomes manager. -/
  | electQuietExpiry
  /-- ELECTION_START (R535): 3 × SURVEY_MS pass without a SURVEY and a node starts an election. -/
  | electionStart
  /-- ELECTION_RESTART (R534): No SURVEY arrives within 3 × SURVEY_MS of the quiet period's end and the election starts again. -/
  | electionRestart
  /-- SURVEY_SEND (R537): Every SURVEY_MS the manager sends a SURVEY and removes members unseen in three surveys. -/
  | surveySend
  /-- CAN_FRAME_DELIVER (R601): The switch delivers a staged frame to the receive FIFO, engine, mailboxes or tunnel named by its filter. -/
  | canFrameDeliver (k : Nat)
  /-- CAN_RECORD_LOAD (R609): A frame record from the switch is loaded into a named or free transmit buffer, or dropped. -/
  | canRecordLoad (k : Nat)
  /-- LIVE_DRAIN_END (R706): Named engines drain or LIVE_DRAIN passes, and memories, banks and contexts are rewritten and started. -/
  | liveDrainEnd
  /-- UPD_COMMAND_END (R697): A running update command ends, GO clears and RESULT holds its outcome. -/
  | updCommandEnd
  /-- CONFIRM_DUE (R707): CONFIRM_LEFT falls to CONFIRM_WARN and event 84 is set. -/
  | confirmDue
  /-- CONFIRM_WINDOW_EXPIRY (R709): The confirmation window expires, a revert record is written and a core restart begins. -/
  | confirmWindowExpiry
  /-- ROTATION_DUE (R727): PERIOD minutes pass and a remount move starts or is skipped. -/
  | rotationDue
  /-- MOVE_COMPLETE (R422): The stall ends, the logical engine runs on its new physical engine and event 91 is set. -/
  | moveComplete
  /-- LOG_RECORD_WRITE (R737): A queued service-log record is written to flash. -/
  | logRecordWrite
  /-- HELLO_READY_HOLD_END (R526): 60 ms after the end of a reset, the READY that a Halter node shows in its HELLOs changes to
  ADM_CTL.READY, and a HELLO is sent at once. -/
  | helloReadyHoldEnd
  deriving DecidableEq, Repr

end Sys2Proof
end

