-- ==== Sys2Proof/Decode.lean ====
section
/-!
DEFINITION. Commands spelled by words. The table of commands gives no row any bits: the commands reach the device as bus accesses, line
signals, frames and elapsed times, and only the engine instructions have words (R423–R426), which their meanings build and match
themselves (Machine/FzCore.lean).
-/
namespace Sys2Proof

/-- The command that `nbits` bits spell: the table gives bits to no row. -/
def decodeTableWord (_nbits _w : Nat) : Option Instr := none

end Sys2Proof
end

