-- ==== Sys2Proof/Config.lean ====
section
/-!
DEFINITION. The values the specification leaves open. Each is an opaque constant: nothing in Lean can evaluate it, so a
claim that mentions one holds whatever its value. The assumption-log entry of each is named beside it.
-/
namespace Sys2Proof

/-- The n-th open choice of a run, as a natural number (log entry 4): the random back-off factor of R124, and every other
value of which the specification states only a range. A step that needs one reads it at the model's own counter
`State.free` and advances the counter. -/
opaque Config.freeNat : Nat → Nat

end Sys2Proof
end

