-- ==== Sys2Proof/Machine/Tab.lean ====
section
/-!
DEFINITION. Sparse tables, bit fields, checks and byte orders: the helpers every unit of the model uses.
A table is a list of (key, value) pairs with keys strictly rising and no value equal to the default of its key, so that
equal tables are equal data.
-/
namespace Sys2Proof.Machine

/-- A sparse table with natural-number keys. -/
abbrev Tab (α : Type) := List (Nat × α)

/-- The value at a key; `d` gives the default of each key. -/
def tabGet {α : Type} (d : Nat → α) : Tab α → Nat → α
  | [], k => d k
  | (k', v) :: r, k => if k = k' then v else tabGet d r k

/-- Insert or replace a key, keeping the keys rising. -/
def tabPut {α : Type} : Tab α → Nat → α → Tab α
  | [], k, v => [(k, v)]
  | (k', v') :: r, k, v =>
    if k < k' then (k, v) :: (k', v') :: r
    else if k = k' then (k, v) :: r
    else (k', v') :: tabPut r k v

/-- Remove a key. -/
def tabDel {α : Type} : Tab α → Nat → Tab α
  | [], _ => []
  | (k', v') :: r, k => if k = k' then tabDel r k else (k', v') :: tabDel r k

/-- Write a key: a value equal to the default of its key is not listed. -/
def tabSet {α : Type} [DecidableEq α] (d : Nat → α) (t : Tab α) (k : Nat) (v : α) : Tab α :=
  if v = d k then tabDel t k else tabPut t k v

/-- A table with every listed value mapped. -/
def tabMap {α : Type} [DecidableEq α] (d : Nat → α) (f : α → α) (t : Tab α) : Tab α :=
  t.foldl (fun acc e => tabSet d acc e.1 (f e.2)) []

/-- The keys are strictly rising and all above `lo`, and no listed value equals its default. -/
def tabWfFrom {α : Type} [DecidableEq α] (d : Nat → α) : Option Nat → Tab α → Bool
  | _, [] => true
  | lo, (k, v) :: r =>
    (match lo with
      | none => true
      | some l => decide (l < k)) && decide (v ≠ d k) && tabWfFrom d (some k) r

/-- The canonical form of a table. -/
def tabWf {α : Type} [DecidableEq α] (d : Nat → α) (t : Tab α) : Bool := tabWfFrom d none t

/-- Bits `hi` to `lo` of a word, as a number. -/
def bits (w : Word) (hi lo : Nat) : Nat := (w.toNat >>> lo) % 2 ^ (hi + 1 - lo)

/-- One bit of a word. -/
def bit (w : Word) (i : Nat) : Bool := w.getLsbD i

/-- The word whose bits `hi` to `lo` are 1. -/
def maskOf (hi lo : Nat) : Word := BitVec.ofNat 32 ((2 ^ (hi + 1 - lo) - 1) <<< lo)

/-- A word with bits `hi` to `lo` replaced by a number. -/
def setBits (w : Word) (hi lo : Nat) (v : Nat) : Word :=
  (w &&& ~~~ (maskOf hi lo)) ||| (BitVec.ofNat 32 ((v % 2 ^ (hi + 1 - lo)) <<< lo))

/-- A number as a word. -/
def wd (n : Nat) : Word := BitVec.ofNat 32 n

/-- A flag as a number. -/
def b2n (b : Bool) : Nat := if b then 1 else 0

/-- An error counter stops at FFFF_FFFFh (R39). -/
def satAdd (w : Word) (n : Nat) : Word := if w.toNat + n ≥ 2 ^ 32 then wd (2 ^ 32 - 1) else wd (w.toNat + n)

/-- The low and the high word of a 64-bit value. -/
def lo32 (d : DWord) : Word := d.truncate 32
def hi32 (d : DWord) : Word := (d >>> (32 : Nat)).truncate 32
def dword (hi lo : Word) : DWord := hi ++ lo

/-- The k bytes of a number, least significant first (R42). -/
def bytesLE : Nat → Nat → List Byte
  | 0, _ => []
  | k + 1, n => BitVec.ofNat 8 n :: bytesLE k (n / 256)

/-- The number whose bytes are given, least significant first (R42). -/
def ofBytesLE : List Byte → Nat
  | [] => 0
  | b :: r => b.toNat + 256 * ofBytesLE r

/-- The four bytes of a word (R42). -/
def wordBytes (w : Word) : List Byte := bytesLE 4 w.toNat

/-- Pack bytes into words, least significant first, the last word filled with zero bytes (R164). -/
def packWords : List Byte → List Word
  | a :: b :: c :: d :: r => wd (ofBytesLE [a, b, c, d]) :: packWords r
  | [] => []
  | r => [wd (ofBytesLE r)]

/-- The bytes of a list of words. -/
def unpackWords (ws : List Word) : List Byte := (ws.map wordBytes).flatten

/-- Merge a write of the enabled bytes into a word. -/
def mergeBytes (old new : Word) (be : BitVec 4) : Word :=
  let m : Nat := (List.range 4).foldl (fun a i => if be.getLsbD i then a + 255 * 256 ^ i else a) 0
  (old &&& ~~~ (wd m)) ||| (new &&& wd m)

/-- One bit step of a CRC with most significant bit first. -/
def crc8Bit (r : BitVec 8) : BitVec 8 := if r.getLsbD 7 then (r <<< (1 : Nat)) ^^^ 0x07#8 else r <<< (1 : Nat)

/-- Apply a function n times. -/
def iter {α : Type} (f : α → α) : Nat → α → α
  | 0, a => a
  | n + 1, a => iter f n (f a)

/-- The CRC-8 of a header (R493): polynomial 07h, initial value 00h, no reflection, no final exclusive OR. -/
def crc8 (bs : List Byte) : Byte := bs.foldl (fun r b => iter crc8Bit 8 (r ^^^ b)) 0

/-- One bit step of a reflected CRC-32 with the reflected polynomial `p`. -/
def crc32Bit (p : Word) (r : Word) : Word := if r.getLsbD 0 then (r >>> (1 : Nat)) ^^^ p else r >>> (1 : Nat)

/-- A reflected CRC-32 with initial value and final exclusive OR FFFF_FFFFh. -/
def crc32With (p : Word) (bs : List Byte) : Word :=
  ~~~ (bs.foldl (fun r b => iter (crc32Bit p) 8 (r ^^^ (b.setWidth 32))) (~~~ (0 : Word)))

/-- The frame CRC-32 (R493): polynomial 04C1_1DB7h, reflected; over no bytes it is 0. -/
def crc32 (bs : List Byte) : Word := crc32With 0xEDB88320#32 bs

/-- The CRC-32C of the flash images (R692): polynomial 1EDC_6F41h, reflected. -/
def crc32c (bs : List Byte) : Word := crc32With 0x82F63B78#32 bs

/-- FTIME as nanoseconds: seconds in bits 63:30, nanoseconds in bits 29:0. -/
def ftNs (t : DWord) : Nat := (t.toNat / 2 ^ 30) * 1000000000 + t.toNat % 2 ^ 30

/-- Nanoseconds as an FTIME; the seconds wrap at 2^34. -/
def nsFt (n : Nat) : DWord := BitVec.ofNat 64 ((n / 1000000000) % 2 ^ 34 * 2 ^ 30 + n % 1000000000)

/-- One full turn of FTIME in nanoseconds. -/
def ftTurn : Nat := 2 ^ 34 * 1000000000

/-- FTIME plus a signed number of nanoseconds, with carry and borrow between nanoseconds and seconds. -/
def ftAdd (t : DWord) (d : Int) : DWord := nsFt (((ftNs t : Int) + d) % (ftTurn : Int)).toNat

/-- A signed 32-bit value as an integer. -/
def sgn (w : Word) : Int := w.toInt

/-- A natural number with n bits read as a signed integer. -/
def sgnN (n v : Nat) : Int := if v % 2 ^ n < 2 ^ (n - 1) then (v % 2 ^ n : Nat) else ((v % 2 ^ n : Nat) : Int) - (2 ^ n : Nat)

/-- Update one element of a list. -/
def listSet {α : Type} : List α → Nat → α → List α
  | [], _, _ => []
  | _ :: r, 0, v => v :: r
  | a :: r, n + 1, v => a :: listSet r n v

end Sys2Proof.Machine
end

