-- ==== Sys2Proof/Machine/Regs.lean ====
section
/-!
DEFINITION. The register map: for every register of the offset tables of the specification, which bits a write sets (RW,
RWS), which bits a 1 clears (W1C), and its reset value (R12, R15). Read-only bits and the bits that actions write are in
neither mask. A row with both masks 0 and reset 0 is also a reserved offset that reads as zero (R37).
-/
namespace Sys2Proof.Machine

/-- One row of the register map: `count` registers from `base` on, `step` bytes apart. -/
structure RegRow where
  base : Nat
  step : Nat
  count : Nat
  rw : Nat
  w1c : Nat
  reset : Nat
  deriving DecidableEq, Repr

/-- A single register. -/
def reg1 (base rw w1c reset : Nat) : RegRow := ⟨base, 4, 1, rw, w1c, reset⟩

/-- A run of registers. -/
def regN (base step count rw w1c reset : Nat) : RegRow := ⟨base, step, count, rw, w1c, reset⟩

/-- A counter: all 32 bits RW, reset 0 (R40). -/
def regC (base : Nat) : RegRow := ⟨base, 4, 1, 0xFFFFFFFF, 0, 0⟩

/-- A reserved or wholly read-only run of words that resets to zero. -/
def regZ (base count : Nat) : RegRow := ⟨base, 4, count, 0, 0, 0⟩

/-- Whether an offset is one of a row's registers. -/
def rowHit (r : RegRow) (a : Nat) : Bool :=
  decide (r.base ≤ a) && decide (a < r.base + r.step * r.count) && decide ((a - r.base) % r.step = 0)

/-- The row that maps an offset. -/
def rowFind : List RegRow → Nat → Option RegRow
  | [], _ => none
  | r :: t, a => if rowHit r a then some r else rowFind t a

/-- Node control (R684), offsets from 0_0001_0000h. -/
def rowsNode : List RegRow := [
  reg1 0x00 0 0x10000 1, reg1 0x04 0xFF 0 1, regZ 0x08 2, reg1 0x10 0x8000FFFF 0 0x64, regZ 0x14 1,
  reg1 0x18 0xF7F 0 0x20, regZ 0x1C 4, regC 0x2C, regN 0x30 8 2 0xE000FFFF 0x10000000 0, regN 0x34 8 2 0 0 0,
  regZ 0x40 1, regZ 0x44 0x3EF]

/-- The event unit (R655). -/
def rowsEvt : List RegRow := [
  reg1 0x1000 0 0xFFFFFFFF 0, reg1 0x1004 0 0xF3FFFFFF 0, reg1 0x1008 0 0xFF3FFFFF 0, reg1 0x100C 0 0xFFFF1F3F 0,
  reg1 0x1010 0xFFFFFFFF 0 0, reg1 0x1014 0xF3FFFFFF 0 0, reg1 0x1018 0xFF3FFFFF 0 0, reg1 0x101C 0xFFFF1F3F 0 0,
  reg1 0x1020 0xFFFFFFFF 0 0, reg1 0x1024 0xF3FFFFFF 0 0, reg1 0x1028 0xFF3FFFFF 0 0, reg1 0x102C 0xFFFF1F3F 0 0,
  regZ 0x1030 8, reg1 0x1050 0x33F 0 0x300, regZ 0x1054 3, reg1 0x1060 0xFF 0 1, regC 0x1064, regC 0x1068,
  regC 0x106C, reg1 0x1070 0 1 0, regZ 0x1074 35, regN 0x1100 4 128 0x3FFF01F7 0 0]

/-- The gate registers (R154). -/
def rowsGate : List RegRow := [
  regZ 0x3C00 32, regN 0x4000 8 512 0 7 0, regN 0x4004 8 512 0xFFFFFFFF 0 0]

/-- The host mailboxes (R172), offsets within one mailbox. -/
def rowsHmb : List RegRow := [
  regZ 0x00 2, reg1 0x08 0x03FF03FF 0 0, reg1 0x0C 0 0x1C 1, reg1 0x10 0x03FF03FF 0 0, reg1 0x14 0 0x1C 1,
  regC 0x18, regC 0x1C, regC 0x20, regC 0x24, regZ 0x28 6]

/-- The engine message FIFOs (R175), offsets within one FIFO. -/
def rowsEmq : List RegRow := [
  regZ 0x00 1, reg1 0x04 0x03FF03FF 0 0, reg1 0x08 0 0x1C 1, regC 0x0C, regC 0x10, regC 0x14, regZ 0x18 2]

/-- The ring unit (R514), offsets from 0_0004_0000h; offsets not listed are reserved. -/
def rowsRing : List RegRow := [
  reg1 0x00 3 0 0, reg1 0x04 0 0x1F 0, reg1 0x08 0xFF 0 0x14, regZ 0x0C 1, reg1 0x10 0xFFF 0 0, regZ 0x14 1,
  reg1 0x20 0x1CFEFF00 0 0, reg1 0x24 0xFF 0 0, reg1 0x28 0x17F 0 0x70, regN 0x40 4 10 0xFFFFFFFF 0 0,
  regN 0x100 0x40 4 7 0 1, regN 0x104 0x40 4 0 0x300 0, regN 0x108 0x40 4 0xFFFFFF 0 0x10010,
  regN 0x10C 0x40 4 0xFFFFFFFF 0 0, regN 0x110 0x40 4 0xFFFFFFFF 0 0, regN 0x114 0x40 4 0xFFFFFFFF 0 0,
  regN 0x118 0x40 4 0xFFFFFFFF 0 0, regN 0x11C 0x40 4 0xFFFFFFFF 0 0, regN 0x120 0x40 4 0xFFFFFFFF 0 0,
  regN 0x124 0x40 4 0xFFFFFFFF 0 0, regN 0x128 0x40 4 0xFFFFFFFF 0 0, regN 0x12C 0x40 4 0xFFFFFFFF 0 0,
  regN 0x130 0x40 4 0xFFFFFFFF 0 0, regN 0x134 0x40 4 0xFFFFFFFF 0 0,
  -- R544
  reg1 0x400 0x0FFFFF13 0 0x643211, reg1 0x404 0 0xFF00 0, reg1 0x418 0x80000FFF 0 0, reg1 0x41C 0x0FFF0FFF 0 0x0FFE0001,
  reg1 0x420 0xFF 0 0xA, reg1 0x424 0x1F 0 0, reg1 0x428 0x0FFF0FFF 0 0, reg1 0x434 0x1F 0 0, reg1 0x438 0xFFFFFFFF 0 0,
  reg1 0x43C 0xFFFFFFFF 0 0, reg1 0x440 0x30000FFF 0 0, reg1 0x448 0x3F 0 0, regN 0x450 4 7 0xFFFFFFFF 0 0,
  regZ 0x00 0x4000]

/-- The port record (R77, R178, R245, R282, R334), offsets within one record. -/
def rowsPort : List RegRow := [
  reg1 0x00 0x13 0 0, reg1 0x04 0xFFFFFFF 0 0xA2C2AB, reg1 0x08 0x37F 0 8, reg1 0x0C 0xFF 0 0xC, reg1 0x10 0x3FF 0 0,
  reg1 0x14 0x1F 0 3, reg1 0x18 0 0x7FF00 0, reg1 0x1C 0x7FF00 0 0, reg1 0x20 0x21FF0000 0 0, reg1 0x24 0xFFFF 0 0x40,
  reg1 0x28 0x2FFFF 0 0x64, reg1 0x2C 0 0 0xFFFFFF, regZ 0x30 4,
  -- R245, R282
  reg1 0x40 0x3FFFF 0 0x5052, reg1 0x44 0 0x7FF 0, reg1 0x48 0x7FF 0 0, regC 0x4C, reg1 0x50 0x30FFF 0 0, regC 0x54,
  regZ 0x58 2,
  -- R334
  reg1 0x60 0x1F7FFF 0 0x20, regC 0x64, regC 0x68, reg1 0x6C 0xFFFF 0 0x408, reg1 0x70 0 0x1F00 0, regZ 0x74 1, regC 0x78,
  regC 0x7C,
  -- R178
  reg1 0x80 0x1CFF7F 0 0x100, reg1 0x84 0x3FFF80 0 0, regZ 0x88 1, reg1 0x8C 0 7 0, regC 0x90, regC 0x94,
  reg1 0x98 0xFFF01FF 0 0, reg1 0x9C 0xF 0 0,
  -- the counters of R77, R249 and R334
  regN 0xA0 4 11 0xFFFFFFFF 0 0, regZ 0xCC 1, regN 0xD0 4 12 0xFFFFFFFF 0 0]

/-- A line tile with its four line ports (R219), offsets within one tile. -/
def rowsTile : List RegRow := [
  reg1 0x00 1 0 0, reg1 0x04 0 0x106 0, reg1 0x08 0x106 0 0, regC 0x0C, regZ 0x10 0x3C,
  regN 0x100 0x40 4 0x1F80 0 0x100, regN 0x104 0x40 4 0 0x7F00 0, regN 0x108 0x40 4 0x7F00 0 0,
  regN 0x10C 0x40 4 0xFFFF3FFF 0 0xA01F4, regN 0x110 0x40 4 0xFFFF0000 0 0xFFFF0000, regN 0x114 0x40 4 0xFFFF0000 0 0,
  regN 0x118 0x40 4 0 0 0, regN 0x11C 0x40 4 0 0 0, regN 0x120 0x40 4 0xFFFFFFFF 0 0, regN 0x124 0x40 4 0xFFFFFFFF 0 0,
  regN 0x128 0x40 4 0xFFFFFFFF 0 0, regN 0x12C 0x40 4 0xFFFFFFFF 0 0, regN 0x130 0x40 4 0xFFFFFFFF 0 0,
  regN 0x134 0x40 4 0xFFFFFFFF 0 0, regN 0x138 0x40 4 0 0 0, regN 0x13C 0x40 4 0 0 0]

/-- The switch (R264, R303, R341, R284), offsets from 0_0020_0000h. -/
def rowsSw : List RegRow := [
  reg1 0x00 0 7 0, reg1 0x04 0xFFFFFFFF 0 0x400, reg1 0x08 0xFFFF 0 0, reg1 0x0C 0 0 0x8000, reg1 0x10 0 0 0x4000,
  reg1 0x14 0xFFFF 0 0x8000, regC 0x18, regZ 0x1C 57,
  regN 0x100 4 22 0x30FFF 0 0, regC 0x158, regZ 0x15C 41, reg1 0x200 2 0 2, reg1 0x204 0x33000FFF 0 0,
  regN 0x208 4 5 0xFFFFFFFF 0 0, regZ 0x21C 9, regN 0x240 4 16 0xFFFFFFFF 0 0,
  reg1 0x280 0xFFFF 0 0x3E8, regZ 0x284 1, regC 0x288, regC 0x28C, regZ 0x290 4, regZ 0x2A0 9,
  regN 0x8000 4 8192 0xFFFFFFFF 0 0]

/-- A CAN controller (R620–R624), offsets within one controller below 1000h. -/
def rowsCan : List RegRow := [
  reg1 0x00 0x317 0 5, reg1 0x04 0 0x3FF00 0, reg1 0x08 0x3FF00 0 0, reg1 0x0C 0x7F7FFF1F 0 0x13138A01,
  reg1 0x10 0x1FFFFF1F 0 0x07B33C00, regZ 0x14 2, reg1 0x1C 0xFFFF00FF 0 0x00640020, reg1 0x20 0x3F 0 0x20,
  reg1 0x24 0x1FFFFFFF 0 0, reg1 0x28 0x8000003F 0 0x3F, regZ 0x2C 1, reg1 0x30 0x1FFFFFFF 0 0, reg1 0x34 0x1FFFFFFF 0 0,
  reg1 0x38 0x3F 0 0, regN 0x40 4 4 0xFFFFFFFF 0 0, regZ 0x50 1, reg1 0x54 0x03FF03FF 0 0, reg1 0x58 0 0x1C 1,
  regN 0x60 4 12 0xFFFFFFFF 0 0, regN 0x400 0x10 64 0xFFFFFFFF 0 0, regN 0x404 0x10 64 0xFFFFFFFF 0 0,
  regN 0x408 0x10 64 0xFFFCFFFF 0 0]

/-- A transmit buffer of a CAN controller (R620, R624), offsets within one buffer. -/
def rowsTxb : List RegRow := [regN 0x00 4 20 0xFFFFFFFF 0 0, regZ 0x50 3, reg1 0x7C 0x30000000 0 0]

/-- The time unit and the Shutter (R382). -/
def rowsTime : List RegRow := [
  reg1 0x00 0x2C7 0 0, reg1 0x04 0 0x7F00 0, regZ 0x08 4, reg1 0x18 0xFFFFFFFF 0 0, reg1 0x1C 0xFFFFFFFF 0 0,
  reg1 0x20 3 0 0, reg1 0x24 0xFFFFFFFF 0 0, reg1 0x28 0xFFFFFFFF 0 0x064003E8, reg1 0x2C 0x3FFFFFFF 0 0x2710,
  reg1 0x30 0x1F1F0F0F 0 0x02060204, reg1 0x34 0xFFFFFFFF 0 0, regZ 0x38 1, reg1 0x3C 0xFFFFFFFF 0 0, regZ 0x40 4, reg1 0x50 0xFFFFFFFF 0 0,
  reg1 0x54 0xC0000003 0 0, reg1 0x58 0xC00000FF 0 0, regN 0x5C 4 5 0xFFFFFFFF 0 0, reg1 0x70 0x0FFF3FFF 0 0x7D3, regZ 0x74 1,
  regC 0x78, regC 0x7C, regN 0x80 8 4 0 0 0xFFFFFFFF, regN 0x84 8 4 0xFFFF 0 0, regZ 0xA0 24,
  reg1 0x100 0x03FF03FF 0 0, reg1 0x104 0 0x1C 1, reg1 0x108 3 0 0, regZ 0x10C 4, regC 0x11C, regZ 0x120 0x3B8]

/-- The discrete lines (R641), offsets from 0_0002_0000h. -/
def rowsDl : List RegRow := [
  regZ 0x1000 2, reg1 0x1008 0xFFFFFFFF 0 0, regZ 0x100C 5, reg1 0x1020 0xFFFFFFFF 0 0, regZ 0x1024 51, reg1 0x10F0 0xFF 0 0,
  regZ 0x10F4 3, regN 0x1100 0x20 32 0xFBFCFFFF 0 0, regN 0x1104 0x20 32 0 0xF8 0, regN 0x1108 0x20 32 0xFFFFFFFF 0 0,
  regN 0x110C 0x20 32 0xFFFFFFFF 0 0, regN 0x1110 0x20 32 0 0 0, regN 0x1114 0x20 32 0 0 0,
  regN 0x1118 0x20 32 0xFFFFFF 0 0x3E8, regN 0x111C 0x20 32 0xFFFFFF 0 0]

/-- The host bridge (R585–R588); offsets not listed are unmapped. -/
def rowsHb : List RegRow := [
  reg1 0x00 0 0x13F 0, reg1 0x04 0xFFFF 0 0x14, reg1 0x08 0xFFFF 0 0x3E8, reg1 0x0C 0x303FF 0 0x103E8, reg1 0x10 0xFFFF 0 0x7D0,
  regZ 0x14 2, regN 0x20 4 13 0xFFFFFFFF 0 0, regN 0x100 0x10 8 0xFFFF0000 0 0, regN 0x104 0x10 8 0xFFFF0000 0 0,
  regN 0x108 0x10 8 0xFFFF 0 0, reg1 0x10C 0x80003F0F 0 0x8000110A, regN 0x11C 0x10 7 0x80003F0F 0 0x110A, regZ 0x200 6,
  regN 0x300 4 7 0xFFFFFFFF 0 0]

/-- The update unit (R712, R713); offsets not listed are unmapped. -/
def rowsUpd : List RegRow := [
  reg1 0x00 0x0FFF001F 0 0, regZ 0x04 1, reg1 0x08 0 0x80000 0, regZ 0x0C 5, reg1 0x20 0xFFFF 0 0x258, reg1 0x24 0xFFFF 0 0x3C,
  regZ 0x28 1, reg1 0x2C 0xFFFF 0 0xA, regZ 0x30 1, regN 0x40 4 4 0xFFFFFFFF 0 0]

/-- The availability unit (R739, R740); offsets not listed are unmapped. -/
def rowsAv : List RegRow := [
  reg1 0x00 0 0x3FF 0, reg1 0x04 0x3FF 0 0xA, regC 0x08, regC 0x0C, regZ 0x10 1, regC 0x14, regZ 0x18 1, regN 0x1C 4 3 0xFFFFFFFF 0 0,
  regZ 0x28 1, reg1 0x40 0x87FF 0 0x803C, reg1 0x44 0x30001F0F 0 0x1F00, regZ 0x48 1, regC 0x4C, regC 0x50, reg1 0x60 0x030001FF 0 0,
  regZ 0x80 4, reg1 0x90 0x1FFFF 0 0x6E64, regZ 0xA0 6, regZ 0xC0 1, reg1 0xC4 0 0 0, regN 0xC8 4 3 0xFFFFFFFF 0 0,
  regC 0xD4]

/-- The block of a logical engine with its contexts (R408–R415), offsets within one engine. -/
def rowsEng : List RegRow := [
  reg1 0x00 0x0FFFFF05 0 0x00100001, reg1 0x04 0 0x1FF00 1, reg1 0x08 0x1FF00 0 0x700, reg1 0x0C 0x0FFF0FFF 0 0x00400040,
  regZ 0x10 1, regN 0x14 4 7 0xFFFFFFFF 0 0, regZ 0x30 4, regN 0x40 0x10 8 0x301 0 0, regN 0x44 0x10 8 0 0 0,
  regN 0x48 0x10 8 0xFFFC 0 0, regN 0x4C 0x10 8 0xFFFC 0 0, regZ 0xC0 16]

/-- The register row that maps a node-local offset. -/
def regRow (a : Nat) : Option (RegRow × Nat) :=
  if a < 0x00010000 then none
  else if a < 0x00020000 then
    (rowFind (rowsNode ++ rowsEvt ++ rowsGate) (a - 0x00010000)).map (fun r => (r, a - 0x00010000))
  else if a < 0x00030000 then (rowFind (rowsTime ++ rowsDl) (a - 0x00020000)).map (fun r => (r, a - 0x00020000))
  else if a < 0x00030800 then (rowFind rowsHb (a - 0x00030000)).map (fun r => (r, a - 0x00030000))
  else if 0x00030800 ≤ a ∧ a < 0x00030900 then
    (rowFind rowsHmb ((a - 0x00030800) % 0x40)).map (fun r => (r, (a - 0x00030800) % 0x40))
  else if 0x00040000 ≤ a ∧ a < 0x00050000 then (rowFind rowsRing (a - 0x00040000)).map (fun r => (r, a - 0x00040000))
  else if 0x00050000 ≤ a ∧ a < 0x00060000 then
    let o := (a - 0x00050000) % 0x8000
    if o < 0x1000 then (rowFind rowsCan o).map (fun r => (r, o))
    else if o < 0x3000 then (rowFind rowsTxb (o % 0x80)).map (fun r => (r, o % 0x80))
    else none
  else if 0x00060000 ≤ a ∧ a < 0x00061000 then (rowFind rowsUpd (a - 0x00060000)).map (fun r => (r, a - 0x00060000))
  else if 0x00070000 ≤ a ∧ a < 0x00080000 then (rowFind rowsAv (a - 0x00070000)).map (fun r => (r, a - 0x00070000))
  else if 0x00100000 ≤ a ∧ a < 0x00111000 then (rowFind rowsPort (a % 0x100)).map (fun r => (r, a % 0x100))
  else if 0x00120000 ≤ a ∧ a < 0x00124000 then (rowFind rowsTile (a % 0x1000)).map (fun r => (r, a % 0x1000))
  else if 0x00200000 ≤ a ∧ a < 0x00210000 then (rowFind rowsSw (a - 0x00200000)).map (fun r => (r, a - 0x00200000))
  else if 0x00600000 ≤ a ∧ a < 0x00601000 then (rowFind rowsEng (a % 0x100)).map (fun r => (r, a % 0x100))
  else if 0x00601000 ≤ a ∧ a < 0x00601200 then (rowFind rowsEmq (a % 0x20)).map (fun r => (r, a % 0x20))
  else none

end Sys2Proof.Machine
end

