-- ==== Sys2Proof/Machine/State.lean ====
section
/-!
DEFINITION. The state of the machine, as plain data, the ways a step can stop, and the state after reset.
Every register of the offset tables stands in `regs` under its node-local offset (Machine/Regs.lean names each); the
structures below hold what the specification gives the machine beside its registers.
-/
namespace Sys2Proof.Machine

/-! ## Node control, events, gates, software-visible FIFOs (04, 18, 19) -/

/-- The node states of R669; `booting` is the time from the end of a reset to the HALTER entry (R770), which reads as HALTER. -/
inductive Phase where
  | off | booting | halter | running | stabled | fault
  deriving DecidableEq, Repr

/-- Power, reset and sleep beside their registers (R659–R682): the node state; the state held before a Stabled entry, whether an entry runs
and its drain wait is over, whether a wake runs, whether the boot loader has run; whether MODEERR applied (R667); MODE1:0 as sampled; the
sensed codes of the VIO banks (3 where not listed) and of VHB, VCAN, VLT; whether the PLLs run from REFB (R18); when each watchdog was last
served, which links send WAKE sets, when step 4 of R675 was reached, in clocks, whether a supply changed in Stabled, so that event 95 is due
after the wake, and the causes of FAULT (bits of NODE.STAT) that came in Stabled and are due with it. -/
structure Power where
  phase : Phase := .booting
  sleepFrom : Phase := .halter
  entering : Bool := false
  drained : Bool := false
  waking : Bool := false
  loaded : Bool := false
  modeErr : Bool := false
  bootMode : BitVec 2 := 0
  vio : Tab Nat := []
  vhb : Nat := 3
  vcanOk : Bool := true
  vltOk : Bool := true
  refB : Bool := false
  wdogAt : Tab Nat := []
  wakeOut : List Nat := []
  sleptAt : Nat := 0
  supplyPend : Bool := false
  faultDue : List Nat := []
  deriving DecidableEq, Repr

/-- A holdoff of an event's remote frames (R653): whether a later setting merged, and the FTIME of the first merged one. -/
structure Holdoff where
  merged : Bool := false
  first : DWord := 0
  deriving DecidableEq, Repr

/-- A pulse gate (R139): idle, or busy with the pulse still to reach the destination, or busy until the acknowledge reaches the
source. -/
inductive PulseSt where
  | idle | request | ack
  deriving DecidableEq, Repr

/-- What the surviving side of a gate has still to record of a reset of the other side (R150), because its clock stands still in Stabled
(R145): the gate, the side that was reset, the items proved lost, and whether more may have been. -/
structure PeerDue where
  gate : Nat
  dst : Bool
  lost : Nat
  unc : Bool
  deriving DecidableEq, Repr

/-- A software-visible FIFO (R163): its words, the last word read, whether its consumer has started on the item at the head (R168), and
the FTIME at which it took that item's header (R253). `holds` names the cells that outbound items still hold: how many words remain up to
the item's last, and the cell (R28), `left` how many words of the item that is being read out word by word are still to come, `errs` the
words in error by their place from the head (R714). -/
structure Fifo where
  words : List Word := []
  last : Word := 0
  begun : Bool := false
  startAt : DWord := 0
  left : Nat := 0
  holds : List (Nat × Nat) := []
  errs : Tab Nat := []
  deriving DecidableEq, Repr

/-! ## The ring unit (13_ring_links_frames.md, 14_ring_membership.md) -/

/-- A ring frame (R492): header fields and payload. A SENT frame originated by this node names the first cell it is built
from (R496, R28) and has an empty payload until its words are written into gate 34 + m (`inGate`; `bad` when one of them was
uncorrectable, R715). `adm` marks the ASSIGN of RING.ADM_CMD (R550). `rxAt` is the receive stamp of a received TIME frame in 1/256 ns, and
in a PD_RESP still to be sent that of its request (R367, R372); `rxOn` is the link it came on. -/
structure Frame where
  typ : Nat
  exp : Bool := false
  dkind : Bool := false
  dest : Nat
  src : Nat
  hops : Nat := 4095
  seq : Nat := 0
  spec : Bool := false
  retx : Bool := false
  junc : Bool := false
  payload : List Byte := []
  cell : Option Nat := none
  inGate : Bool := false
  bad : Bool := false
  adm : Bool := false
  rxAt : Nat := 0
  rxOn : Nat := 0
  deriving DecidableEq, Repr

/-- A received frame waiting whole in the forwarding gate of a transmitter (gates 42–45): its class, its bytes with the header
changes of R502, the link it came on and its receive stamp in 1/256 ns. -/
structure FwdFrame where
  express : Bool
  bytes : List Byte
  from_ : Nat
  rxAt : Nat
  deriving DecidableEq, Repr

/-- A frame in transmission on a link: one of this node's own or a crossed one with its bytes, the onward copy of a reception that
is still going on (`fin` says how it ended while the copy was suspended), or a whole frame out of the forwarding gate. -/
inductive TxCopy where
  | own (f : Frame) (bytes : List Byte)
  | onward (express : Bool) (fin : Option (Bool × List Byte))
  | whole (w : FwdFrame)
  deriving DecidableEq, Repr

/-- The transmitter of a link (R506–R508): what it sends, and the suspended normal frame. -/
structure TxSt where
  cur : Option TxCopy := none
  susp : Option TxCopy := none
  deriving DecidableEq, Repr

/-- A frame in reception on a link (R501): the first header word, what was decided (`alone`: it is for this node alone, so it goes on only
when the rest of its header breaks a rule, R494), the receive stamp, the stamp at which the onward copy started (R502), whether that copy
was discarded because its link is not in UP (R488), and whether the frame found the forwarding gate full (R503). -/
structure RxFrame where
  word0 : Word
  express : Bool
  pass : Bool
  take : Bool
  alone : Bool := false
  rxAt : Nat
  startAt : Option Nat := none
  gone : Bool := false
  full : Bool := false
  deriving DecidableEq, Repr

/-- The receiver of a link: pins, synchronisation, whether four IDLE_R sets came since the last IDLE_NR (R486), and the
frames in reception, the express frame before the normal frame it suspended. -/
structure LinkSt where
  absent : Bool := false
  los : Bool := false
  dark : Bool := false
  sync : Bool := false
  peer : Bool := false
  wake : Bool := false
  rx : List RxFrame := []
  errCnt : Nat := 0
  errWin : Nat := 0
  deriving DecidableEq, Repr

/-- One entry of the duplicate window (R510): VALID, HIGH, the time of the last admitted frame, and the 1,024-bit map. -/
structure DupEntry where
  valid : Bool := false
  high : Nat := 0
  last : Nat := 0
  map : BitVec 1024 := 0
  deriving DecidableEq, Repr

/-- The manager's and the election's own state (R525–R537): BEST and when it last changed, whether its quiet period is over, the time and
the SURVEY_MS of the last SURVEY taken, the SURVEYs that may be followed (key, sender, DUID, time; R536), the last survey number, whether
HELLOs still show READY as 0 (R526), when each link last sent an ADMIT_REQ and last took a HELLO, the DUIDs decided recently, and how many
surveys each member has missed. -/
structure MgrSt where
  best : Nat := 2 ^ 65 - 1
  bestAt : Option Nat := none
  quietOver : Bool := false
  survAt : Option Nat := none
  survMs : Nat := 0
  follow : List (Nat × Nat × DWord × Nat) := []
  survNo : Nat := 0
  readyHold : Bool := true
  reqAt : Tab (Option Nat) := []
  heardAt : Tab (Option Nat) := []
  decided : List (DWord × Nat) := []
  missed : Tab Nat := []
  deriving DecidableEq, Repr

/-- What the two-wire bus carries for a module access (R485): the bus switch and the byte written to it, if any, then the device, the
register, and the byte of a write. -/
structure ModBus where
  switch : Option (Nat × Byte)
  dev : Nat
  reg : Nat
  data : Option Byte
  deriving DecidableEq, Repr

/-- The ring unit beside its registers: links, transmit queues (with the frames in gates 34–37), transmitters, forwarding gates 42–45 by
transmitting link, ring-to-switch gates 38–41 with every taken frame (R505), the bytes of the last frame each link ended with EOF, the
duplicate window, the manager's state, the ID kept for stripping (R665), and the device and register address of the module access in
progress with the byte written to the bus switch before it (R485). -/
structure RingSt where
  links : Tab LinkSt := []
  txq : Tab (List Frame) := []
  tx : Tab TxSt := []
  fwd : Tab (List FwdFrame) := []
  inq : Tab (List Frame) := []
  out : Tab (List Byte) := []
  dup : Tab DupEntry := []
  mgr : MgrSt := {}
  lastId : Nat := 0
  stripOn : Bool := false
  modBus : Option ModBus := none
  deriving DecidableEq, Repr
/-! ## The switch: cells, tables, parser, listener queues (06, 07, 08) -/

/-- The state of a cell of the store (R27). A chain's first cell carries its state; its continuation cells name it. `owner`
of a FILLING cell: 0–271 the port, 272 + L an engine, 288 + m a mailbox, 292 and 293 the CAN controllers, 600 the ring
receiver. `refs` counts the consumers that hold the chain (R28); a FILLING chain can be held by cut-through listeners, and a
rejected one (`spent`) is held until their fogged tails are sent (R30). -/
inductive CellSt where
  | free
  | filling (owner refs : Nat)
  | committed (refs : Nat)
  | spent (refs : Nat)
  | cont (first : Nat)
  deriving DecidableEq, Repr

/-- A sweep in progress (R322): the port it has reached, the cells of the sentences of that port's queue that it has tested and left there,
and how many it has tested. -/
structure SweepSt where
  port : Nat := 0
  passed : List Nat := []
  tests : Nat := 0
  deriving DecidableEq, Repr

/-- The three tables in two banks (R294), word by word, keyed by byte offset within the table. `active` is
SW.TBL_CTL.ACTIVE; `busy` the copy in progress (R297). `par` marks words in error (R721–R723), keyed by bank, table and offset:
1 the primary has bad parity, 2 the shadow has, 3 both have, 4 the copies differ with good parity. -/
structure Tables where
  rtA : Tab Word := []
  rtB : Tab Word := []
  psetA : Tab Word := []
  psetB : Tab Word := []
  gsubA : Tab Word := []
  gsubB : Tab Word := []
  par : Tab Nat := []
  active : Bool := false
  busy : Bool := false
  deriving DecidableEq, Repr

/-- An entry a lookup applied (R272, R273): its index and its three action words. -/
structure Applied where
  idx : Nat
  act0 : Word
  act1 : Word
  act2 : Word
  deriving DecidableEq, Repr

/-- What a lookup captures (R272): the bank read, the applied entries in index order, whether no entry matched, the route
index of R277, the NMEVT bit of the source's default route, and the entries found bad in both copies (R722). -/
structure Capture where
  bank : Bool
  applied : List Applied
  unmatched : Bool
  ridx : Nat
  nmevt : Bool := false
  bad : List Nat := []
  deriving DecidableEq, Repr

/-- An item a slice passes to the switch (R103): value, edge clock, flags, whether it is the first LOST item that the port passed after a
wake (R241); or a marker: the receive timeout (R187), or the receive mode that holds for the items behind it (R90). -/
structure RxItem where
  value : Nat := 0
  edge : Word := 0
  lost : Bool := false
  wake : Bool := false
  fe : Bool := false
  pe : Bool := false
  brk : Bool := false
  noise : Bool := false
  marker : Bool := false
  mode : Option Nat := none
  deriving DecidableEq, Repr

/-- The states of the parser inside a unit (R230). -/
inductive PS where
  | tag | tck1 | tck2 | tend | tnext | addr | body | esc1 | esc2 | ck1 | ck2 | cr | lf
  deriving DecidableEq, Repr

/-- A unit in progress in a parser (R230–R239): its cell chain, the lengths, the running exclusive ORs, the parameters taken
when it opened, the lookup's capture, the listeners that have started it by cut-through, those whose moment to start it has passed
(R328), those whose started copy was dropped since (R90), and those that ended it at a gap (R332). -/
structure UnitSt where
  st : PS
  cell : Nat
  pair : Option Nat := none
  len : Nat := 0
  tagLen : Nat := 0
  tagChars : Nat := 0
  tagX : Nat := 0
  digit : Nat := 0
  sentLen : Nat := 0
  stored : Nat := 0
  x : Nat := 0
  ck : Option Nat := none
  starAt : Option Nat := none
  opening : Nat := 0
  addr : List Nat := []
  stamp : DWord := 0
  maxlen : Nat := 82
  tagmax : Nat := 80
  ckpol : Nat := 0
  cap : Option Capture := none
  cutOn : List Nat := []
  cutTried : List Nat := []
  cutGone : List Nat := []
  cutGap : List Nat := []
  cutAny : Bool := false
  gapFog : Bool := false
  deriving DecidableEq, Repr

/-- The parser of a port: the unit in progress, or HUNT or SKIP. -/
structure ParserSt where
  cur : Option UnitSt := none
  skip : Bool := false
  deriving DecidableEq, Repr

/-- A sentence or tunnel block held by a listener queue (R307, R312); `cut`: it started by cut-through (R338). -/
structure QItem where
  cell : Nat
  cls : Nat
  charge : Nat
  tag : Bool := false
  tun : Bool := false
  tries : Nat := 0
  cut : Bool := false
  deriving DecidableEq, Repr

/-- The started sentence of a port (R309, R311): the TAG block in front, how many characters have been loaded, the talker of
a cut-through sentence still undecided, the fogged tail still to be sent, and the running exclusive OR of R331. -/
structure Started where
  item : QItem
  pre : List Byte := []
  pos : Nat := 0
  ct : Option Nat := none
  tail : Option (List Byte) := none
  x : Nat := 0
  opened : Bool := false
  star : Bool := false
  deriving DecidableEq, Repr

/-- A listener queue (R307–R316): unstarted items in order (the order within a class is the order in the list), the started
item, and the item whose last stop bit is still to end (`fogged` when it ended with a fogged tail). -/
structure QSt where
  items : List QItem := []
  started : Option Started := none
  ending : Option QItem := none
  endFog : Bool := false
  deriving DecidableEq, Repr

/-! ## Port slices, raw and tunnel modes (03, 04) -/

/-- A slice serving a port (R77–R136), beside the live bits of PORT[n].STATUS: the modes and the rate and format in force in
each direction (R90, R114), the receive mode under which the switch takes the port's items, the character in reception (edge clock, and
whether the start bit's vote was split), the frame in the transmit shifter bit by bit (R100), the character FIFO, whether the next item
carries LOST and is the first such since a wake (R104, R241), and which timers and waits run. -/
structure SliceSt where
  rxMode : Nat := 0
  txMode : Nat := 0
  rxBaud : Word := 0x00A2C2AB
  txBaud : Word := 0x00A2C2AB
  rxFmt : Word := 8
  txFmt : Word := 8
  swMode : Nat := 0
  rx : Option (Word × Bool) := none
  shifter : Option (List Bool) := none
  rxq : List RxItem := []
  lost : Bool := false
  wakeLost : Bool := false
  idleRun : Bool := false
  tmoRun : Bool := false
  leadWait : Bool := false
  trailRun : Bool := false
  backoff : Option Nat := none
  forcePend : Bool := false
  waitRun : Bool := false
  wakeLow : Bool := false
  deriving DecidableEq, Repr

/-- The block in progress of a port in RAW or TUNNEL mode (R183–R190): the block size taken when it began, its STAMP, its
flags, whether characters were dropped before it, its buffer's store offset, and the bytes of a tunnel block. -/
structure RawSt where
  size : Nat := 16
  stamp : DWord := 0
  lost : Bool := false
  err : Bool := false
  dropped : Bool := false
  base : Nat := 0
  buf : List Byte := []
  deriving DecidableEq, Repr


/-- A line tile (R194–R218) beside its registers: the converter runs, its outputs have been good for 10 µs, and the tile is in
thermal shutdown. -/
structure TileSt where
  run : Bool := false
  ready : Bool := false
  hot : Bool := false
  deriving DecidableEq, Repr

/-- A line port beside its registers: consecutive reversal candidates (R217) and consecutive low-load characters (R210). -/
structure LineSt where
  cand : Nat := 0
  low : Nat := 0
  deriving DecidableEq, Repr
/-! ## Time (09) -/

/-- A correspondence pair (R158, R160): a latched count, the refresh time in quarter nanoseconds, the rate correction. -/
structure Pair where
  c : Word
  t4 : Nat
  rho : Int
  deriving DecidableEq, Repr

/-- The pairs held for a stamping clock (R160): the latest with its epoch, and the first pair of each of the eight most recent
epochs, newest first. -/
structure PairSt where
  latest : Option (Nat × Pair) := none
  epochs : List (Nat × Pair) := []
  deriving DecidableEq, Repr

/-- A refresh sent through gate 298 (R158): index, FTIME at the launch, rate correction, epoch. -/
structure Launch where
  idx : Nat
  ft : DWord
  rho : Int
  epoch : Nat
  deriving DecidableEq, Repr

/-- Link-delay measurement of a link (R372): whether a request is open, its transmit stamp in 1/256 ns once it has left, and
the consecutive requests without a sample. -/
structure PdSt where
  asked : Bool := false
  t1 : Option Nat := none
  fails : Nat := 0
  deriving DecidableEq, Repr

/-- An entry of the Shutter (R377). -/
structure ShutEntry where
  ft : DWord
  desc : Word
  deriving DecidableEq, Repr

/-- The time paddock beside its registers (R343–R383): FTIME, the sub-nanosecond part in units of 2^−31 ns (the 8-bit fraction and the rate
remainder of R345), the clocks counted, ρ and the integrator I, the changes that wait for the next launch (R346, R349; `pSecs` is the second
change of an AT_SAMPLE, `pSleep` the adjustment of R677), an armed AT_SAMPLE, the instant of an armed leap, the refresh mechanism, the loop,
PPSOUT, link delays, the Shutter, the discrete-line edges that wait for a pair of clock 0 (R162; edge clock and descriptor), and the
stamping counts (R157): port clocks and CAN clocks counted since reset, with the quarter nanoseconds of the clock that runs; when the last
accepted SYNC came, in `clk` (R371); for each stamping clock the index of the refresh pulse on its way, and the index and the latched count
that its value gate last delivered (R141, R158). -/
structure TimeSt where
  ft : DWord := 0
  sub : Nat := 0
  clk : Nat := 0
  rho : Int := 0
  integ : Int := 0
  pLoad : Option DWord := none
  pSecs : Option Int := none
  pStep : Option Int := none
  pAdj : Option Int := none
  pSleep : Option Int := none
  pRho : Option Int := none
  pInteg : Option Int := none
  atSample : Option Nat := none
  leapAt : Nat := 0
  epoch : Nat := 0
  idx : Nat := 0
  launches : List Launch := []
  pairs : Tab PairSt := []
  dnow : Word := 0
  qual : Nat := 0
  prevA : Option (Nat × Nat) := none
  prevB : Option (Nat × Nat) := none
  misses : Nat := 0
  accSec : Option Nat := none
  ppsOut : Bool := false
  pd : Tab PdSt := []
  shut : List ShutEntry := []
  shutLast : Option ShutEntry := none
  shutLost : Bool := false
  dlWait : List (Word × Word) := []
  ppCount : Word := 0
  ppAcc : Nat := 0
  canCount : Word := 0
  canAcc : Nat := 0
  pulseIdx : Tab Nat := []
  latched : Tab (Nat × Word) := []
  syncAt : Option Nat := none
  deriving DecidableEq, Repr

/-! ## The host bridge and fabric transactions (15) -/

/-- Whose transaction it is (R576): piece 0 or 1 of a host read by tag; request i of the host's non-posted write, whose last data phase
still waits for it (`bus`); a posted-write slot of the bridge; request `id` of a context's blocking access; a posted-write slot of a logical
engine. -/
inductive TrOwner where
  | tag (t piece : Nat)
  | np (i : Nat) (bus : Bool)
  | slot (i : Nat)
  | eng (l c id : Nat)
  | engPost (l c i : Nat)
  deriving DecidableEq, Repr

/-- An incomplete transaction (R576–R578): the target, the frame TYPE, the header fields, the data of a write, how often it has been
retransmitted, whether it has been sent, whether its window orders it (R575), whether an open fence read waits for it (R573), the
initiator as ERRLOG names it, and where an engine's read data goes: register `reg`, or data memory from `dmem` on (R480, R481). -/
structure Trans where
  owner : TrOwner
  node : Nat
  typ : Nat
  addr : Nat
  blen : Nat
  tseq : Nat := 0
  spec : Bool := false
  data : List Byte := []
  retx : Nat := 0
  sent : Bool := false
  ord : Bool := false
  fence : Bool := false
  src : Nat := 0
  reg : Nat := 0
  dmem : Option Nat := none
  deriving DecidableEq, Repr

/-- The life of a read tag (R567). -/
inductive TagLife where
  | fetch | ready | held
  deriving DecidableEq, Repr

/-- A read tag that is not FREE (R562–R568): the read it belongs to (host address, LEN, byte enables of its first data phase), its
piece and the tag of the other piece, the window, the fabric address and the bytes of the piece, the read-ahead bytes asked for,
whether the request in progress is a probe, SE, the outcome, and which of its bytes are still held. -/
structure Tag where
  life : TagLife := .fetch
  host : Nat
  len : Nat
  be : BitVec 4
  piece : Nat
  mate : Option Nat := none
  win : Nat
  fab : Nat
  bytes : Nat
  ahead : Nat := 0
  se : Bool := false
  fail : Bool := false
  data : List Byte := []
  held : List Nat := []
  deriving DecidableEq, Repr

/-- The host's non-posted write in progress (R574): requests still to be answered, and whether one has failed. -/
structure NpWrite where
  open_ : Nat
  failed : Bool := false
  win : Nat
  addr : Nat
  deriving DecidableEq, Repr

/-- An ERRLOG entry (R584, R589): the address, the FTIME, and the descriptor. -/
structure ErrEntry where
  addr : Nat
  ft : DWord
  desc : Word
  deriving DecidableEq, Repr

/-- The key of a request (R582): SRCNODE, ILOC, ITAG, TSEQ. -/
structure ReplayKey where
  node : Nat
  iloc : Nat
  itag : Nat
  tseq : Nat
  deriving DecidableEq, Repr

/-- What the bridge drives in a data phase (R554), and how a non-posted write's last phase waits (R574). -/
inductive BusAns where
  | ready (w : Word)
  | retry
  | error
  | wait
  deriving DecidableEq, Repr

/-- The fabric unit and the host bridge beside their registers: the transactions that reached the switch, the target queue (R580),
the replay cache and the history with the times of execution (R582), the incomplete transactions in the order they were taken, the
transaction count, the read tags, the non-posted write, an open fence read, the windows in force (host base, fabric base), the
ERRLOG with its LOST mark and the last entry read, and the answers of the last host access phase by phase. -/
structure FabSt where
  arrived : List Frame := []
  target : List Frame := []
  cache : List (ReplayKey × Nat × Frame) := []
  history : List (ReplayKey × Nat) := []
  trans : List Trans := []
  tseq : Nat := 0
  tags : Tab (Option Tag) := []
  np : Option NpWrite := none
  fenceOpen : Bool := false
  wins : Tab (Nat × Nat) := []
  errlog : List ErrEntry := []
  errLost : Bool := false
  errLast : Option ErrEntry := none
  bus : List BusAns := []
  deriving DecidableEq, Repr

/-! ## Discrete lines (17) -/

/-- A discrete line beside its registers (R626–R638): the filtered ball level, the raw run that waits for acceptance (its edge
clock), the debounced ball level, the open period group (start clock and periods counted), whether a PWM period is in its
active part, the level of a running heartbeat, T1 and T2 in force, and whether FAULT is latched until the ball agrees again. -/
structure DlSt where
  ball : Bool := false
  run : Option Word := none
  deb : Bool := false
  grp : Option (Word × Nat) := none
  pwmHigh : Bool := false
  hbLevel : Bool := false
  t1 : Nat := 1000
  t2 : Nat := 0
  faulty : Bool := false
  deriving DecidableEq, Repr

/-! ## Engines (10–12) -/

/-- The states of a context (R386), in the order of the coding of R414. -/
inductive CtxState where
  | idle | ready | run | block | wait | halt
  deriving DecidableEq, Repr

/-- What the response to a blocking access does when it arrives (R403): register writes, memory writes, a new cell window, or
an exception. -/
structure BlkRes where
  regs : List (Nat × Word) := []
  mem : List (Nat × List Byte) := []
  win : Option (List Byte) := none
  exc : Option Nat := none
  deriving DecidableEq, Repr

/-- What an emit asks for: the text, CKADD, the STAMP of KEEPSTAMP, CKOK and CKABS copied by efwd, USER, DEADLINE of DLSET, RIDX of
DIRECT, and for echain the first cell with its NEXT. -/
structure EmitReq where
  text : List Byte
  ckadd : Bool := false
  stamp : Option DWord := none
  ckBits : Option Nat := none
  user : Nat := 0
  dl : Option Nat := none
  direct : Option Nat := none
  chain : Option (Nat × Option Nat) := none
  deriving DecidableEq, Repr

/-- A transfer of an engine: node and node-local address, the bytes to read or the bytes to write, the register that completes it, and
where read data goes (a register, or data memory at a node-local address). -/
structure FabOp where
  node : Nat
  off : Nat
  len : Nat
  data : Option (List Byte)
  gd : Nat
  dmem : Option Nat := none
  deriving DecidableEq, Repr

/-- A cam command (R477). -/
structure CamCmd where
  tbl : Nat
  idx : Nat
  inactive : Bool
  clrDec : Bool
  clrHits : Bool
  image : Nat
  deriving DecidableEq, Repr

/-- A request of an engine to the switch (R401, R403, R459), with all that the target needs to act on it: accesses of the store and of the
node space, reads of the continuation bytes i to e - 1 of a text with the result they complete (R461), time, signals, events, discrete
lines, cells, tables, emits and messages, transfers, posted writes, and the fence. `gd` is the register that the response writes; `release`
names the cell of the handler that a crel ends. -/
inductive EngReq where
  | load (gd n : Nat) (sg : Bool) (a : Nat)
  | store (n : Nat) (v : Word) (a : Nat)
  | text (cont i e : Nat) (r : BlkRes)
  | now (gd : Nat)
  | signal (t k : Nat)
  | swe (n : Nat)
  | dlwr (op : Nat) (mask : Word)
  | dlrd (gd : Nat)
  | calloc (gd : Nat) (pair : Bool)
  | cfree (k : Nat) (two : Bool)
  | cld (k : Nat)
  | cst (k : Nat) (bs : List Byte)
  | release (cell : Option Nat)
  | crd (gd : Nat) (k : CamCmd)
  | cwr (gd : Nat) (k : CamCmd) (img : List Byte) (counted : Bool)
  | clook (gd key : Nat)
  | emit (gd : Nat) (q : EmitReq)
  | efwd (gd cell : Nat) (keep drop : Bool)
  | echain (gd k : Nat) (ckadd : Bool) (stamp : Option DWord)
  | emsg (gd node target : Nat) (body : List Byte)
  | fab (x : FabOp)
  | fabPost (x : FabOp)
  | fence (gd : Nat)
  deriving DecidableEq, Repr

/-- A request in gate 64 + e, or waiting to enter it: the context that issued it and the number of the request. -/
structure GateReq where
  c : Nat
  id : Nat
  req : EngReq
  deriving DecidableEq, Repr

/-- A blocked context: the number of its request, and the response once the target has given it. `space`: the request is posted and waits
for room in gate 64 + e (R386, R459); `res` is then what the instruction completes with. `fence`: the register and the transaction numbers
of an ffence that waits (R480). -/
structure Blk where
  id : Nat
  res : Option BlkRes := none
  space : Bool := false
  fence : Option (Nat × List Nat) := none
  deriving DecidableEq, Repr

/-- A wait (R389): the four conditions DISP, MSG, EVT, TMO as bits 0–3, the timeout in µs, the destination register, and whether the timeout
has expired while the engine stalled for a move (R421). -/
structure WaitSt where
  cond : BitVec 4
  t : Nat
  gd : Nat
  due : Bool := false
  deriving DecidableEq, Repr

/-- A context (R385, R405): its state, pc and general registers, st, cause, epc, the LEVEL and DISPMASK in force (R413), the
sentence it holds with the remaining budget in fifths of an engine clock, its cell window, its wait or blocking access, the
number of discarded responses still due to it (R388, R401), and the words of instruction memory that a store has replaced since
its last instruction fence (word index and old word; R404). -/
structure CtxSt where
  st : CtxState := .idle
  pc : BitVec 16 := 0
  g : Tab Word := []
  nopre : Bool := false
  exl : Bool := false
  cause : Nat := 0
  epc : BitVec 16 := 0
  hi : Bool := false
  mask : BitVec 2 := 0
  held : Option Nat := none
  budget : Nat := 0
  win : Tab Byte := []
  wait : Option WaitSt := none
  blk : Option Blk := none
  orphans : Nat := 0
  stale : List (Nat × Word) := []
  deriving DecidableEq, Repr

/-- A logical engine (R384): the two classes of its input queue, its contexts, the last context of each level to run (R387),
whether it stalls for a move (R420), the number of the next request, the failures of posted fabric writes since the last
ffence (R480), and its requests in gate 64 + e in their order (R143); those beyond the sixteenth wait to enter it (R386). -/
structure EngSt where
  q0 : List Nat := []
  q1 : List Nat := []
  ctxs : Tab CtxSt := []
  lastLo : Nat := 7
  lastHi : Nat := 7
  moving : Bool := false
  nextId : Nat := 0
  fails : Nat := 0
  gate : List GateReq := []
  deriving DecidableEq, Repr

/-! ## Availability (21) -/

/-- A service-log record that waits in the queue (R736, R737): TYPE, INSTANCE, FTIME and the twelve DATA bytes. -/
structure LogRec where
  typ : Nat
  inst : Nat
  ft : DWord
  data : List Byte
  deriving DecidableEq, Repr

/-- A remount in progress (R728): the logical engine, where it goes, the copy rounds done, and whether it stalls for the final step. -/
structure MoveSt where
  l : Nat
  dst : Nat
  round : Nat := 0
  stalled : Bool := false
  deriving DecidableEq, Repr

/-- A slice command in progress (R724): OP, the slice, and whether it ends with ERR. -/
structure SliceCmd where
  op : Nat
  slice : Nat
  err : Bool
  deriving DecidableEq, Repr

/-- The availability unit beside its registers: the log queue; what the service log holds (the next SEQ of each zone, the records
of the retirement zone, the place of the next event record) and the FTIME of the last retirement; the retired physical engines;
the scrub pass (running, and the words and bits corrected by the last pass); the move, the engine moved last, the engines under
self-test, the engines that passed one since reset with its FTIME, oldest first (R730); the slice command; and whether each thermal flag
can be set again. -/
structure AvSt where
  logq : List LogRec := []
  logSeq : Option Nat := none
  retSeq : Option Nat := none
  retCount : Nat := 0
  logHead : Nat := 0
  lastRetire : DWord := 0
  engRetired : List Nat := []
  scrubbing : Bool := false
  scrubbed : List (Nat × Nat) := []
  move : Option MoveSt := none
  lastMoved : Nat := 15
  testing : List Nat := []
  tested : List (Nat × DWord) := []
  sliceCmd : Option SliceCmd := none
  warnArmed : Bool := true
  critArmed : Bool := true
  deriving DecidableEq, Repr

/-! ## The update unit (20) -/

/-- A live activation between its ACTIVATE and its step 8 (R706): the slot of its image, and the named engines. -/
structure LiveSt where
  slot : Nat
  engines : List Nat
  deriving DecidableEq, Repr

/-- The update unit beside its registers and the flash: the owner (node and local source ID), the command in progress (OP and the
CODE it ends with), MINVER and the revoked keys (both kept in the flash, R690, R691), RUNTRIAL with the clock at which its window
began, BOOTERR, the events due at the next HALTER entry, a trial boot in progress, and a live activation. -/
structure UpdSt where
  owner : Option (Nat × Nat) := none
  run : Option (Nat × Nat) := none
  minver : Nat := 0
  revoked : BitVec 4 := 0
  runTrial : Bool := false
  winAt : Nat := 0
  bootErr : Bool := false
  trialBoot : Bool := false
  reverted : Bool := false
  restart : Bool := false
  live : Option LiveSt := none
  deriving DecidableEq, Repr
/-! ## The CAN controllers (16) -/

/-- A frame in the staging buffer of a controller (R598): the record without its FTIME, the CAN-clock count of its start of
frame, and the ACT word of the filter it passed. -/
structure CanStaged where
  head : Word
  b4 : Byte
  btc : Word
  count : Word
  data : List Byte
  act : Word
  deriving DecidableEq, Repr

/-- A CAN controller beside its registers (R590–R624): a pending entry into INIT, the staging buffer, the receive FIFO of cells with the
words read of its head, the LOST marks, replacement frames and abort requests of ACTIVE buffers, ACK-error counts, the buffers offered by a
lone retry, the sentence queue, the series in progress (its cell, the number of the frame loaded last, the buffer), and the divider of the
bit-time counter. -/
structure CanSt where
  initPend : Bool := false
  stage : List CanStaged := []
  stageLost : Bool := false
  rxq : List Nat := []
  rxPos : Nat := 0
  rxLast : Word := 0
  rxLost : Bool := false
  repl : Tab (List Byte) := []
  aborts : List Nat := []
  ackCnt : Tab Nat := []
  offers : List Nat := []
  lone : Bool := false
  sq : List Nat := []
  series : Option (Nat × Nat × Nat) := none
  btcAcc : Nat := 0
  btcPer : Nat := 0
  deriving DecidableEq, Repr

/-! ## Stops -/

/-- Nothing in the specification stops the machine: no command ends in a fault. -/
inductive Fault where
  deriving DecidableEq, Repr

/-- A refused command. -/
inductive Refusal where
  /-- The command's meaning is not written yet: raised by its arm of `exec`, naming the command. Safe: nothing is claimed of it. -/
  | notModelled (mnemonic : String)
  deriving DecidableEq, Repr

/-! ## The whole machine -/

/-- The state of a BX2560 and the commands that wait for it. `m4`, `duid` and `srev` are what manufacture fixed (R2, R56). `pulses` holds
the pulse gates that are busy, gate 128 + n under key n (R139), `epochs` the reset epoch bits of the two sides of gate g under keys 2g
(source) and 2g + 1 (destination) (R149). `evtDue` and `peerDue` hold what the event unit and the surviving sides of gates, which stand
still in Stabled, take up at the end of the wake (R145, R648). `canGate` holds the received CAN frames in gate 92 with their controllers,
`recGate` the records in gate 93 with theirs (`true`: a mailbox item) (R143). -/
structure State where
  m4 : Bool := true
  duid : DWord := 0x0000000000000001#64
  srev : BitVec 16 := 0x0100#16
  pending : List Instr := []
  now : Nat := 0
  free : Nat := 0
  nodeId : Nat := 0
  csGen : Nat := 0
  regs : Tab Word := []
  mem : List Host.Cell := []
  ecc : Tab Nat := []
  power : Power := {}
  pulses : Tab PulseSt := []
  epochs : Tab Bool := []
  evtDue : List Nat := []
  peerDue : List PeerDue := []
  evtHold : Tab (Option Holdoff) := []
  latch : Tab Bool := []
  fifos : Tab Fifo := []
  time : TimeSt := {}
  ring : RingSt := {}
  tables : Tables := {}
  cells : Tab CellSt := []
  srcSeq : Tab Nat := []
  parsers : Tab ParserSt := []
  queues : Tab QSt := []
  sweep : Option SweepSt := none
  slices : Tab SliceSt := []
  raws : Tab RawSt := []
  tiles : Tab TileSt := []
  lines : Tab LineSt := []
  sliceMap : Tab Nat := []
  dl : Tab DlSt := []
  dlShutDeb : Nat := 0
  engs : Tab EngSt := []
  av : AvSt := {}
  upd : UpdSt := {}
  fab : FabSt := {}
  can : Tab CanSt := []
  canGate : List (Nat × CanStaged) := []
  recGate : List (Nat × Bool × List Byte) := []
  deriving DecidableEq, Repr

/-- The machine at power-on reset. -/
def State.reset : State := {}

end Sys2Proof.Machine
end

