-- ==== Sys2Proof/Machine/Ops.lean ====
section
/-!
DEFINITION. The named operations over registers, memory and counters that every meaning is written with.
-/
namespace Sys2Proof.Machine

/-- The reset value of the register at an offset (R15); 0 where no register stands. PORT[n].SLICE.CUR resets to n (R85) and
ENG[L].STAT to the physical engine L, held (R408). -/
def regReset (a : Nat) : Word :=
  match regRow a with
  | some (r, _) =>
    if 0x00100000 ≤ a ∧ a < 0x00111000 ∧ a % 0x100 = 0x20 then wd ((a - 0x00100000) / 0x100)
    else if 0x00600000 ≤ a ∧ a < 0x00601000 ∧ a % 0x100 = 4 then wd ((a - 0x00600000) / 0x100 * 0x1000000 + 1)
    else wd r.reset
  | none => 0

/-- The stored word of a register. -/
def getReg (s : State) (a : Nat) : Word := tabGet regReset s.regs a

/-- Set the stored word of a register. -/
def setReg (s : State) (a : Nat) (v : Word) : State := { s with regs := tabSet regReset s.regs a v }

/-- A field of a register. -/
def fld (s : State) (a hi lo : Nat) : Nat := bits (getReg s a) hi lo

/-- One bit of a register. -/
def flag (s : State) (a i : Nat) : Bool := bit (getReg s a) i

/-- Set a field of a register. -/
def setFld (s : State) (a hi lo v : Nat) : State := setReg s a (setBits (getReg s a) hi lo v)

/-- Set one bit of a register to 1. -/
def setBit (s : State) (a i : Nat) : State := setReg s a (getReg s a ||| wd (2 ^ i))

/-- Set one bit of a register to 0. -/
def clrBit (s : State) (a i : Nat) : State := setReg s a (getReg s a &&& ~~~ wd (2 ^ i))

/-- Set one bit of a register to a value. -/
def putBit (s : State) (a i : Nat) (b : Bool) : State := if b then setBit s a i else clrBit s a i

/-- Add to an error or drop counter, which stops at FFFF_FFFFh (R39). -/
def errAdd (s : State) (a n : Nat) : State := setReg s a (satAdd (getReg s a) n)

/-- Count one in an error or drop counter. -/
def errInc (s : State) (a : Nat) : State := errAdd s a 1

/-- Count one in a traffic counter, which wraps (R39). -/
def trafInc (s : State) (a : Nat) : State := setReg s a (getReg s a + 1)

/-- A value of the open choices (log entry 4): the number read, and the state whose counter has advanced. -/
def takeFree (s : State) : Nat × State := (Config.freeNat s.free, { s with free := s.free + 1 })

/-! ### Memory -/

/-- What a byte of memory that nothing has written reads as. The sentence store is zero after power-on (R767), the engine
memories are cleared by a reset (R416, R706), erased flash reads FFh (log entry 6), and the update buffer reads zero (log
entry 7). -/
def memReset (a : Nat) : Byte := if a ≥ 0x02000000 then 0xFF else 0

/-- The canonical form of memory: addresses strictly rising, and no entry equal to what an unlisted address reads as. -/
def Memory.wf (m : List Host.Cell) : Bool := tabWf memReset m

/-- The canonical form of the registers: offsets strictly rising, and no entry equal to its reset value. -/
def Registers.wf (r : Tab Word) : Bool := tabWf regReset r

/-- One byte of memory. -/
def memByte (s : State) (a : Nat) : Byte := tabGet memReset s.mem a

/-- Write one byte of memory. A written 64-bit word has a correct code again (R714; log entry 21). -/
def memPut (s : State) (a : Nat) (v : Byte) : State :=
  { s with mem := tabSet memReset s.mem a v, ecc := tabDel s.ecc (a / 8) }

/-- `n` bytes of memory from an address on. -/
def memBytes (s : State) (a : Nat) : Nat → List Byte
  | 0 => []
  | n + 1 => memByte s a :: memBytes s (a + 1) n

/-- Write bytes of memory from an address on. -/
def memWrite (s : State) (a : Nat) : List Byte → State
  | [] => s
  | b :: r => memWrite (memPut s a b) (a + 1) r

/-- A little-endian value of `n` bytes of memory (R42). -/
def memNat (s : State) (a n : Nat) : Nat := ofBytesLE (memBytes s a n)

/-- Write the low `n` bytes of a number, little-endian (R42). -/
def memPutNat (s : State) (a n v : Nat) : State := memWrite s a (bytesLE n v)

/-! ### Addresses of registers -/

/-- A register of PORT[n] (R77). -/
def aPort (n o : Nat) : Nat := 0x00100000 + n * 0x100 + o
/-- A register of line tile k (R219). -/
def aTile (k o : Nat) : Nat := 0x00120000 + k * 0x1000 + o
/-- A register of line port p, p = 0–15 (R219). -/
def aLine (p o : Nat) : Nat := 0x00120000 + (p / 4) * 0x1000 + 0x100 + (p % 4) * 0x40 + o
/-- A register of node control (R684, R655, R154). -/
def aNode (o : Nat) : Nat := 0x00010000 + o
/-- A register of the time unit (R382) or of the discrete lines (R641). -/
def aTime (o : Nat) : Nat := 0x00020000 + o
/-- A register of discrete line k (R641). -/
def aDl (k o : Nat) : Nat := 0x00021100 + k * 0x20 + o
/-- A register of the host bridge (R585). -/
def aHb (o : Nat) : Nat := 0x00030000 + o
/-- A register of mailbox m (R172). -/
def aHmb (m o : Nat) : Nat := 0x00030800 + m * 0x40 + o
/-- A register of the ring unit (R514, R544). -/
def aRing (o : Nat) : Nat := 0x00040000 + o
/-- A register of ring link m (R514). -/
def aLink (m o : Nat) : Nat := 0x00040100 + m * 0x40 + o
/-- A register of CAN controller k (R620). -/
def aCan (k o : Nat) : Nat := 0x00050000 + k * 0x8000 + o
/-- A register of the update unit (R712). -/
def aUpd (o : Nat) : Nat := 0x00060000 + o
/-- A register of the availability unit (R739). -/
def aAv (o : Nat) : Nat := 0x00070000 + o
/-- A register of the switch (R264, R303, R341). -/
def aSw (o : Nat) : Nat := 0x00200000 + o
/-- A register of logical engine L (R408). -/
def aEng (l o : Nat) : Nat := 0x00600000 + l * 0x100 + o
/-- A register of context c of logical engine L (R408). -/
def aCtx (l c o : Nat) : Nat := 0x00600000 + l * 0x100 + 0x40 + c * 0x10 + o
/-- A register of the message FIFO of logical engine L (R175). -/
def aEmq (l o : Nat) : Nat := 0x00601000 + l * 0x20 + o

/-- The number of serial ports (R2). -/
def portCount (s : State) : Nat := if s.m4 then 272 else 256

/-- The VIO bank of a logic port is good (R662); line ports have no bank. -/
def vioOk (s : State) (n : Nat) : Bool := decide (256 ≤ n) || decide (tabGet (fun _ => 3) s.power.vio (n / 16) ≠ 0)

/-! ### Errors of the table words (R721, R722) -/

/-- The key of a table word's mark. -/
def parKey (bank : Bool) (tbl o : Nat) : Nat := (b2n bank * 3 + tbl) * 2 ^ 18 + o

/-- Both copies of a word of entry i, `size` bytes long, have bad parity: the entry is treated as empty (R722). -/
def entryBad (s : State) (bank : Bool) (tbl size i : Nat) : Bool :=
  !s.tables.par.isEmpty &&
    (List.range (size / 4)).any (fun w => decide (tabGet (fun _ => 0) s.tables.par (parKey bank tbl (size * i + 4 * w)) = 3))

/-! ### Node state -/

/-- The coding of CS.NODE.STATE (R57); a booting node reads HALTER (R770). -/
def phaseCode : Phase → Nat
  | .off => 1
  | .booting => 1
  | .halter => 1
  | .running => 2
  | .stabled => 3
  | .fault => 4

/-- The clocks of the paddocks run and their units are out of reset (R664, R675). -/
def awake (s : State) : Bool := decide (s.power.phase ≠ .off) && decide (s.power.phase ≠ .stabled)

/-- RUNNING or FAULT, the states in which a node originates every kind of frame (R523). -/
def originates (s : State) : Bool := decide (s.power.phase = .running) || decide (s.power.phase = .fault)

/-- RUNNING or FAULT, or either of them held through a boot is excluded (R52): the node executes fabric requests. -/
def executesFabric (s : State) : Bool := originates s

/-- The node is in FAULT: ports stopped and engines held (R671). -/
def inFault (s : State) : Bool := decide (s.power.phase = .fault)

end Sys2Proof.Machine
end

