-- ==== Sys2Proof/Machine/Events.lean ====
section
/-!
DEFINITION. Events: pulse gates (R139, R140), the event unit (R644–R658), the origin of ring frames (R499, R500) and
remote events (R543, R653).
-/
namespace Sys2Proof.Machine

/-! ### Ring frames a node originates -/

/-- LINK[m].STAT.STATE (R486): the first row that applies. -/
def linkState (s : State) (m : Nat) : Nat :=
  let l := tabGet (fun _ => {}) s.ring.links m
  if !flag s (aLink m 0x00) 0 || l.dark || decide (s.power.phase = .off) then 0
  else if l.absent then 1
  else if l.los then 2
  else if !l.sync then 3
  else if !l.peer then 4
  else 5

/-- The link is in UP. -/
def linkUp (s : State) (m : Nat) : Bool := decide (linkState s m = 5)

/-- The link on which a frame received on m is passed on (R483). -/
def partner (m : Nat) : Nat := if m % 2 = 0 then m + 1 else m - 1

/-- Whether a node ID lies in RING.JCT_RANGE (R538). -/
def inJctRange (s : State) (id : Nat) : Bool :=
  decide (fld s (aRing 0x428) 11 0 ≤ id) && decide (id ≤ fld s (aRing 0x428) 27 16)

/-- Whether a junction puts a frame of one pair onto the other (R538). `toBranch` is main → branch. -/
def crosses (s : State) (gsubBit : Nat → Nat → Bool) (toBranch : Bool) (f : Frame) : Bool :=
  flag s (aRing 0x424) 0 &&
  (if f.dkind then gsubBit f.dest (if toBranch then 61 else 60)
   else if f.dest = 0 then false
   else if f.dest = 0xFFF then
     (if f.typ = 8 then true
      else if f.typ = 7 then flag s (aRing 0x424) (if toBranch then 1 else 2)
      else flag s (aRing 0x424) (if toBranch then 3 else 4))
   else decide (f.dest ≠ s.nodeId) && (if toBranch then inJctRange s f.dest else !inJctRange s f.dest))

/-- Bit b of the active-bank subscription GSUB[g] (R289). -/
def gsubBit (s : State) (g b : Nat) : Bool :=
  let off := 8 * (g % 4096)
  !entryBad s s.tables.active 2 8 (g % 4096) && bit (tabGet (fun _ => 0) (if s.tables.active then s.tables.gsubB else s.tables.gsubA) (off + (if b < 32 then 0 else 4)))
    (b % 32)

/-- The transmit queue of a link. -/
def txQ (s : State) (m : Nat) : List Frame := tabGet (fun _ => []) s.ring.txq m
def setTxQ (m : Nat) (v : List Frame) (s : State) : State :=
  { s with ring := { s.ring with txq := tabSet (fun _ => []) s.ring.txq m v } }

/-- Append a frame to the transmit queue of a link. -/
def queueOn (m : Nat) (f : Frame) (s : State) : State := setTxQ m (txQ s m ++ [f]) s

/-- The links on which this node's own frame leaves (R500, R540): the main pair, and for a junction the branch pair under
the crossing rules. -/
def originLinks (s : State) (f : Frame) : List Nat :=
  [0, 1] ++ (if crosses s (gsubBit s) true f then [2, 3] else [])

/-- Originate a frame (R499, R500): it takes the next frame sequence number and is queued once on each of its links. -/
def originate (f : Frame) (s : State) : State :=
  let f' := { f with seq := fld s (aRing 0x0C) 15 0, src := s.nodeId }
  let s := setReg s (aRing 0x0C) (wd ((f'.seq + 1) % 65536))
  (originLinks s f').foldl (fun s m => queueOn m f' s) s

/-- Originate a link-local frame on one link: it takes no sequence number (R499). -/
def originateLocal (m : Nat) (f : Frame) (s : State) : State := queueOn m { f with src := s.nodeId, dest := 0 } s

/-! ### The event unit -/

/-- Reserved event numbers are never set (R644), and events 104–108 never in a BX2560-M0 (R5). -/
def evtReserved (s : State) (n : Nat) : Bool :=
  decide (n ≥ 128) || [58, 59, 86, 87, 102, 103, 109, 110, 111].contains n || (!s.m4 && decide (104 ≤ n) && decide (n ≤ 108))

/-- The events whose sources lie in the switch paddock and have no pulse gate (R143). -/
def evtDirect (n : Nat) : Bool :=
  (decide (17 ≤ n) && decide (n ≤ 23)) || (decide (80 ≤ n) && decide (n ≤ 85)) || (decide (88 ≤ n) && decide (n ≤ 95)) ||
  (decide (99 ≤ n) && decide (n ≤ 101)) || (decide (112 ≤ n) && decide (n ≤ 127))

/-- The register of an event's status bit, and of its route. -/
def aEvtStat (n : Nat) : Nat := aNode (0x1000 + 4 * (n / 32))
def aEvtRoute (n : Nat) : Nat := aNode (0x1100 + 4 * n)
/-- GATE[g].STAT and GATE[g].LOST (R154). -/
def aGateStat (g : Nat) : Nat := aNode (0x4000 + 8 * g)
def aGateLost (g : Nat) : Nat := aNode (0x4004 + 8 * g)

/-- The state of pulse gate 128 + n. -/
def pulseSt (s : State) (n : Nat) : PulseSt := tabGet (fun _ => .idle) s.pulses n

/-- Set the state of pulse gate 128 + n. -/
def setPulse (n : Nat) (p : PulseSt) (s : State) : State := { s with pulses := tabSet (fun _ => .idle) s.pulses n p }

/-- The source toggles pulse gate 128 + n (R139), that of event n when n < 128; a busy gate merges the pulse (R140). The flag says that
the gate's OVR changed from 0 to 1. -/
def gatePulse (n : Nat) (s : State) : State × Bool :=
  if pulseSt s n = .idle then (setPulse n .request s, false)
  else (setBit s (aGateStat (128 + n)) 0, !flag s (aGateStat (128 + n)) 0)

/-- The pulse of gate 128 + n has reached its destination. `acked` says that the acknowledge has reached the source too; if not, the gate
stays busy (R139) until the same command comes again (log entry 74). -/
def pulseTaken (n : Nat) (acked : Bool) (s : State) : State := setPulse n (if acked then .idle else .ack) s

/-- The MGR_STAT flags whose change from 0 to 1 sets an event (R546). -/
def mgrEvt (b : Nat) : Option Nat :=
  if b = 8 ∨ b = 9 then some 48 else if b = 12 then some 49 else if b = 11 then some 51 else if b = 13 then some 52 else none

/-- Write a remote event to the REVT ring (R543). The flag says that MGR_STAT.REVT_NEW changed from 0 to 1. -/
def revtWrite (src n : Nat) (t : DWord) (s : State) : State × Bool :=
  let h := fld s (aRing 0x444) 5 0
  let tl := fld s (aRing 0x448) 5 0
  if (h + 64 - tl) % 64 = 32 then (setBit (errInc s (aRing 0x458)) (aRing 0x404) 14, false)
  else
    let a := aRing (0x600 + 0x10 * (h % 32))
    let s1 := setReg (setReg (setReg (setReg s a (wd (src + n % 256 * 65536))) (a + 4) 0) (a + 8) (lo32 t)) (a + 12) (hi32 t)
    (setBit (setReg s1 (aRing 0x444) (wd ((h + 1) % 64))) (aRing 0x404) 13, !flag s (aRing 0x404) 13)

/-- Send the EVT frame of event n (R653, R654). `merged` acts when a pulse of the own REVT ring newly merges (event 100). -/
def evtSend (merged : State → State) (n : Nat) (t : DWord) (s : State) : State :=
  let rn := fld s (aEvtRoute n) 27 16
  if !originates s then errInc s (aNode 0x106C)
  else
    let s := trafInc s (aNode 0x1064)
    if rn = s.nodeId then
      let (s, new) := revtWrite rn n t s
      if new then
        let (s, ovr) := gatePulse 52 s
        if ovr then merged s else s
      else s
    else originate { typ := 9, exp := true, dest := rn, src := s.nodeId,
                     payload := bytesLE 8 n ++ bytesLE 8 t.toNat } s

/-- A setting of event n with a remote node (R653): sent at once, merged into the holdoff, or counted. With HOLD = 0 every setting is
sent, also while a holdoff that began before HOLD was written still runs. -/
def evtRemote (merged : State → State) (n : Nat) (s : State) : State :=
  if fld s (aEvtRoute n) 27 16 = 0 then s
  else
    if fld s (aNode 0x1060) 7 0 = 0 then evtSend merged n s.time.ft s
    else
    match tabGet (fun _ => none) s.evtHold n with
    | none =>
      let s := evtSend merged n s.time.ft s
      { s with evtHold := tabSet (fun _ => none) s.evtHold n (some {}) }
    | some h =>
      if h.merged then trafInc s (aNode 0x1068)
      else { s with evtHold := tabSet (fun _ => none) s.evtHold n (some { merged := true, first := s.time.ft }) }

/-- Set the event latch of a context (R652, R392). -/
def setLatch (l c : Nat) (s : State) : State :=
  { s with latch := tabSet (fun _ => false) s.latch (8 * l + c) true }

/-- A setting of event n reaches the event unit (R646, R652, R653). The first argument bounds the settings of event 100
that such a setting can itself bring about (at most one, log entry 8). -/
def evtSetting : Nat → Nat → State → State
  | 0, _, s => s
  | k + 1, n, s =>
    if evtReserved s n then s
    else
      let s := setBit s (aEvtStat n) (n % 32)
      let r := getReg s (aEvtRoute n)
      let s := if bit r 8 then setLatch (bits r 7 4) (bits r 2 0) s else s
      evtRemote (evtSetting k 100) n s

/-- A setting of event n at the event unit itself, which stands still in Stabled and takes it up at the end of the wake (R145, R648). -/
def evtDirectly (n : Nat) (s : State) : State :=
  if s.power.phase = .stabled then { s with evtDue := s.evtDue ++ [n] } else evtSetting 3 n s

/-- A source sets event n (R645): at the event unit itself, or into its pulse gate. -/
def raise (n : Nat) (s : State) : State :=
  if evtReserved s n then s
  else if evtDirect n then evtDirectly n s
  else
    let (s, ovr) := gatePulse n s
    if ovr then evtDirectly 100 s else s

/-- Raise several events in order. -/
def raiseAll (ns : List Nat) (s : State) : State := ns.foldl (fun s n => raise n s) s

/-- Set a sticky flag, and raise an event when the flag changes from 0 to 1. -/
def stickyRaise (a i n : Nat) (s : State) : State := if flag s a i then s else raise n (setBit s a i)

/-- Set a sticky flag, and raise an event when the flag changes from 0 to 1 and its enable bit is 1. -/
def stickyEn (a i en j n : Nat) (s : State) : State :=
  if flag s a i then s else if flag s en j then raise n (setBit s a i) else setBit s a i

/-- Set a flag of RING.MGR_STAT, with its event (R546). -/
def mgrSet (b : Nat) (s : State) : State :=
  match mgrEvt b with
  | some n => stickyRaise (aRing 0x404) b n s
  | none => setBit s (aRing 0x404) b

/-- A refused write of the node-control registers (R36, R685). -/
def nodeCfgErr (s : State) : State := setBit s (aNode 0x00) 16

/-- Change CS.NODE or another mutable region of the Contact Sheet within one generation (R60): the counter passes through
an odd value and ends even. -/
def csChange (s : State) : State := { s with csGen := s.csGen + 2 }

/-- Pending events of HINT line j (R649). -/
def evtPending (s : State) (j n : Nat) : Bool :=
  flag s (aEvtStat n) (n % 32) && flag s (aNode (0x1010 + 0x10 * j + 4 * (n / 32))) (n % 32) &&
  decide (fld s (aNode 0x1050) (2 * j + 1) (2 * j) ≤ fld s (aEvtRoute n) 29 28)

/-- EVT.PENDj[i] (R649). -/
def evtPendWord (s : State) (j i : Nat) : Word :=
  (List.range 32).foldl (fun w b => if evtPending s j (32 * i + b) then w ||| wd (2 ^ b) else w) 0

/-- The most urgent pending event (R651): highest PRIO, and among those the lowest number. -/
def evtBest (s : State) (j : Nat) : Option Nat :=
  (List.range 128).foldl (fun b n =>
    if evtPending s j n then
      match b with
      | none => some n
      | some m => if fld s (aEvtRoute m) 29 28 < fld s (aEvtRoute n) 29 28 then some n else b
    else b) none

/-- EVT.HVECj (R651, R658). -/
def evtHvec (s : State) (j : Nat) : Word :=
  match evtBest s j with
  | none => 0x80000000#32
  | some n => wd (n + 128 * fld s (aEvtRoute n) 29 28)

/-- HINT_Nj is asserted (R650). -/
def hintAsserted (s : State) (j : Nat) : Bool := (evtBest s j).isSome && !flag s (aNode 0x1050) (4 + j)

end Sys2Proof.Machine
end

