-- ==== Sys2Proof/Machine/Store.lean ====
section
/-!
DEFINITION. The sentence store: cells, the pool, references (R27–R31, R255–R268).
-/
namespace Sys2Proof.Machine

/-- The default cell state. -/
def cellFree : Nat → CellSt := fun _ => .free

/-- The state of a cell. -/
def cellSt (s : State) (c : Nat) : CellSt := tabGet cellFree s.cells c

/-- Set the state of a cell. -/
def setCellSt (s : State) (c : Nat) (v : CellSt) : State := { s with cells := tabSet cellFree s.cells c v }

/-- SW.POOL_RSV.RSV: cells below it are withheld (R258). -/
def poolRsv (s : State) : Nat := fld s (aSw 0x08) 15 0

/-- SW.POOL_FREE: the FREE pool cells (R268). -/
def poolFree (s : State) : Nat :=
  (32768 - poolRsv s) - (s.cells.filter (fun e => decide (poolRsv s ≤ e.1))).length

/-- SW.POOL_PAIRS: the pairs whose two cells are both FREE and in the pool (R268). -/
def poolPairs (s : State) : Nat :=
  (16384 - (poolRsv s + 1) / 2) -
    (s.cells.filter (fun e => decide (poolRsv s ≤ 2 * (e.1 / 2)) &&
      (decide (e.1 % 2 = 0) || decide (cellSt s (e.1 - 1) = .free)))).length

/-- The lowest number from `c` on that is not among the rising keys. -/
def gapFrom : List Nat → Nat → Nat
  | [], c => c
  | k :: r, c => if k < c then gapFrom r c else if k = c then gapFrom r (c + 1) else c

/-- The lowest FREE pool cell whose pair partner is not FREE (R259); a withheld partner is not FREE (log entry 9). -/
def halfPair (s : State) : Option Nat :=
  let rsv := poolRsv s
  let cand := (if rsv % 2 = 1 then [rsv] else []) ++
    s.cells.filterMap (fun e =>
      let p := if e.1 % 2 = 0 then e.1 + 1 else e.1 - 1
      if rsv ≤ p then some p else none)
  cand.find? (fun c => decide (cellSt s c = .free) && decide (c < 32768))

/-- The cell the pool gives as a first cell (R259). -/
def poolFirst (s : State) : Option Nat :=
  match halfPair s with
  | some c => some c
  | none =>
    let c := gapFrom (s.cells.map (·.1)) (poolRsv s)
    if c < 32768 then some c else none

/-- The lower cell of the pair the pool gives (R259). -/
def poolPair (s : State) : Option Nat :=
  let j := gapFrom (s.cells.map (fun e => e.1 / 2)) ((poolRsv s + 1) / 2)
  if j < 16384 then some (2 * j) else none

/-- Note a fall of POOL_FREE: POOL_MIN (R268) and the low level (R263). -/
def poolNote (before : Nat) (s : State) : State :=
  let f := poolFree s
  let s := if f < fld s (aSw 0x14) 15 0 then setReg s (aSw 0x14) (wd f) else s
  let low := fld s (aSw 0x04) 15 0
  if low ≤ before ∧ f < low then raise 21 (setBit s (aSw 0x00) 1) else s

/-- A refused allocation (R262). -/
def poolRefuse (s : State) : State := raise 22 (errInc (setBit s (aSw 0x00) 2) (aSw 0x18))

/-- The floor kept back from port parsers (R261). -/
def poolFloor (s : State) (port : Bool) : Nat := if port then fld s (aSw 0x04) 31 16 else 0

/-- Allocate a first cell for an owner (R259, R261, R262). `port` marks a port parser; the cells `gone` were released in this switch
clock and can be taken from the next one on, so the floor, the choice and the fall of POOL_FREE (R263) go by the state in which they are
still held (log entry 9). -/
def allocFirstBut (gone : List Nat) (port : Bool) (owner : Nat) (s : State) : Option Nat × State :=
  let h := gone.foldl (fun s c => setCellSt s c (.cont c)) s
  let f := poolFree h
  if f < poolFloor s port + 1 then (none, poolRefuse s)
  else
    match poolFirst h with
    | none => (none, poolRefuse s)
    | some c => (some c, poolNote f (setCellSt s c (.filling owner 0)))

/-- Allocate a first cell in a clock that has released none. -/
def allocFirst (port : Bool) (owner : Nat) (s : State) : Option Nat × State := allocFirstBut [] port owner s

/-- Allocate a continuation pair for the chain of first cell `first` (R259, R261, R262); the lower cell. -/
def allocPair (port : Bool) (first : Nat) (s : State) : Option Nat × State :=
  let f := poolFree s
  if f < poolFloor s port + 2 then (none, poolRefuse s)
  else
    match poolPair s with
    | none => (none, poolRefuse s)
    | some c => (some c, poolNote f (setCellSt (setCellSt s c (.cont first)) (c + 1) (.cont first)))

/-- Return a whole chain to FREE. -/
def freeChain (c : Nat) (s : State) : State :=
  { s with cells := s.cells.filter (fun e => decide (e.1 ≠ c) && decide (e.2 ≠ .cont c)) }

/-- Add a consumer's reference (R28). -/
def addRef (c : Nat) (s : State) : State :=
  match cellSt s c with
  | .filling o n => setCellSt s c (.filling o (n + 1))
  | .committed n => setCellSt s c (.committed (n + 1))
  | .spent n => setCellSt s c (.spent (n + 1))
  | _ => s

/-- Release a consumer's reference; the last one returns the chain to FREE (R27, R28). -/
def releaseRef (c : Nat) (s : State) : State :=
  match cellSt s c with
  | .filling o n => setCellSt s c (.filling o (n - 1))
  | .committed n => if n ≤ 1 then freeChain c s else setCellSt s c (.committed (n - 1))
  | .spent n => if n ≤ 1 then freeChain c s else setCellSt s c (.spent (n - 1))
  | _ => s

/-- The node-local address of a cell (R255). -/
def aCell (c : Nat) : Nat := 0x01000000 + c * 0x80

/-- A header field of `n` bytes of a cell. -/
def cellNat (s : State) (c o n : Nat) : Nat := memNat s (aCell c + o) n

/-- Header fields of a first cell (R255). -/
def cellStamp (s : State) (c : Nat) : DWord := BitVec.ofNat 64 (cellNat s c 0x00 8)
def cellSrc (s : State) (c : Nat) : Nat := cellNat s c 0x08 2 % 512
def cellNode (s : State) (c : Nat) : Nat := cellNat s c 0x0A 2 % 4096
def cellRoute (s : State) (c : Nat) : Nat := cellNat s c 0x0C 2
def cellLen (s : State) (c : Nat) : Nat := cellNat s c 0x0E 2 % 512
def cellDeadline (s : State) (c : Nat) : Nat := cellNat s c 0x10 4
def cellNext (s : State) (c : Nat) : Nat := cellNat s c 0x18 2
def cellFlags (s : State) (c : Nat) : Byte := memByte s (aCell c + 0x1A)
def cellTagLen (s : State) (c : Nat) : Nat := (memByte s (aCell c + 0x1B)).toNat

/-- The address of stored text byte k of a chain (R257). -/
def textAddr (c next k : Nat) : Nat :=
  if k < 96 then aCell c + 0x20 + k
  else if k < 224 then aCell next + (k - 96)
  else aCell (next + 1) + (k - 224)

/-- Stored text byte k of a committed chain. -/
def textByte (s : State) (c k : Nat) : Byte := memByte s (textAddr c (cellNext s c % 32768) k)

/-- The stored text of a committed chain. -/
def cellText (s : State) (c : Nat) : List Byte := (List.range (cellLen s c)).map (textByte s c)

/-- The cells of a chain of `len` text bytes (R312). -/
def chainCells (len : Nat) : Nat := if len ≤ 96 then 1 else if len ≤ 224 then 2 else 3

/-- Write the text bytes of a chain and 00h into every text byte beyond (R250). -/
def writeText (c next cells : Nat) (txt : List Byte) (s : State) : State :=
  (List.range (if cells = 1 then 96 else if cells = 2 then 224 else 352)).foldl
    (fun s k => memPut s (textAddr c next k) (txt.getD k 0)) s

/-- The header of a first cell (R255), every field. -/
structure CellHdr where
  stamp : DWord
  src : Nat
  node : Nat
  unmatched : Bool := false
  prio : Nat := 0
  ridx : Nat := 0
  len : Nat
  deadline : Nat := 0
  seq : Nat := 0
  next : Option Nat := none
  flags : Nat := 0
  tagLen : Nat := 0
  user : Nat := 0
  deriving DecidableEq, Repr

/-- The 32 bytes of a header (R255). -/
def hdrBytes (h : CellHdr) : List Byte :=
  bytesLE 8 h.stamp.toNat ++ bytesLE 2 (h.src % 512) ++ bytesLE 2 (h.node % 4096) ++
  bytesLE 2 (b2n h.unmatched * 32768 + h.prio % 8 * 4096 + h.ridx % 4096) ++ bytesLE 2 (h.len % 512) ++
  bytesLE 4 h.deadline ++ bytesLE 4 h.seq ++
  bytesLE 2 (match h.next with
    | some n => 32768 + n % 32768
    | none => 0) ++
  bytesLE 1 h.flags ++ bytesLE 1 h.tagLen ++ bytesLE 4 h.user

/-- Write a header. -/
def writeHdr (c : Nat) (h : CellHdr) (s : State) : State := memWrite s (aCell c) (hdrBytes h)

/-- Write the STAMP of a cell. -/
def writeStamp (c : Nat) (stamp : DWord) (s : State) : State := memPutNat s (aCell c) 8 stamp.toNat

/-- Write every header field other than STAMP (R250); `own` says that NEXT is the program's own and stays as it wrote it (R470). -/
def writeHdrRest (c : Nat) (own : Bool) (h : CellHdr) (s : State) : State :=
  let bs := hdrBytes h
  let s := memWrite s (aCell c + 0x08) ((bs.drop 0x08).take 0x10)
  let s := if own then s else memWrite s (aCell c + 0x18) ((bs.drop 0x18).take 2)
  memWrite s (aCell c + 0x1A) (bs.drop 0x1A)

/-- The next sentence number of a local source (R252), and the state with it taken. -/
def takeSeq (src : Nat) (s : State) : Nat × State :=
  let n := tabGet (fun _ => 0) s.srcSeq src
  (n, { s with srcSeq := tabSet (fun _ => 0) s.srcSeq src ((n + 1) % 2 ^ 32) })

/-- Allocate the whole chain of a complete text for a source other than a port (R259, R262): the first cell and the pair's
lower cell. A second continuation cell that the text does not need is returned (R260). -/
def allocChain (owner len : Nat) (s : State) : Option (Nat × Option Nat) × State :=
  match allocFirst false owner s with
  | (none, s) => (none, s)
  | (some c, s) =>
    if len ≤ 96 then (some (c, none), s)
    else
      match allocPair false c s with
      | (none, s) => (none, freeChain c s)
      | (some n, s) => (some (c, some n), if len ≤ 224 then setCellSt s (n + 1) .free else s)

end Sys2Proof.Machine
end

