-- ==== Sys2Proof/Machine/Fifo.lean ====
section
/-!
DEFINITION. The software-visible FIFOs (R163–R177): host mailboxes and engine message FIFOs. FIFO numbers: 0–3 the inbound,
4–7 the outbound mailboxes, 8–23 the engine message FIFOs.
-/
namespace Sys2Proof.Machine

/-- The inbound and the outbound FIFO of a mailbox, and the message FIFO of a logical engine. -/
def fIn (m : Nat) : Nat := m
def fOut (m : Nat) : Nat := 4 + m
def fEmq (l : Nat) : Nat := 8 + l

/-- A FIFO's contents. -/
def fifo (s : State) (f : Nat) : Fifo := tabGet (fun _ => {}) s.fifos f

/-- Set a FIFO's contents. -/
def setFifo (s : State) (f : Nat) (v : Fifo) : State := { s with fifos := tabSet (fun _ => {}) s.fifos f v }

/-- The control and the status register of a FIFO (R172, R175). -/
def fifoCtl (f : Nat) : Nat := if f < 4 then aHmb f 0x08 else if f < 8 then aHmb (f - 4) 0x10 else aEmq (f - 8) 0x04
def fifoStat (f : Nat) : Nat := if f < 4 then aHmb f 0x0C else if f < 8 then aHmb (f - 4) 0x14 else aEmq (f - 8) 0x08

/-- DEPTH in words (R170). -/
def fifoDepth (f : Nat) : Nat := if f < 8 then 512 else 64

/-- The event of a FIFO's level (R174, R177). -/
def fifoEvent (f : Nat) (s : State) : State :=
  if f < 4 then raise (60 + f) s
  else if f < 8 then raise (56 + f) s
  else stickyEn (aEng (f - 8) 0x04) 13 (aEng (f - 8) 0x08) 13 (24 + (f - 8)) s

/-- The reader's fill rose from `n0` to `n1` words (R163): LVL is set and the event raised at a crossing of LEVEL. -/
def fifoRise (f n0 n1 : Nat) (s : State) : State :=
  let lv := fld s (fifoCtl f) 9 0
  if lv ≠ 0 ∧ n0 < lv ∧ lv ≤ n1 then fifoEvent f (setBit s (fifoStat f) 4) else s

/-- The status word with its live fields (R171): FILL, FULL, EMPTY. -/
def fifoStatWord (s : State) (f : Nat) : Word :=
  let n := (fifo s f).words.length
  let w := setBits (getReg s (fifoStat f)) 25 16 n
  setBits w 1 0 ((if n = 0 then 1 else 0) + (if fifoDepth f ≤ n then 2 else 0))

/-- Append words, with the cell that the item holds until its last word is taken out (R28). -/
def fifoAppend (f : Nat) (ws : List Word) (cell : Option Nat) (s : State) : State :=
  let q := fifo s f
  let n := q.words.length + ws.length
  let q := { q with words := q.words ++ ws,
                    holds := match cell with
                      | some c => q.holds ++ [(n, c)]
                      | none => q.holds }
  fifoRise f (n - ws.length) n (setFifo s f q)

/-- A device-side producer writes an item whole or drops it (R167). The flag says that it was written. -/
def fifoItem (f : Nat) (ws : List Word) (cell : Option Nat) (cntOk cntDrop : Nat) (s : State) : Bool × State :=
  if fifoDepth f < (fifo s f).words.length + ws.length then (false, setBit (errInc s cntDrop) (fifoStat f) 2)
  else (true, fifoAppend f ws cell (trafInc s cntOk))

/-- A header word (R164). -/
def itemHdr (kind dest len : Nat) : Word := wd (kind * 2 ^ 28 + dest % 4096 * 65536 + len % 512)

/-- An item of a kind, a destination and a body (R164). -/
def itemWords (kind dest : Nat) (body : List Byte) : List Word := itemHdr kind dest body.length :: packWords body

/-- Write an item into the outbound FIFO of mailbox m. -/
def hmbOut (m kind dest : Nat) (body : List Byte) (cell : Option Nat) (s : State) : Bool × State :=
  fifoItem (fOut m) (itemWords kind dest body) cell (aHmb m 0x1C) (aHmb m 0x24) s

/-- Write an item into the message FIFO of logical engine L. -/
def emqPut (l kind src : Nat) (body : List Byte) (s : State) : Bool × State :=
  fifoItem (fEmq l) (itemWords kind src body) none (aEmq l 0x0C) (aEmq l 0x10) s

/-- Release the cells whose items have been taken out. -/
def dropHolds (hs : List (Nat × Nat)) (s : State) : State :=
  hs.foldl (fun s h => if h.1 = 0 then releaseRef h.2 s else s) s

/-- The number of body words of an item of LEN bytes (R164). -/
def bodyWords (len : Nat) : Nat := (len + 3) / 4

/-- The marks of the words behind the first n. -/
def errsPast (n : Nat) (es : Tab Nat) : Tab Nat := (es.filter (fun e => decide (n ≤ e.1))).map (fun e => (e.1 - n, e.2))

/-- Read and remove one word (R163): an empty FIFO returns the last word read and sets UNDER. -/
def fifoRead (f : Nat) (s : State) : Word × State :=
  let q := fifo s f
  match q.words with
  | [] => (q.last, setBit s (fifoStat f) 3)
  | w :: r =>
    let hs := q.holds.map (fun h => (h.1 - 1, h.2))
    let q := { q with words := r, last := w, holds := hs.filter (fun h => decide (h.1 ≠ 0)), errs := errsPast 1 q.errs,
                      left := if q.left = 0 then bodyWords (bits w 8 0) else q.left - 1 }
    (w, dropHolds hs (setFifo s f q))

/-- The whole item at the head of a FIFO: its header, its body bytes, and its length in words. -/
def fifoHead (s : State) (f : Nat) : Option (Word × List Byte × Nat) :=
  match (fifo s f).words with
  | [] => none
  | h :: r =>
    let len := bits h 8 0
    let n := bodyWords len
    if r.length < n then none else some (h, (unpackWords (r.take n)).take len, n + 1)

/-- Remove the first `n` words of a FIFO whose consumer is the device. -/
def fifoDropWords (f n : Nat) (s : State) : State :=
  let q := fifo s f
  setFifo s f { q with words := q.words.drop n, begun := false, startAt := 0, errs := errsPast n q.errs }

/-- A device-side consumer has started on the item at the head (R168). DESIGN CHOICE: the item of a message FIFO is started by the read of
its header word, whoever reads it (log entry 73). -/
def fifoStarted (s : State) (f : Nat) : Bool :=
  (decide (f < 4) && (fifo s f).begun) || (decide (8 ≤ f) && decide ((fifo s f).left ≠ 0))

/-- CTL.FLUSH (R163, R168): the FIFO is empty, and an item whose consumer has started is abandoned and counted as rejected. DESIGN CHOICE:
an inbound item abandoned so was not taken, and CNT_IN_ITEMS does not count it (log entry 73). -/
def fifoFlush (f : Nat) (s : State) : State :=
  let q := fifo s f
  let s := if fifoStarted s f then errInc s (if f < 4 then aHmb f 0x20 else aEmq (f - 8) 0x14) else s
  let s := q.holds.foldl (fun s h => releaseRef h.2 s) s
  setFifo s f {}

/-! ### Flags of the CAN controllers with their events (R622) -/

/-- The event group of a flag of CAN[k].STAT. -/
def canGroup (b : Nat) : Option Nat :=
  if b = 12 then some 64 else if b = 8 ∨ b = 9 ∨ b = 10 ∨ b = 11 then some 65
  else if b = 13 ∨ b = 15 then some 66 else if b = 14 then some 67 else none

/-- Set flags of one group of CAN[k].STAT in one clock: its event is set once, when one of them changes from 0 to 1 and is enabled. -/
def canFlags (k : Nat) (bs : List Nat) (s : State) : State :=
  let a := aCan k 0x04
  let fresh := bs.any (fun b => !flag s a b && flag s (aCan k 0x08) b)
  let s := bs.foldl (fun s b => setBit s a b) s
  match bs.head?.bind canGroup with
  | some e => if fresh then raise (e + 4 * k) s else s
  | none => s

/-- Set a flag of CAN[k].STAT, with the event of its group when it changes from 0 to 1 and is enabled. -/
def canFlag (k b : Nat) (s : State) : State := canFlags k [b] s

/-- The controller's own state. -/
def canSt (s : State) (k : Nat) : CanSt := tabGet (fun _ => {}) s.can k

/-- Set the controller's own state. -/
def setCan (s : State) (k : Nat) (v : CanSt) : State := { s with can := tabSet (fun _ => {}) s.can k v }

/-- Gate 93, which carries records to both controllers, has room: it holds 16 (R143). -/
def canRecRoom (s : State) : Bool := decide (s.recGate.length < 16)

/-- A record for controller k enters gate 93; `mailbox` marks a mailbox item (R609). -/
def canRecPut (k : Nat) (mailbox : Bool) (r : List Byte) (s : State) : State := { s with recGate := s.recGate ++ [(k, mailbox, r)] }

/-- A committed sentence handed to CAN controller k (R610). -/
def canSentAdmit (k c : Nat) (s : State) : State :=
  let v := canSt s k
  if v.sq.length ≥ 8 ∨ !flag s (aCan k 0x28) 31 ∨ fld s (aCan k 0x04) 2 0 = 0 ∨ cellLen s c + 2 > 223 then
    canFlag k 11 (errInc s (aCan k 0x7C))
  else addRef c (setCan s k { v with sq := v.sq ++ [c] })

end Sys2Proof.Machine
end

