-- ==== Sys2Proof/Machine/Fault.lean ====
section
/-!
DEFINITION. The states of the CAN controllers, the levels of the discrete lines (R634–R639), HELLO frames (R522–R526), entry into FAULT (R670, R671), the service-log queue (R736, R737), and error
correction (R714–R716).
-/
namespace Sys2Proof.Machine

/-- CAN[k].STAT.STATE (R591): 0 INIT, 1 ACTIVE, 2 PASSIVE, 3 BUSOFF, 4 RECOVERING, 5 INTEGRATING. -/
def canState (s : State) (k : Nat) : Nat := fld s (aCan k 0x04) 2 0

/-- TEC and REC (R620). -/
def canTec (s : State) (k : Nat) : Nat := fld s (aCan k 0x14) 8 0
def canRec (s : State) (k : Nat) : Nat := fld s (aCan k 0x14) 23 16

/-- Set STATE and WARN, with STCHG when either changes (R612, R614), and further flags of its group in the same clock. -/
def canStatusWith (more : List Nat) (k st : Nat) (s : State) : State :=
  let warn := decide (96 ≤ canTec s k) || decide (96 ≤ canRec s k)
  if canState s k = st ∧ flag s (aCan k 0x04) 3 = warn then canFlags k more s
  else canFlags k (13 :: more) (putBit (setFld s (aCan k 0x04) 2 0 st) (aCan k 0x04) 3 warn)

/-- Set STATE and WARN (R612, R614). -/
def canStatus (k st : Nat) (s : State) : State := canStatusWith [] k st s

/-- Enter INIT (R592). -/
def canEnterInit (k : Nat) (s : State) : State :=
  let s := setCan s k { canSt s k with initPend := false }
  canStatus k 0 (setReg s (aCan k 0x14) 0)

/-! ### The service log -/

/-- Queue a service-log record (R737): a full queue discards it. -/
def logPut (typ inst : Nat) (data : List Byte) (s : State) : State :=
  if 16 ≤ s.av.logq.length then setBit (errInc s (aAv 0xD4)) (aAv 0x00) 8
  else { s with av := { s.av with logq := s.av.logq ++ [{ typ := typ, inst := inst, ft := s.time.ft, data := data }] } }

/-! ### Neighbours and HELLO (R524–R526) -/

/-- A MGT payload of 16 or 32 bytes (R522). -/
def mgtPayload (kind b1 h2 h4 h6 : Nat) (duid : DWord) (rest : List Byte) : List Byte :=
  bytesLE 1 kind ++ bytesLE 1 b1 ++ bytesLE 2 h2 ++ bytesLE 2 h4 ++ bytesLE 2 h6 ++ bytesLE 8 duid.toNat ++ rest

/-- The node sends HELLOs (R523, R524): not while it boots, and in STABLED only with RING_KEEP. -/
def sendsHello (s : State) : Bool :=
  decide (s.power.phase = .halter) || originates s || (decide (s.power.phase = .stabled) && flag s (aNode 0x10) 31)

/-- The READY a HELLO shows (R526). -/
def readyShown (s : State) : Bool := flag s (aRing 0x418) 31 && !s.ring.mgr.readyHold

/-- Send a HELLO on link m (R522, R524, R526). -/
def sendHello (m : Nat) (s : State) : State :=
  if sendsHello s && linkUp s m then
    let b1 := m % 4 + 4 * b2n (readyShown s) + 8 * b2n (decide (fld s (aRing 0x400) 1 0 ≠ 0))
    originateLocal m { typ := 8, exp := true, dest := 0, src := s.nodeId,
                       payload := mgtPayload 0 b1 (phaseCode s.power.phase) s.nodeId (fld s (aRing 0x418) 11 0) s.duid (bytesLE 16 0) } s
  else s

/-- Send a HELLO on every link in UP. -/
def helloAll (s : State) : State := (List.range 4).foldl (fun s m => sendHello m s) s

/-- CS.NODE changes (R60, R524, R669): one CS.GENERATION change, event 99, and a HELLO on every link in UP. -/
def nodeChanged (s : State) : State := helloAll (raise 99 (csChange s))

/-! ### Levels of the discrete lines (R634–R639) -/

/-- The global registers of the unit (R641). -/
def aDlG (o : Nat) : Nat := 0x00021000 + o

/-- A line beside its registers. -/
def dlSt (s : State) (k : Nat) : DlSt := tabGet (fun _ => {}) s.dl k

/-- Set a line beside its registers. -/
def setDl (s : State) (k : Nat) (v : DlSt) : State := { s with dl := tabSet (fun _ => {}) s.dl k v }

/-- DL[k].CFG.MODE: 0 IN, 1 OUT, 2 PWM, 3 HEARTBEAT (R642). -/
def dlMode (s : State) (k : Nat) : Nat := fld s (aDl k 0x00) 31 30

/-- The OUT bit of line k. -/
def dlOut (s : State) (k : Nat) : Bool := flag s (aDlG 0x08) k

/-- Whether line k is at its active level (R636, R637, R639, R671). -/
def dlActive (s : State) (k : Nat) : Bool :=
  let m := dlMode s k
  if inFault s then false
  else if s.power.phase = .stabled then dlOut s k
  else if m = 2 then (dlSt s k).pwmHigh
  else if m = 3 ∧ flag s (aDl k 0x04) 0 then (dlSt s k).hbLevel
  else dlOut s k

/-- The level the line would drive (R634). -/
def dlLevel (s : State) (k : Nat) : Bool := Bool.xor (dlActive s k) (flag s (aDl k 0x00) 28)

/-- The line drives its ball (R634, R643). -/
def dlDriven (s : State) (k : Nat) : Bool :=
  decide (dlMode s k ≠ 0) && !(flag s (aDl k 0x00) 29 && dlLevel s k)

/-- Agreement of the ball with the level that line k drives lets the check of R638 start again. -/
def dlAgree (k : Nat) (s : State) : State :=
  if (dlSt s k).faulty ∧ dlDriven s k ∧ (dlSt s k).ball = dlLevel s k then setDl s k { dlSt s k with faulty := false } else s

/-- The driven levels of all lines change with the node state (R638, R639, R671). -/
def dlAgreeAll (s : State) : State := (List.range 32).foldl (fun s k => dlAgree k s) s

/-! ### FAULT -/

/-- A slice stops in FAULT (R671): what it was receiving and sending is gone, and none of its timers runs. -/
def sliceStop (v : SliceSt) : SliceSt :=
  { v with rx := none, shifter := none, idleRun := false, tmoRun := false, leadWait := false, trailRun := false, backoff := none,
           waitRun := false, forcePend := false }

/-- FAULT_ENTRY (R670, R671): the cause is recorded, and the node enters FAULT. `b` is the cause's bit of NODE.STAT. Both CAN controllers
enter INIT, every slice stops, and the direction outputs are released; the engines, the drivers and the discrete lines follow from the node
state (R638 compares them anew). A FAULT record is queued (log entry 22). DESIGN CHOICE: a node that boots enters FAULT at once, as in
HALTER, which it reads; its boot ends there, without the HALTER entry, and event 99 is not set (R669, R770). A cause that comes in Stabled
acts at the end of the wake (log entry 77). -/
def faultEnter (b : Nat) (s : State) : State :=
  match s.power.phase with
  | .off => s
  | .stabled => { s with power := { s.power with faultDue := s.power.faultDue ++ [b] } }
  | .fault => setBit s (aNode 0x00) b
  | ph =>
    let s := setBit s (aNode 0x00) b
    let s := { s with power := { s.power with phase := .fault, entering := false, drained := false } }
    let s := (List.range 2).foldl (fun s k => canEnterInit k (setBit s (aCan k 0x00) 0)) s
    let s := (List.range 272).foldl (fun s n => setReg s (aPort n 0x18) (getReg s (aPort n 0x18) &&& 0xFFFFFFBC)) s
    let s := { s with slices := tabMap (fun _ => {}) sliceStop s.slices }
    let s := logPut 5 0 (bytesLE 4 (fld s (aNode 0x00) 10 8) ++ bytesLE 8 0) (dlAgreeAll s)
    if ph = .booting then helloAll (csChange s) else nodeChanged s

/-! ### Error correction -/

/-- The error of a 64-bit word: 0 none, 1–72 one bit in error, more uncorrectable. -/
def eccOf (s : State) (w : Nat) : Nat := tabGet (fun _ => 0) s.ecc w

/-- Correct a word with one bit in error (R714). -/
def eccFix (w : Nat) (s : State) : State :=
  stickyRaise (aAv 0x00) 0 88 (errInc { s with ecc := tabDel s.ecc w } (aAv 0x08))

/-- Words from this number on have no node-local offset: the duplicate window, spare engines, gates and queues (log entry 21). -/
def eccOther : Nat := 0x00800000

/-- The node-local offset of a word; open for a word that has none (log entry 21). -/
def eccOffset (w : Nat) (s : State) : Nat × State := if w < eccOther then (8 * w, s) else takeFree s

/-- A read finds an uncorrectable word (R715, R716). An UNCORR record is queued (log entry 22). -/
def eccBad (w : Nat) (s : State) : State :=
  let s := stickyRaise (aAv 0x00) 1 89 (errInc s (aAv 0x0C))
  let (o, s) := eccOffset w s
  let s := setReg s (aAv 0x10) (wd (o % 2 ^ 26))
  let (f, s) := takeFree s
  let s := logPut 3 0 (bytesLE 8 o ++ bytesLE 4 f) s
  if flag s (aAv 0x04) 8 then faultEnter 10 s else s

/-- Read words: single errors are corrected, and the flag says whether an uncorrectable one was found. -/
def eccWords : List Nat → State → Bool × State
  | [], s => (false, s)
  | w :: r, s =>
    let e := eccOf s w
    if e = 0 then eccWords r s
    else if e ≤ 72 then eccWords r (eccFix w s)
    else (true, (eccWords r (eccBad w s)).2)

/-- Read the words of a run of bytes of memory. -/
def eccRead (a n : Nat) (s : State) : Bool × State :=
  if s.ecc.isEmpty then (false, s)
  else eccWords ((List.range ((a + n - 1) / 8 + 1 - a / 8)).map (fun i => a / 8 + i)) s

/-- A write restores the right codes of the words of a run of bytes (log entry 21). -/
def eccClean (a n : Nat) (s : State) : State :=
  if s.ecc.isEmpty then s else { s with ecc := s.ecc.filter (fun e => decide (e.1 < a / 8) || decide ((a + n - 1) / 8 < e.1)) }

/-- Where the words of the cell window of context c of logical engine l stand, and word w of the duplicate window's entry of a source: at
numbers without an offset (log entry 21). -/
def aCtxWin (l c : Nat) : Nat := 8 * (eccOther + 0x20000) + 128 * (8 * l + c)
def aDup (src w : Nat) : Nat := 8 * (eccOther + 17 * src + w)

/-- The number under which word i of FIFO f stands. -/
def eccFifo (f i : Nat) : Nat := 3 * eccOther + 512 * f + i

/-- The first n words of a FIFO are read (R714, R715): the flag says that one of them is uncorrectable. -/
def fifoEcc (f n : Nat) (s : State) : Bool × State :=
  ((fifo s f).errs.filter (fun e => decide (e.1 < n))).foldl (fun (r : Bool × State) e =>
    if e.2 ≤ 72 then (r.1, eccFix (eccFifo f e.1) (setFifo r.2 f { fifo r.2 f with errs := tabDel (fifo r.2 f).errs e.1 }))
    else (true, eccBad (eccFifo f e.1) r.2)) (false, s)

/-- Read the cells of a committed chain. -/
def eccChain (c : Nat) (s : State) : Bool × State :=
  if s.ecc.isEmpty then (false, s)
  else
    let len := cellLen s c
    let n := cellNext s c
    let (b0, s) := eccRead (aCell c) (32 + min len 96) s
    let (b1, s) := if 96 < len then eccRead (aCell n) (len - 96) s else (false, s)
    (b0 || b1, s)

/-! ### Gates 34–37: frames to transmit (R28, R143) -/

/-- The payload bytes of a frame of a transmit queue. -/
def framePlen (s : State) (f : Frame) : Nat :=
  match f.cell with
  | some c => 24 + cellLen s c
  | none => f.payload.length

/-- The 16-byte words of a frame in a gate: header and payload (log entry 24). -/
def frameWords (s : State) (f : Frame) : Nat := (16 + framePlen s f + 15) / 16

/-- The words in gate 34 + m. -/
def gateWords (s : State) (m : Nat) : Nat := (((txQ s m).filter (·.inGate)).map (frameWords s)).sum

/-- A frame waits in the switch for room in gate 34 + m. TIME and MGT frames are the ring unit's own and do not cross it (log entry 24). -/
def awaitsGate (f : Frame) : Bool := !f.inGate && decide (f.typ ≠ 7) && decide (f.typ ≠ 8)

/-- The frame the switch writes next: an express one first (log entry 24). -/
def gateNext (q : List Frame) : Option Nat :=
  match q.findIdx? (fun f => awaitsGate f && f.exp) with
  | some i => some i
  | none => q.findIdx? awaitsGate

/-- The switch writes the words of a frame into the gate; with the last of them the copy releases its cell (R28). -/
def gateEnter (f : Frame) (s : State) : Frame × State :=
  match f.cell with
  | some c =>
    let (bad, s) := eccChain c s
    ({ f with cell := none, inGate := true, bad := bad, payload := memBytes s (aCell c) 24 ++ cellText s c }, releaseRef c s)
  | none => ({ f with inGate := true }, s)

/-- The switch fills gate 34 + m as far as whole frames find room in its 64 words, and waits otherwise (R143). -/
def gateFill (m : Nat) : Nat → State → State
  | 0, s => s
  | k + 1, s =>
    match gateNext (txQ s m) with
    | none => s
    | some i =>
      match (txQ s m)[i]? with
      | none => s
      | some f =>
        if 64 < gateWords s m + frameWords s f then s
        else
          let (g, s) := gateEnter f s
          gateFill m k (setTxQ m (listSet (txQ s m) i g) s)

/-- Fill gates 34–37. -/
def gatesFill (s : State) : State := (List.range 4).foldl (fun s m => gateFill m 64 s) s

end Sys2Proof.Machine
end

