-- ==== Sys2Proof/Machine/Listener.lean ====
section
/-!
DEFINITION. Listener queues (R307–R333): admission, selection, removal, cut-through charges, fogged tails; and engine input
queue admission (R393, R394).
-/
namespace Sys2Proof.Machine

/-- The slice that serves a port, its parser, its queue and its raw block. -/
def slice (s : State) (n : Nat) : SliceSt := tabGet (fun _ => {}) s.slices n
def setSlice (s : State) (n : Nat) (v : SliceSt) : State := { s with slices := tabSet (fun _ => {}) s.slices n v }
def queue (s : State) (n : Nat) : QSt := tabGet (fun _ => {}) s.queues n
def setQueue (s : State) (n : Nat) (v : QSt) : State := { s with queues := tabSet (fun _ => {}) s.queues n v }
def parser (s : State) (n : Nat) : ParserSt := tabGet (fun _ => {}) s.parsers n
def setParser (s : State) (n : Nat) (v : ParserSt) : State := { s with parsers := tabSet (fun _ => {}) s.parsers n v }

/-- A sentence is stale at a value of DNOW (R319). -/
def staleAt (dnow : Word) (deadline : Nat) : Bool :=
  decide (deadline ≠ 0) && decide ((dnow.toNat + 2 ^ 32 - deadline % 2 ^ 32) % 2 ^ 32 < 2 ^ 31)

/-- A sentence is stale now. -/
def isStale (s : State) (deadline : Nat) : Bool := staleAt s.time.dnow deadline

/-- The items a queue holds: unstarted, started, and the one whose last stop bit is still to end (R312). -/
def heldItems (q : QSt) : List QItem :=
  q.items ++ (match q.started with
    | some t => [t.item]
    | none => []) ++ (match q.ending with
    | some i => [i]
    | none => [])

/-- Q_OCC.HELD and HELDc (R312). -/
def heldOf (q : QSt) : Nat := ((heldItems q).map (·.charge)).sum
def heldC (q : QSt) (c : Nat) : Nat := (((heldItems q).filter (fun i => decide (i.cls = c))).map (·.charge)).sum

/-- Set flags of Q_STAT in one clock: their event is set once when an enabled one changes from 0 to 1 (R340). -/
def qFlags (n : Nat) (bs : List Nat) (ev : Nat) (s : State) : State :=
  let rise := bs.any (fun b => !flag s (aPort n 0x70) b && flag s (aPort n 0x60) (b + 8))
  let s := bs.foldl (fun s b => setBit s (aPort n 0x70) b) s
  if rise then raise ev s else s

/-- Set a flag of Q_STAT with its event (R340). -/
def qFlag (n b : Nat) (s : State) : State :=
  stickyEn (aPort n 0x70) b (aPort n 0x60) (b + 8) (if b = 8 then 20 else 19) s

/-- An enabled flag among bits `lo` to `hi` of Q_STAT of port n rose from `s0` to `s`. -/
def qRose (s0 s : State) (lo hi n : Nat) : Bool :=
  ((List.range (hi + 1)).drop lo).any (fun b => !flag s0 (aPort n 0x70) b && flag s (aPort n 0x70) b && flag s (aPort n 0x60) (b + 8))

/-- The events of R340 for what happened to the queues of some ports in one clock, `s0` being the state before it: however many of their
flags rise, event 20 (STALE) and event 19 (the others) are each set once. -/
def qNote (ps : List Nat) (s0 s : State) : State :=
  let s := if ps.any (qRose s0 s 8 8) then raise 20 s else s
  if ps.any (qRose s0 s 9 12) then raise 19 s else s

/-- The counters of R315 with their flags; the events of the flags are those of qNote. -/
def bumpStale (n : Nat) (s : State) : State := setBit (errInc (errInc s (aPort n 0xEC)) (aSw 0x288)) (aPort n 0x70) 8
def bumpTailDrop (n : Nat) (s : State) : State := setBit (errInc (errInc s (aPort n 0xF0)) (aSw 0x28C)) (aPort n 0x70) 9
def bumpPushout (n : Nat) (s : State) : State := setBit (errInc (errInc s (aPort n 0xF4)) (aSw 0x28C)) (aPort n 0x70) 10

/-- What happens in a clock to the queue of one port alone. -/
def countStale (n : Nat) (s : State) : State := qNote [n] s (bumpStale n s)
def countTailDrop (n : Nat) (s : State) : State := qNote [n] s (bumpTailDrop n s)

/-- A sentence leaves the queue of a port: a sweep that has tested it there forgets its cell, which can come again with another (R322). -/
def sweepForget (n c : Nat) (s : State) : State :=
  match s.sweep with
  | some w => if w.port = n then { s with sweep := some { w with passed := w.passed.filter (· ≠ c) } } else s
  | none => s

/-- Remove an unstarted item (by its cell) from a queue, releasing its reference (R315, R28). -/
def qRemove (n c : Nat) (s : State) : State :=
  let q := queue s n
  sweepForget n c (releaseRef c (setQueue s n { q with items := q.items.filter (fun i => decide (i.cell ≠ c)) }))

/-- CAP[c] of a port (R336). -/
def capOf (s : State) (n c : Nat) : Nat := fld s (aPort n (0x64 + 4 * (c / 4))) (8 * (c % 4) + 7) (8 * (c % 4))

/-- Whether queued sentence y is the one that x supersedes (R313). -/
def sameRoute (s : State) (x y : Nat) : Bool :=
  decide (cellRoute s y % 4096 = cellRoute s x % 4096) && decide (cellRoute s y / 32768 = cellRoute s x / 32768) &&
  decide ((cellFlags s y).getLsbD 6 = (cellFlags s x).getLsbD 6) && decide (cellNode s y = cellNode s x) &&
  decide (cellSrc s y = cellSrc s x) && !(cellFlags s y).getLsbD 7

/-- The oldest unstarted item of the lowest class below `c` that still holds one outside `out` (R313). DESIGN CHOICE: a sentence that took
the place of a superseded one counts as old as its place, so that the oldest of a class is its first in the queue (log entry 80). -/
def victimOf (items : List QItem) (c : Nat) (out : List Nat) : Option QItem :=
  ((List.range c).filterMap (fun b => items.find? (fun i => decide (i.cls = b) && !out.contains i.cell))).head?

/-- Choose push-out victims until `room` reaches `need` (R313): none when a newcomer cannot be given room. -/
def chooseVictims (items : List QItem) (c need : Nat) : Nat → Nat → List QItem → List Nat → Option (List QItem)
  | 0, room, vs, _ => if need ≤ room then some vs else none
  | k + 1, room, vs, out =>
    if need ≤ room then some vs
    else
      match victimOf items c out with
      | none => none
      | some v => chooseVictims items c need k (room + v.charge) (vs ++ [v]) (v.cell :: out)

/-- Admission of a committed sentence or tunnel block to a listener queue (R313, R314). The caller sets the events (qNote). -/
def queueAdmit (n : Nat) (it : QItem) (supersede : Bool) (s : State) : State :=
  if isStale s (cellDeadline s it.cell) then bumpStale n s
  else
    let q := queue s n
    let old := if supersede && !it.tun then
      q.items.find? (fun y => decide (y.cls = it.cls) && sameRoute s it.cell y.cell) else none
    let give := match old with
      | some o => o.charge
      | none => 0
    let cap := capOf s n it.cls
    if cap ≠ 0 ∧ cap < heldC q it.cls - give + it.charge then bumpTailDrop n s
    else
      let oldCell := match old with
        | some o => [o.cell]
        | none => []
      match chooseVictims q.items it.cls (heldOf q - give + it.charge) q.items.length (fld s (aPort n 0x60) 11 0) [] oldCell with
      | none => bumpTailDrop n s
      | some vs =>
        let s := vs.foldl (fun s v => bumpPushout n (qRemove n v.cell s)) s
        let q := queue s n
        let s := addRef it.cell s
        match old with
        | some o =>
          sweepForget n o.cell (releaseRef o.cell
            (trafInc (setQueue s n { q with items := q.items.map (fun y => if y.cell = o.cell then it else y) }) (aPort n 0xF8)))
        | none => setQueue s n { q with items := q.items ++ [it] }

/-- The head unstarted item of the highest class that holds one (R310). -/
def topItem (items : List QItem) : Option QItem :=
  ([7, 6, 5, 4, 3, 2, 1, 0].filterMap (fun c => items.find? (fun i => decide (i.cls = c)))).head?

/-- Selection removes stale heads and takes the first fresh one (R321); one with an uncorrectable word is removed as tail-dropped
(R715). -/
def selectFresh (n : Nat) : Nat → State → Option QItem × State
  | 0, s => (none, s)
  | k + 1, s =>
    match topItem (queue s n).items with
    | none => (none, s)
    | some i =>
      if isStale s (cellDeadline s i.cell) then selectFresh n k (countStale n (qRemove n i.cell s))
      else
        let (bad, s) := eccChain i.cell s
        if bad then selectFresh n k (countTailDrop n (qRemove n i.cell s)) else (some i, s)

/-- Remove every unstarted sentence of a port, counted as tail-dropped (R316). -/
def flushUnstarted (n : Nat) (s : State) : State :=
  (queue s n).items.foldl (fun s i => countTailDrop n (qRemove n i.cell s)) s

/-- The unit in progress of talker `m` has nothing more to do with listener p, whose started copy is gone (R90, R332). DESIGN CHOICE: a
port that is back in SENTENCE mode when the unit commits is not queued again, since R329 gave it the sentence; one that is in another mode
counts in CNT_NOLISTEN like every named port (R287; log entry 80). -/
def cutForget (p m : Nat) (s : State) : State :=
  match (parser s m).cur with
  | some u => setParser s m { parser s m with cur := some { u with cutOn := u.cutOn.filter (· ≠ p), cutGone := u.cutGone ++ [p] } }
  | none => s

/-- Remove the started and the ending sentence of a port, counted as tail-dropped (R90, R315). -/
def dropStarted (n : Nat) (s : State) : State :=
  let q := queue s n
  let s := match q.started.bind Started.ct with
    | some m => cutForget n m s
    | none => s
  let held := (match q.started with
    | some t => [t.item.cell]
    | none => []) ++ (match q.ending with
    | some i => [i.cell]
    | none => [])
  held.foldl (fun s c => countTailDrop n (releaseRef c s)) (setQueue s n { q with started := none, ending := none, endFog := false })

/-- The transmit mode of a port left SENTENCE or TUNNEL (R316). -/
def flushQueue (n : Nat) (s : State) : State := flushUnstarted n (dropStarted n s)

/-- The next sentence of port p that a sweep tests: the first unstarted one that it has not passed. -/
def sweepNext (s : State) (w : SweepSt) (p : Nat) : Option QItem :=
  (queue s p).items.find? (fun i => decide (p ≠ w.port) || !w.passed.contains i.cell)

/-- The port of the next sentence a sweep tests (R322). -/
def sweepAt (s : State) (w : SweepSt) : Option Nat :=
  (List.range (portCount s)).find? (fun p => decide (w.port ≤ p) && (sweepNext s w p).isSome)

/-- Up to `k` tests of a sweep (R322), each against the present DNOW: a stale sentence is removed and the others are passed. -/
def sweepTests : Nat → SweepSt → State → SweepSt × State
  | 0, w, s => (w, s)
  | k + 1, w, s =>
    match sweepAt s w with
    | none => (w, s)
    | some p =>
      let passed := if p = w.port then w.passed else []
      match sweepNext s w p with
      | none => (w, s)
      | some i =>
        if isStale s (cellDeadline s i.cell) then
          sweepTests k { port := p, passed := passed, tests := w.tests + 1 } (countStale p (qRemove p i.cell s))
        else sweepTests k { port := p, passed := passed ++ [i.cell], tests := w.tests + 1 } s

/-- A sentence is ready on a port (R127, R128): with DIR.EN = 1 the direction output is asserted and the lead begins, unless
the output is asserted already. -/
def dirBegin (n : Nat) (s : State) : State :=
  if !flag s (aPort n 0x10) 8 then s
  else if flag s (aPort n 0x18) 6 then setSlice s n { slice s n with trailRun := false }
  else
    setSlice (setBit s (aPort n 0x18) 6) n
      { slice s n with leadWait := decide (fld s (aPort n 0x10) 3 0 ≠ 0), trailRun := false }

/-- A hex digit, uppercase. -/
def hexDigit (n : Nat) : Byte := BitVec.ofNat 8 (if n % 16 < 10 then 48 + n % 16 else 55 + n % 16)

/-- Two uppercase hex digits, high nibble first. -/
def hex2 (n : Nat) : List Byte := [hexDigit (n / 16), hexDigit n]

/-- The decimal digits of a number, least significant first, at most `k` of them. -/
def decRev : Nat → Nat → List Byte
  | 0, _ => []
  | k + 1, n => BitVec.ofNat 8 (48 + n % 10) :: (if n / 10 = 0 then [] else decRev k (n / 10))

/-- A decimal number without leading zeros. -/
def decBytes (n : Nat) : List Byte := (decRev 24 n).reverse

/-- The exclusive OR of bytes. -/
def xorBytes (bs : List Byte) : Nat := (bs.foldl (fun a b => a ^^^ b) 0).toNat

/-- The TAG block of TAG_ADD (R325). -/
def tagBlock (fmt : Nat) (stamp : DWord) (node src : Nat) : List Byte :=
  let sec := stamp.toNat / 2 ^ 30
  let t := if fmt = 1 then sec * 1000 + stamp.toNat % 2 ^ 30 / 1000000 else sec
  let txt := [0x63#8, 0x3A#8] ++ decBytes t ++ [0x2C#8, 0x73#8, 0x3A#8, 0x4E#8] ++ decBytes node ++ [0x4C#8] ++ decBytes src
  [0x5C#8] ++ txt ++ [0x2A#8] ++ hex2 (xorBytes txt) ++ [0x5C#8]

/-- The fogged tail of a started sentence (R331). -/
def fogTail (t : Started) : List Byte :=
  (if t.star then [] else [0x2A#8]) ++ hex2 (255 - t.x % 256) ++ [0x0D#8, 0x0A#8]

/-- End a port's cut-through sentence with a fogged tail behind the last character sent, also within a TAG_ADD block (R331–R333). The caller
sets the event (qNote). -/
def fog (n : Nat) (gap : Bool) (s : State) : State :=
  let q := queue s n
  match q.started with
  | none => s
  | some t =>
    let s := setQueue s n { q with started := some { t with pre := t.pre.take t.pos, ct := none, tail := some (fogTail t) } }
    let s := errInc s (aPort n 0xFC)
    setBit (if gap then setBit (errInc s (aPort n 0x7C)) (aPort n 0x70) 12 else s) (aPort n 0x70) 11

/-- Charge the sentence of cell c, started or sending its last character on a port, with the cells its chain holds now (R312, R328). -/
def rechargeCut (n c cells : Nat) (s : State) : State :=
  let q := queue s n
  let f := fun (i : QItem) => if i.cell = c then { i with charge := cells } else i
  setQueue s n { q with started := q.started.map (fun t => { t with item := f t.item }), ending := q.ending.map f }

/-- Admit a committed sentence to class k of logical engine L's input queue (R394); an unplaced engine admits nothing (R733). -/
def engAdmit (l k c : Nat) (s : State) : State :=
  let q := tabGet (fun _ => {}) s.engs l
  let here := if k = 1 then q.q1 else q.q0
  if fld s (aEng l 0x04) 28 24 = 31 ∨ fld s (aEng l 0x0C) (if k = 1 then 27 else 11) (if k = 1 then 16 else 0) ≤ here.length then
    stickyEn (aEng l 0x04) 11 (aEng l 0x08) 11 (24 + l) (errInc s (aEng l 0x18))
  else
    addRef c { s with engs := tabSet (fun _ => {}) s.engs l
                                (if k = 1 then { q with q1 := q.q1 ++ [c] } else { q with q0 := q.q0 ++ [c] }) }

end Sys2Proof.Machine
end

