-- ==== Sys2Proof/Machine/Routing.lean ====
section
/-!
DEFINITION. Routes, port sets and groups (R269–R293): the key, the lookup and its capture, decimation, the union of actions,
the consumers of a committed sentence, table entries and their rules.
-/
namespace Sys2Proof.Machine

/-- A word of a table of a bank: table 0 RT, 1 PSET, 2 GSUB; the offset is within the table. -/
def tblWord (s : State) (bank : Bool) (tbl o : Nat) : Word :=
  let t := s.tables
  tabGet (fun _ => 0)
    (if tbl = 0 then (if bank then t.rtB else t.rtA)
     else if tbl = 1 then (if bank then t.psetB else t.psetA)
     else (if bank then t.gsubB else t.gsubA)) o

/-- Write a word of a table of a bank, and its shadow with it (R721). -/
def tblPut (s : State) (bank : Bool) (tbl o : Nat) (v : Word) : State :=
  let t := { s.tables with par := tabDel s.tables.par (parKey bank tbl o) }
  let d : Nat → Word := fun _ => 0
  { s with tables :=
    (if tbl = 0 then (if bank then { t with rtB := tabSet d t.rtB o v } else { t with rtA := tabSet d t.rtA o v })
     else if tbl = 1 then (if bank then { t with psetB := tabSet d t.psetB o v } else { t with psetA := tabSet d t.psetA o v })
     else (if bank then { t with gsubB := tabSet d t.gsubB o v } else { t with gsubA := tabSet d t.gsubA o v })) }

/-- The size of an entry, the number of entries and the offset of the HITS word of a table (R279, R285, R289). -/
def tblEntry (tbl : Nat) : Nat := if tbl = 0 then 32 else if tbl = 1 then 64 else 8
def tblCount (tbl : Nat) : Nat := if tbl = 1 then 1024 else 4096
def tblHits (tbl : Nat) : Option Nat := if tbl = 0 then some 0x1C else if tbl = 2 then some 0 else none

/-- The words of an entry. -/
def tblImage (s : State) (bank : Bool) (tbl i : Nat) : List Word :=
  (List.range (tblEntry tbl / 4)).map (fun w => tblWord s bank tbl (i * tblEntry tbl + 4 * w))

/-- Whether an image breaks an entry's field rules (R279, R285, R286, R289). -/
def imageRefused (s : State) (tbl i : Nat) (ws : List Word) : Bool :=
  if tbl = 0 then
    let a2 := ws.getD 6 0
    decide (bits a2 31 30 = 3) || (decide (bits a2 31 30 ≠ 0) && decide (bits a2 15 0 = 0))
  else if tbl = 1 then
    decide (i = 0) || (!s.m4 && decide (bits (ws.getD 8 0) 15 0 ≠ 0))
  else decide (i = 0)

/-- The bits of word w of an entry that can be written; the others are reserved and read as zero (R37). -/
def imageMask (tbl w : Nat) : Word :=
  if tbl = 0 then
    (if w = 0 ∨ w = 2 then 0xFFFFFFFC#32 else if w = 5 then 0xFFFFFFF0#32 else if w = 6 then 0xC000FFFF#32 else 0xFFFFFFFF#32)
  else if tbl = 1 then (if w = 8 then 0x0000FFFF#32 else if w > 8 then 0 else 0xFFFFFFFF#32)
  else if w = 1 then 0xFFBFFFFF#32 else 0xFFFFFFFF#32

/-- Replace an entry with an image; the HITS word keeps its value or becomes 0 (R298). -/
def tblReplace (bank : Bool) (tbl i : Nat) (ws : List Word) (clrHits : Bool) (s : State) : State :=
  (List.range (tblEntry tbl / 4)).foldl (fun s w =>
    let o := i * tblEntry tbl + 4 * w
    if tblHits tbl = some (4 * w) then (if clrHits then tblPut s bank tbl o 0 else s)
    else tblPut s bank tbl o (ws.getD w 0 &&& imageMask tbl w)) s

/-- Copy the active bank onto the inactive bank, HITS included (R297), its shadow and parity with it (R721). -/
def copyBanks (s : State) : State :=
  let t := { s.tables with par := s.tables.par.filter (fun e => decide (e.1 < parKey true 0 0) != s.tables.active) }
  { s with tables := if t.active then { t with rtA := t.rtB, psetA := t.psetB, gsubA := t.gsubB }
                     else { t with rtB := t.rtA, psetB := t.psetA, gsubB := t.gsubA } }

/-! ### Keys and lookups -/

/-- The route key (R269). -/
def routeKey (node src opening : Nat) (addr : List Nat) : Nat :=
  node % 4096 * 2 ^ 52 + src % 512 * 2 ^ 43 + (if opening = 0x21 then 2 ^ 42 else 0) +
  addr.getD 0 0 % 256 * 2 ^ 34 + addr.getD 1 0 % 256 * 2 ^ 26 + addr.getD 2 0 % 256 * 2 ^ 18 +
  addr.getD 3 0 % 256 * 2 ^ 10 + addr.getD 4 0 % 256 * 4

/-- An entry's words are read (R722): a primary word with bad parity is repaired from its shadow; an entry with a word bad in both
copies is recorded in RT_BAD. -/
def parRead (bank : Bool) (tbl i : Nat) (s : State) : State :=
  if s.tables.par.isEmpty then s
  else
    let s := (List.range (tblEntry tbl / 4)).foldl (fun s w =>
      let k := parKey bank tbl (i * tblEntry tbl + 4 * w)
      if tabGet (fun _ => 0) s.tables.par k = 1 then
        stickyRaise (aAv 0x00) 3 89 (errInc { s with tables := { s.tables with par := tabDel s.tables.par k } } (aAv 0x20))
      else s) s
    if entryBad s bank tbl (tblEntry tbl) i then setReg s (aAv 0x28) (wd (tbl * 65536 + i)) else s

/-- RT[i] matches a key (R271). -/
def rtMatches (s : State) (bank : Bool) (i key : Nat) : Bool :=
  let w := fun o => tblWord s bank 0 (32 * i + o)
  let k := wd key
  let kh := wd (key / 2 ^ 32)
  bit (w 0x10) 31 && decide ((k ^^^ w 0x00) &&& (w 0x08 &&& 0xFFFFFFFC#32) = 0) && decide ((kh ^^^ w 0x04) &&& w 0x0C = 0)

/-- The indices of the entries that match a key, rising. An entry with VALID = 1 has its ACT0 word listed. -/
def rtAll (s : State) (bank : Bool) (key : Nat) : List Nat :=
  ((if bank then s.tables.rtB else s.tables.rtA).filter (fun e => decide (e.1 % 32 = 0x10))).filterMap
    (fun e => if rtMatches s bank (e.1 / 32) key && !entryBad s bank 0 32 (e.1 / 32) then some (e.1 / 32) else none)

/-- The entries that would match but have a word bad in both copies (R722). -/
def rtBad (s : State) (bank : Bool) (key : Nat) : List Nat :=
  if s.tables.par.isEmpty then []
  else ((if bank then s.tables.rtB else s.tables.rtA).filter (fun e => decide (e.1 % 32 = 0x10))).filterMap
    (fun e => if rtMatches s bank (e.1 / 32) key && entryBad s bank 0 32 (e.1 / 32) then some (e.1 / 32) else none)

/-- The action of an entry. -/
def rtAction (s : State) (bank : Bool) (i : Nat) : Applied :=
  ⟨i, tblWord s bank 0 (32 * i + 0x10), tblWord s bank 0 (32 * i + 0x14), tblWord s bank 0 (32 * i + 0x18)⟩

/-- The entries applied (R273): the chain goes on while CONT = 1 and DROP = 0. -/
def applyChain : List Applied → List Applied
  | [] => []
  | a :: r => a :: (if bit a.act0 30 && !bit a.act0 29 then applyChain r else [])

/-- The default-route register of a local source (R282). -/
def aDefRoute (src : Nat) : Nat := if src < 272 then aPort src 0x50 else aSw (0x100 + 4 * (src - 272))

/-- A lookup for a local source, with its default route (R272, R273, R280). -/
def lookupLocal (s : State) (src opening : Nat) (addr : List Nat) : Capture :=
  let bank := s.tables.active
  let d := getReg s (aDefRoute src)
  match rtAll s bank (routeKey 0 src opening addr) with
  | m1 :: r => { bank := bank, applied := applyChain ((m1 :: r).map (rtAction s bank)), unmatched := false, ridx := m1,
                 nmevt := bit d 17, bad := rtBad s bank (routeKey 0 src opening addr) }
  | [] => { bank := bank,
            applied := if bit d 16 && !entryBad s bank 0 32 (bits d 11 0) then [rtAction s bank (bits d 11 0)] else [],
            unmatched := true, ridx := bits d 11 0, nmevt := bit d 17,
            bad := rtBad s bank (routeKey 0 src opening addr) ++
              (if bit d 16 && entryBad s bank 0 32 (bits d 11 0) then [bits d 11 0] else []) }

/-- A lookup for a sentence from the ring, which has no default route (R281, R291). -/
def lookupRing (s : State) (node src opening : Nat) (addr : List Nat) : Capture :=
  let bank := s.tables.active
  match rtAll s bank (routeKey node src opening addr) with
  | m1 :: r => { bank := bank, applied := applyChain ((m1 :: r).map (rtAction s bank)), unmatched := false, ridx := m1,
                 bad := rtBad s bank (routeKey node src opening addr) }
  | [] => { bank := bank, applied := [], unmatched := true, ridx := 0, bad := rtBad s bank (routeKey node src opening addr) }

/-! ### Decimation (R283, R284) -/

/-- RTD[i] in the register map. -/
def aRtd (i : Nat) : Nat := aSw (0x8000 + 8 * i)

/-- Nanoseconds between two STAMP values of 62 bits, the first not the earlier (R283). -/
def stampElapsed (a b : Nat) : Nat := (a / 2 ^ 30 * 1000000000 + a % 2 ^ 30) - (b / 2 ^ 30 * 1000000000 + b % 2 ^ 30)

/-- A word of the decimation states, SRAM under R714 (R283, R721). -/
def isRtd (a : Nat) : Bool := decide (aRtd 0 ≤ a) && decide (a < aRtd 4096)

/-- RTD[i] as the switch reads it (R714): an uncorrectable one is an open value (log entry 21). -/
def rtdRead (i : Nat) (s : State) : Nat × State :=
  let (bad, s) := eccRead (aRtd i) 8 s
  if bad then
    let (f, s) := takeFree s
    (f % 2 ^ 64, s)
  else ((dword (getReg s (aRtd i + 4)) (getReg s (aRtd i))).toNat, s)

/-- Write RTD[i]. -/
def rtdPut (i v : Nat) (s : State) : State := setReg (setReg (eccClean (aRtd i) 8 s) (aRtd i) (wd v)) (aRtd i + 4) (wd (v / 2 ^ 32))

/-- Decide whether an applied entry passes the sentence, and update its decimation state (R283). -/
def decimate (a : Applied) (stamp : DWord) (s : State) : Bool × State :=
  let mode := bits a.act2 31 30
  let dval := bits a.act2 15 0
  let (r, s) := if mode = 1 ∨ mode = 2 then rtdRead a.idx s else (0, s)
  let put := fun (s : State) (v : Nat) => rtdPut a.idx v s
  if mode = 1 then
    let count := if r / 2 ^ 62 ≠ 1 ∨ dval ≤ r % 65536 then 0 else r % 65536
    let next := if count + 1 = dval then 0 else count + 1
    (decide (count = 0), put s (2 ^ 62 + next))
  else if mode = 2 then
    let st := stamp.toNat % 2 ^ 62
    let last := r % 2 ^ 62
    if r / 2 ^ 62 ≠ 2 ∨ st < last ∨ dval * 1000000 ≤ stampElapsed st last then (true, put s (2 * 2 ^ 62 + st)) else (false, s)
  else (true, s)

/-- Decide every applied entry in index order (R283): the contributing entries, and the suppressions counted (R275). -/
def decimateAll (stamp : DWord) : List Applied → State → List Applied × State
  | [], s => ([], s)
  | a :: r, s =>
    let (pass, s) := decimate a stamp s
    let s := if pass then s else trafInc s (aSw 0x20C)
    let (rest, s) := decimateAll stamp r s
    (if pass then a :: rest else rest, s)

/-! ### The union of actions (R276) and the consumers -/

/-- What a committed sentence is handed to: the combined values of R276 or the fields of a subscription (R290). Each port is
listed with SUPERSEDE and TAG_ADD. -/
structure Targets where
  prio : Nat := 0
  group : Nat := 0
  express : Bool := false
  deadline : Nat := 0
  eng : Option (Nat × Nat) := none
  host : Nat := 0
  can : Nat := 0
  ports : List (Nat × Bool × Bool) := []
  deriving DecidableEq, Repr

/-- Port p is in the port set of a bank (R285). -/
def inPset (s : State) (bank : Bool) (j p : Nat) : Bool :=
  bit (tblWord s bank 1 (64 * j + 4 * (p / 32))) (p % 32) && !entryBad s bank 1 64 j

/-- The ports of the union, each with the flags of the first contributing entry that holds it (R276, R287). -/
def unionPorts (s : State) (bank : Bool) (es : List Applied) : List (Nat × Bool × Bool) :=
  (List.range 272).filterMap (fun p =>
    match es.find? (fun a => inPset s bank (bits a.act0 9 0) p) with
    | some a => some (p, bit a.act0 28, bit a.act0 26)
    | none => none)

/-- Smallest nonzero value, 0 when all are 0. -/
def minNonzero (l : List Nat) : Nat :=
  l.foldl (fun m d => if d = 0 then m else if m = 0 then d else min m d) 0

/-- The combination of the contributing entries (R276). -/
def combine (s : State) (bank : Bool) (es : List Applied) : Targets :=
  { prio := es.foldl (fun m a => max m (bits a.act0 24 22)) 0,
    group := ((es.map (fun a => bits a.act0 21 10)).find? (fun g => decide (g ≠ 0))).getD 0,
    express := es.any (fun a => bit a.act0 25),
    deadline := minNonzero (es.map (fun a => bits a.act1 31 16)),
    eng := (es.find? (fun a => bit a.act1 15)).map (fun a => (bits a.act1 13 10, bits a.act1 14 14)),
    host := es.foldl (fun m a => m ||| bits a.act1 9 6) 0,
    can := es.foldl (fun m a => m ||| bits a.act1 5 4) 0,
    ports := unionPorts s bank es }

/-- DEADLINE from STAMP and the combined limit in milliseconds (R317). -/
def deadlineOf (stamp : DWord) (d : Nat) : Nat :=
  if d = 0 then 0
  else
    let v := (ftAdd stamp (d * 1000000)).toNat / 1024 % 2 ^ 32
    if v = 0 then 1 else v

/-- Queue the SENT frames of a committed sentence on the ring (R23, R288, R500): one reference for each copy (R28). They enter their gates
once every consumer holds its reference (gatesFill). -/
def originateSent (c dest : Nat) (toNode express : Bool) (s : State) : State :=
  if !originates s then s
  else
    let f : Frame := { typ := 0, exp := express, dkind := !toNode, dest := dest, src := s.nodeId, cell := some c }
    let n := (originLinks s f).length
    originate f (iter (addRef c) n s)

/-- Hand a committed cell to the listener queues of its ports (R287, R313). `done` lists the ports already served by cut-through (R329),
`gone` those whose cut-through copy was dropped (cutForget). -/
def toListeners (c : Nat) (t : Targets) (done gone : List Nat) (s : State) : State :=
  let charge := chainCells (cellLen s c)
  qNote (t.ports.map (·.1)) s (t.ports.foldl (fun s p =>
    if done.contains p.1 then s
    else if (slice s p.1).txMode ≠ 1 then errInc s (aSw 0x210)
    else if gone.contains p.1 then s
    else queueAdmit p.1 { cell := c, cls := t.prio, charge := charge, tag := p.2.2 } p.2.1 s) s)

/-- Hand a committed cell to its consumers (R28): each takes its reference before the ring copies enter their gates and release theirs. -/
def toConsumers (c : Nat) (t : Targets) (done gone : List Nat) (s : State) : State :=
  let s := toListeners c t done gone s
  let s := if t.group ≠ 0 then originateSent c t.group false t.express s else s
  let s := match t.eng with
    | some (l, k) => engAdmit l k c s
    | none => s
  let s := (List.range 4).foldl (fun s m =>
    if t.host.testBit m then
      let (bad, s) := eccChain c s
      if bad then s
      else
        let (ok, s) := hmbOut m 0 (cellNode s c) (memBytes s (aCell c) 32 ++ cellText s c) (some c) s
        if ok then addRef c s else s
    else s) s
  let s := (List.range 2).foldl (fun s k => if t.can.testBit k then canSentAdmit k c s else s) s
  if t.group ≠ 0 ∧ originates s then gatesFill s else s

/-- End a commit: a sentence that no consumer holds returns its cells to FREE (R29). -/
def settle (c : Nat) (s : State) : State :=
  match cellSt s c with
  | .committed 0 => freeChain c s
  | _ => s

/-- Count an unmatched sentence of a local source, with event 18 when its NMEVT is 1 (R281). -/
def countUnmatched (src : Nat) (cap : Capture) (s : State) : State :=
  if cap.unmatched then
    let s := trafInc s (if src < 272 then aPort src 0x54 else aSw 0x158)
    if cap.nmevt then raise 18 s else s
  else s

/-- Increment HITS of the applied entries in the bank read (R278). -/
def countHits (cap : Capture) (s : State) : State :=
  cap.applied.foldl (fun s a => tblPut s cap.bank 0 (32 * a.idx + 0x1C) (tblWord s cap.bank 0 (32 * a.idx + 0x1C) + 1)) s

/-- Decide a captured route at commit (R274, R275, R278, R283): whether a passing entry drops the sentence whole, the combined
action of the contributing entries, and the state with decimation and counters done. -/
def routeDecide (cap : Capture) (stamp : DWord) (s : State) : Bool × Targets × State :=
  let s := (cap.applied.map (·.idx) ++ cap.bad).foldl (fun s i => parRead cap.bank 0 i s) s
  let s := countHits cap s
  let (es, s) := decimateAll stamp cap.applied s
  let drop := es.any (fun a => bit a.act0 29)
  let s := es.foldl (fun s a => parRead cap.bank 1 (bits a.act0 9 0) s) s
  (drop, combine s cap.bank es, if drop then trafInc s (aSw 0x208) else s)

end Sys2Proof.Machine
end

