-- ==== Sys2Proof/Machine/Stamp.lean ====
section
/-!
DEFINITION. From local counts to FTIME (R157–R162): stamping clocks 0–16 are the port clocks of PP0–PP16, clock 17 is the
CAN clock; the discrete lines use clock 0.
-/
namespace Sys2Proof.Machine

/-- The stamping clock of a port. -/
def portClock (n : Nat) : Nat := n / 16

/-- The number of the CAN paddock's stamping clock. -/
def canClock : Nat := 17

/-- The nominal period of a stamping clock in quarter nanoseconds (R159). -/
def stampPeriod (clk : Nat) : Nat := if clk = canClock then 50 else 20

/-- The present count of a stamping clock (R157). The 17 port paddocks run at one rate and leave reset together, so that one count stands
for all of them; by how many clocks a paddock's count was behind it at an edge is part of the edge's age (log entry 74). -/
def stampCount (s : State) (clk : Nat) : Word := if clk = canClock then s.time.canCount else s.time.ppCount

/-- The pairs held for a stamping clock. -/
def pairsOf (s : State) (clk : Nat) : PairSt := tabGet (fun _ => {}) s.time.pairs clk

/-- The oldest of a list, newest first. -/
def oldest : List (Nat × Pair) → Option (Nat × Pair)
  | [] => none
  | [p] => some p
  | _ :: r => oldest r

/-- The pair that translates a count (R160, R161): the latest pair of the latest held epoch that began at or before it, else
the oldest pair held. -/
def pairFor (h : PairSt) (c : Word) : Option Pair :=
  match h.epochs.find? (fun p => decide ((c - p.2.c).toNat < 2 ^ 31)) with
  | some p =>
    match h.latest with
    | some l => some (if l.1 = p.1 then l.2 else p.2)
    | none => some p.2
  | none => (oldest h.epochs).map (·.2)

/-- The translation of a count with a pair (R160), rounded to the nearest nanosecond, halves upward. -/
def translate (clk : Nat) (p : Pair) (c : Word) : DWord :=
  let d : Int := (c - p.c).toInt
  let num : Int := (p.t4 : Int) * 2 ^ 32 + d * (stampPeriod clk : Int) * (2 ^ 32 + p.rho)
  nsFt ((((num + 2 ^ 33) / 2 ^ 34) % (ftTurn : Int)).toNat)

/-- FTIME of a count of a stamping clock; none while the switch holds no pair of it (R162). -/
def ftOfCount (s : State) (clk : Nat) (c : Word) : Option DWord := (pairFor (pairsOf s clk) c).map (fun p => translate clk p c)

end Sys2Proof.Machine
end

