-- ==== Sys2Proof/Machine/Parser.lean ====
section
/-!
DEFINITION. The parser (R228–R254), cut-through starts (R327, R328), and the commit of a parsed sentence (R250).
Sources 0–271 are ports, 288–291 the host mailboxes (R253).
-/
namespace Sys2Proof.Machine

/-! ### Characters (R229) -/

def isOpening (v : Nat) : Bool := decide (v = 0x24) || decide (v = 0x21)
def isTagDelim (v : Nat) : Bool := decide (v = 0x5C)
def isAddrChar (v : Nat) : Bool := (decide (0x41 ≤ v) && decide (v ≤ 0x5A)) || (decide (0x30 ≤ v) && decide (v ≤ 0x39))
def isHexChar (v : Nat) : Bool := (decide (0x30 ≤ v) && decide (v ≤ 0x39)) || (decide (0x41 ≤ v) && decide (v ≤ 0x46))
def isDataChar (v : Nat) : Bool :=
  decide (0x20 ≤ v) && decide (v ≤ 0x7E) && !([0x21, 0x24, 0x2A, 0x2C, 0x5C, 0x5E, 0x7E].contains v)

/-- The value of a hex digit of class H. -/
def hexVal (v : Nat) : Nat := if v ≤ 0x39 then v - 0x30 else v - 0x37

/-! ### One character in a unit (R230, R231, R237, R238) -/

/-- What a character does to the unit in progress: a rejection class of R240, a truncation after which the character opens a
new unit, a new parser state (with the character stored or not), or the LF that ends a sentence. -/
inductive Adv where
  | reject (cls : Nat)
  | reopen
  | go (u : UnitSt) (store : Bool)
  | commit (u : UnitSt)
  deriving DecidableEq, Repr

/-- The unit is in its TAG stage (R240). -/
def inTagStage (u : UnitSt) : Bool :=
  match u.st with
  | .tag | .tck1 | .tck2 | .tend | .tnext => true
  | _ => false

/-- The address field is complete (R231). -/
def addrComplete (u : UnitSt) : Bool :=
  if u.addr.head? = some 0x50 then decide (4 ≤ u.addr.length) else decide (u.addr.length = 5)

/-- A character beyond the sentence limit is OVERLONG (R237). -/
def sentStep (u : UnitSt) (store : Bool) : Adv :=
  if u.maxlen < u.sentLen + 1 then .reject 3 else .go { u with sentLen := u.sentLen + 1 } store

/-- A character beyond the TAG limit is TAGLONG (R238). -/
def tagStep (u : UnitSt) : Adv :=
  if u.tagmax < u.tagLen + 1 then .reject 4 else .go { u with tagLen := u.tagLen + 1 } true

/-- The first character of a sentence part. -/
def openSentence (u : UnitSt) (v : Nat) : UnitSt :=
  { u with st := .addr, opening := v, addr := [], x := 0, ck := none, starAt := none, sentLen := 0, stored := 0 }

/-- The table of R230 for a unit in progress. DESIGN CHOICE: a '\' that closes a TAG block beyond TAGMAX is TAGLONG also when the checksum
of the block is wrong (R236, R238; log entry 80). -/
def advance (u : UnitSt) (v : Nat) : Adv :=
  let bad : Adv := .reject 5
  match u.st with
  | .tag =>
    if isOpening v then .reopen
    else if isTagDelim v then .reject 2
    else if isDataChar v || decide (v = 0x2C) then
      tagStep { u with tagChars := u.tagChars + 1, tagX := u.tagX ^^^ v }
    else if v = 0x2A ∧ 0 < u.tagChars then tagStep { u with st := .tck1 }
    else bad
  | .tck1 =>
    if isOpening v then .reopen
    else if isTagDelim v then .reject 2
    else if isHexChar v then tagStep { u with st := .tck2, digit := hexVal v }
    else bad
  | .tck2 =>
    if isOpening v then .reopen
    else if isTagDelim v then .reject 2
    else if isHexChar v then tagStep { u with st := .tend, ck := some (16 * u.digit + hexVal v) }
    else bad
  | .tend =>
    if isOpening v then .reopen
    else if isTagDelim v then
      (match tagStep { u with st := .tnext } with
        | .go u' st => if u.ck = some u.tagX then .go u' st else .reject 2
        | a => a)
    else bad
  | .tnext =>
    if isOpening v then sentStep (openSentence u v) true
    else if isTagDelim v then tagStep { u with st := .tag, tagChars := 0, tagX := 0, ck := none }
    else bad
  | .addr =>
    if isOpening v || isTagDelim v then .reopen
    else if isAddrChar v then
      let lim := if (u.addr ++ [v]).head? = some 0x50 then 16 else 5
      if lim < u.addr.length + 1 then bad else sentStep { u with addr := u.addr ++ [v], x := u.x ^^^ v } true
    else if !addrComplete u then bad
    else if v = 0x2C then sentStep { u with st := .body, x := u.x ^^^ v } true
    else if v = 0x2A then sentStep { u with st := .ck1, starAt := some u.stored } true
    else if v = 0x0D then sentStep { u with st := .lf } false
    else bad
  | .body =>
    if isOpening v || isTagDelim v then .reopen
    else if isDataChar v || decide (v = 0x2C) then sentStep { u with x := u.x ^^^ v } true
    else if v = 0x5E then sentStep { u with st := .esc1, x := u.x ^^^ v } true
    else if v = 0x2A then sentStep { u with st := .ck1, starAt := some u.stored } true
    else if v = 0x0D then sentStep { u with st := .lf } false
    else bad
  | .esc1 =>
    if isOpening v || isTagDelim v then .reopen
    else if isHexChar v then sentStep { u with st := .esc2, x := u.x ^^^ v } true
    else bad
  | .esc2 =>
    if isOpening v || isTagDelim v then .reopen
    else if isHexChar v then sentStep { u with st := .body, x := u.x ^^^ v } true
    else bad
  | .ck1 =>
    if isOpening v || isTagDelim v then .reopen
    else if isHexChar v then sentStep { u with st := .ck2, digit := hexVal v } true
    else bad
  | .ck2 =>
    if isOpening v || isTagDelim v then .reopen
    else if isHexChar v then sentStep { u with st := .cr, ck := some (16 * u.digit + hexVal v) } true
    else bad
  | .cr =>
    if isOpening v || isTagDelim v then .reopen
    else if v = 0x0D then sentStep { u with st := .lf } false
    else bad
  | .lf =>
    if isOpening v || isTagDelim v then .reopen
    else if v = 0x0A then
      (match sentStep u false with
        | .go u' _ => .commit u'
        | a => a)
    else bad

/-! ### Rejections (R240–R244) -/

/-- The counter of a rejection class, as an offset of the port record. -/
def rejCounter (cls : Nat) : Nat :=
  if cls ≤ 2 then 0xD4 else if cls ≤ 4 then 0xD8 else if cls ≤ 6 then 0xDC else if cls ≤ 8 then 0xE0
  else if cls = 9 then 0x4C else 0xE4

/-- Count a rejection of a port and set its flag; a mailbox has none of them (R253). The event of the flags is that of rejNote. -/
def rejCount (src cls : Nat) (s : State) : State :=
  if src < 272 then setBit (errInc s (aPort src (rejCounter cls))) (aPort src 0x44) cls else s

/-- The event of a port's rejection flags (R248): it is set once for a clock in which an enabled flag rose from `s0` to `s`. -/
def rejNote (n : Nat) (s0 s : State) : State :=
  if (List.range 11).any (fun b => !flag s0 (aPort n 0x44) b && flag s (aPort n 0x44) b && flag s (aPort n 0x48) b) then raise 17 s else s

/-- Give a rejected unit's cells back, or leave them to the fogged tails that still need them (R244, R30, R332). -/
def dropUnit (u : UnitSt) (s : State) : State :=
  let s := match cellSt s u.cell with
    | .filling _ 0 => freeChain u.cell s
    | .filling _ r => setCellSt s u.cell (.spent r)
    | _ => s
  qNote u.cutOn s (u.cutOn.foldl (fun s p => fog p false s) s)

/-- Reject the unit in progress in a class; `skip` says that SKIP follows. -/
def rejectUnit (src cls : Nat) (skip : Bool) (s : State) : State :=
  let p := parser s src
  let s := match p.cur with
    | some u => dropUnit u s
    | none => s
  rejCount src cls (setParser s src { p with cur := none, skip := skip })

/-- The classes after which SKIP follows: TAGCK and TAGLONG always, and BADCHAR, CHARERR and NOCELL in the TAG stage; an LF
taken as a value ends the unit, and HUNT follows instead (R240, R242). -/
def skipAfter (cls : Nat) (tagStage lf : Bool) : Bool :=
  !lf && (decide (cls = 2) || decide (cls = 4) || (tagStage && (decide (cls = 5) || decide (cls = 6) || decide (cls = 10))))

/-! ### Opening and storing -/

/-- PARSE of a source: MAXLEN, TAGMAX, CKPOL (R246, R253). -/
def parseParams (s : State) (src : Nat) : Nat × Nat × Nat :=
  if src < 272 then (fld s (aPort src 0x40) 7 0, fld s (aPort src 0x40) 15 8, fld s (aPort src 0x40) 17 16)
  else (192, 160, 1)

/-- HUNT with an opening character or a TAG delimiter (R230), in a clock that has released the cells `gone`. The flag says that the unit
was rejected at once. -/
def openUnit (gone : List Nat) (src v : Nat) (stamp : DWord) (s : State) : Bool × State :=
  let (ml, tm, ck) := parseParams s src
  let tag := isTagDelim v
  if tag && decide (tm = 0) then
    (true, rejCount src 4 (setParser s src { parser s src with cur := none, skip := true }))
  else
    match allocFirstBut gone (decide (src < 272)) src s with
    | (none, s) => (true, rejCount src 10 (setParser s src { parser s src with cur := none, skip := tag }))
    | (some c, s) =>
      let s := memPut (memPutNat s (aCell c) 8 stamp.toNat) (textAddr c 0 0) (BitVec.ofNat 8 v)
      let u : UnitSt := { st := .tag, cell := c, len := 1, stamp := stamp, maxlen := ml, tagmax := tm, ckpol := ck }
      let u := if tag then { u with tagLen := 1 } else { openSentence u v with sentLen := 1, stored := 1 }
      (false, setParser s src { parser s src with cur := some u, skip := false })

/-- Bits of a frame in half bits (R10): one start bit, DATA, the parity bit, the stop bits. -/
def frameHalfBits (fmt : Word) : Nat :=
  2 * (1 + bits fmt 3 0 + (if bits fmt 6 4 = 0 then 0 else 1)) + 2 + bits fmt 9 8

/-- ct in units of 1/512 port clock: (INT × 256 + FRAC) × 2 × bits (R327). -/
def ctUnits (baud fmt : Word) : Nat := (bits baud 27 8 * 256 + bits baud 7 0) * frameHalfBits fmt

/-- The conditions of R327 for a start of talker port n's unit on listener port p, which starts none while it waits to move to another
slice (R133). -/
def cutAllowed (s : State) (n p : Nat) (cap : Capture) : Bool :=
  let q := queue s p
  let es := cap.applied.filter (fun a => inPset s cap.bank (bits a.act0 9 0) p)
  decide (n < 272) && decide ((slice s n).swMode = 1) &&
  (match es with
    | a :: _ => bit a.act0 27
    | [] => false) &&
  !(cap.applied.any (fun a => bit a.act0 29)) && !(es.any (fun a => decide (bits a.act2 31 30 ≠ 0))) &&
  flag s (aPort p 0x60) 12 && !flag s (aPort p 0x0C) 6 && !flag s (aPort p 0x20) 28 &&
  decide ((slice s p).txMode = 1) && decide (heldOf q = 0) && decide ((slice s p).shifter = none) &&
  decide (ctUnits (slice s n).rxBaud (slice s n).rxFmt ≤ ctUnits (slice s p).txBaud (slice s p).txFmt)

/-- The cells of a unit's chain so far (R328). -/
def unitCells (u : UnitSt) : Nat := if u.pair.isSome then 3 else 1

/-- Start the unit of talker n on listener p (R328). -/
def cutStart (n p : Nat) (tagAdd : Bool) (u : UnitSt) (cap : Capture) (s : State) : State :=
  let pre := if tagAdd then tagBlock (fld s (aPort p 0x60) 14 13) u.stamp s.nodeId n else []
  let it : QItem := { cell := u.cell, cls := (combine s cap.bank cap.applied).prio, charge := unitCells u, tag := tagAdd, cut := true }
  let s := setQueue s p { queue s p with started := some { item := it, pre := pre, ct := some n } }
  dirBegin p (trafInc (addRef u.cell s) (aPort p 0x78))

/-- The moment of listener p to start the unit is there (R328): it starts, when the union names it and R327 lets it, or never will for this
unit. -/
def cutMoment (n : Nat) (cap : Capture) (p : Nat × Bool × Bool) (us : UnitSt × State) : UnitSt × State :=
  let (u, s) := us
  if u.cutTried.contains p.1 then (u, s)
  else
    let u := { u with cutTried := u.cutTried ++ [p.1] }
    if cutAllowed s n p.1 cap then ({ u with cutOn := u.cutOn ++ [p.1], cutAny := true }, cutStart n p.1 p.2.2 u cap s) else (u, s)

/-- The unit has changed from `u0` to `u`: the moment has come for each listener of the union whose threshold is reached, with the lookup's
result there, for the first time (R328). A port that the union gains later does not start. -/
def cutScan (n : Nat) (u0 u : UnitSt) (s : State) : UnitSt × State :=
  match u.cap with
  | none => (u, s)
  | some cap =>
    (unionPorts s cap.bank cap.applied).foldl (fun (us : UnitSt × State) p =>
      let th := fld us.2 (aPort p.1 0x6C) 7 0
      if th ≤ us.1.stored && (decide (u0.stored < th) || u0.cap.isNone) then cutMoment n cap p us else us) (u, s)

/-- A write has changed the threshold of port p from `old`: for a unit in progress of talker n the moment had come before, or comes now
(R328). -/
def cutRethresh (p old n : Nat) (s : State) : State :=
  match (parser s n).cur with
  | none => s
  | some u =>
    match u.cap with
    | none => s
    | some cap =>
      if 272 ≤ n ∨ (u.stored < old ∧ u.stored < fld s (aPort p 0x6C) 7 0) then s
      else
        let (u, s) :=
          if u.stored < old then
            ((unionPorts s cap.bank cap.applied).filter (fun e => decide (e.1 = p))).foldl (fun us e => cutMoment n cap e us) (u, s)
          else (u, s)
        let u := if u.cutTried.contains p then u else { u with cutTried := u.cutTried ++ [p] }
        setParser s n { parser s n with cur := some u }

/-- A write has changed the threshold of port p. -/
def cutRescan (p old : Nat) (s : State) : State := s.parsers.foldl (fun s e => cutRethresh p old e.1 s) s

/-- The route lookup starts when the fifth address character arrives, or at the end of a four-character address (R232). -/
def unitLookup (src : Nat) (u : UnitSt) (s : State) : UnitSt :=
  if u.cap.isNone && (decide (u.addr.length = 5) || (decide (u.addr.length = 4) && decide (u.st ≠ .addr))) then
    { u with cap := some (lookupLocal s src u.opening u.addr) }
  else u

/-- Store a character of the unit (R230, R257, R260): none when the pool refuses the pair. -/
def storeChar (src v : Nat) (u : UnitSt) (s : State) : Option UnitSt × State :=
  let (u?, s) :=
    if u.len = 96 then
      match allocPair (decide (src < 272)) u.cell s with
      | (none, s) => (none, s)
      | (some c, s) => (some { u with pair := some c }, (u.cutOn ++ u.cutGap).foldl (fun s p => rechargeCut p u.cell 3 s) s)
    else (some u, s)
  match u? with
  | none => (none, s)
  | some u =>
    let s := memPut s (textAddr u.cell (u.pair.getD 0) u.len) (BitVec.ofNat 8 v)
    (some { u with len := u.len + 1, stored := if inTagStage u then u.stored else u.stored + 1 }, s)

/-! ### Commit (R250) -/

/-- The checksum decision at LF (R235): a rejection class, or CKOK and CKABS. -/
def ckDecide (u : UnitSt) : Option Nat × Bool × Bool :=
  match u.ck, u.starAt with
  | some k, some _ => if k = u.x then (none, true, false) else if u.ckpol = 2 then (none, false, false) else (some 0, false, false)
  | _, _ => if u.ckpol = 0 then (some 1, false, false) else (none, false, true)

/-- Turn a FILLING chain into a COMMITTED one that keeps the references it has. -/
def markCommitted (c : Nat) (s : State) : State :=
  match cellSt s c with
  | .filling _ r => setCellSt s c (.committed r)
  | _ => s

/-- A commit completes the unit's cut-through sentences (R329): the rest of the text is theirs to send. They and the gap tails of the unit
are charged with the cells its chain keeps (R312). -/
def cutCommit (u : UnitSt) (cells : Nat) (s : State) : State :=
  let s := u.cutOn.foldl (fun s p =>
    let q := queue s p
    match q.started with
    | some t => setQueue s p { q with started := some { t with ct := none } }
    | none => s) s
  (u.cutOn ++ u.cutGap).foldl (fun s p => rechargeCut p u.cell cells s) s

/-- Commit a built chain of a local source by its captured route (R250, R277, R317, R281): the header but for STAMP (`own`: and for NEXT,
R470), decimation, hit counters, consumers. `dl` gives the DEADLINE from the combined limit; `done` lists the listeners that started it by
cut-through, save those of gap tails, and `gone` those whose copy was dropped since. -/
def commitRouted (c src : Nat) (own : Bool) (h : CellHdr) (cap : Capture) (dl : Nat → Nat) (done gone : List Nat) (s : State) : State :=
  let (drop, t, s) := routeDecide cap h.stamp s
  let s := writeHdrRest c own { h with unmatched := cap.unmatched, ridx := cap.ridx, prio := t.prio, deadline := dl t.deadline } s
  let s := markCommitted c s
  let s := countUnmatched src cap s
  settle c (if drop then s else toConsumers c t done gone s)

/-- Commit the unit of a source (R250–R253). -/
def commitUnit (src : Nat) (u : UnitSt) (ckok ckabs : Bool) (s : State) : State :=
  let s := match u.pair with
    | some n => if u.len ≤ 224 then setCellSt s (n + 1) .free else s
    | none => s
  let cells := chainCells u.len
  let s := cutCommit u cells s
  let (seq, s) := takeSeq src s
  let next := u.pair.getD 0
  let size := if cells = 1 then 96 else if cells = 2 then 224 else 352
  let s := ((List.range size).drop u.len).foldl (fun s k => memPut s (textAddr u.cell next k) 0) s
  let s := if src < 272 then trafInc s (aPort src 0xD0) else s
  let flags := b2n ckok + 2 * b2n ckabs + 4 * b2n (decide (u.tagLen ≠ 0)) + 8 * b2n u.cutAny + 16 * b2n u.gapFog
  let h : CellHdr := { stamp := u.stamp, src := src, node := s.nodeId, len := u.len, seq := seq, next := u.pair,
                       flags := flags, tagLen := u.tagLen }
  let cap := u.cap.getD { bank := s.tables.active, applied := [], unmatched := true, ridx := 0 }
  commitRouted u.cell src false h cap (deadlineOf u.stamp) u.cutOn u.cutGone s

/-! ### One character value (R241, step 3) -/

/-- What became of the units a character touched: whether one was rejected, and whether one was committed. -/
structure Parsed where
  rejected : Bool := false
  committed : Bool := false
  deriving DecidableEq, Repr

/-- The cells of a unit's chain so far. -/
def unitChain (u : UnitSt) : List Nat :=
  match u.pair with
  | some p => [u.cell, p, p + 1]
  | none => [u.cell]

/-- HUNT or SKIP takes a character. -/
def idleChar (gone : List Nat) (src v : Nat) (stamp : DWord) (s : State) : Parsed × State :=
  let p := parser s src
  if p.skip then ({}, if v = 0x0A then setParser s src { p with skip := false } else s)
  else if isOpening v || isTagDelim v then
    let (r, s) := openUnit gone src v stamp s
    ({ rejected := r }, s)
  else ({}, s)

/-- A unit in progress, `u0` before, has taken a character: the lookup, and the cut-through starts. -/
def unitGoesOn (src : Nat) (u0 u : UnitSt) (s : State) : State :=
  let u := unitLookup src u s
  let (u, s) := if src < 272 then cutScan src u0 u s else (u, s)
  setParser s src { parser s src with cur := some u }

/-- The parser of a source takes a character value; `stamp` is the FTIME of its edge, `gone` the cells already released in this clock. A
unit that the pool refuses is in its TAG stage as the refused character leaves it (R240). -/
def parseChar (gone : List Nat) (src v : Nat) (stamp : DWord) (s : State) : Parsed × State :=
  match (parser s src).cur with
  | none => idleChar gone src v stamp s
  | some u =>
    let rej := fun (u : UnitSt) (cls : Nat) (s : State) =>
      (({ rejected := true } : Parsed), rejectUnit src cls (skipAfter cls (inTagStage u) (decide (v = 0x0A))) s)
    match advance u v with
    | .reject cls => rej u cls s
    | .reopen => ({ rejected := true }, (idleChar (unitChain u) src v stamp (rejectUnit src 7 false s)).2)
    | .go u' store =>
      if store then
        match storeChar src v u' s with
        | (none, s) => rej u' 10 s
        | (some u', s) => ({}, unitGoesOn src u u' s)
      else ({}, unitGoesOn src u u' s)
    | .commit u' =>
      match ckDecide u' with
      | (some cls, _, _) => rej u cls s
      | (none, ok, ab) => ({ committed := true }, commitUnit src u' ok ab (setParser s src { parser s src with cur := none }))

/-! ### Items of a port (R241) -/

/-- The parser of port n takes an item whose edge translates to `stamp`. -/
def parseItem (n : Nat) (it : RxItem) (stamp : DWord) (s : State) : State :=
  let s0 := s
  let p := parser s n
  let gone := match p.cur with
    | some u => if it.lost then unitChain u else []
    | none => []
  let s :=
    if it.lost && it.wake then rejectUnit n 9 false s
    else if it.lost && p.cur.isSome then rejectUnit n 8 false s
    else s
  rejNote n s0
    (if it.fe || it.pe || it.brk then
      match (parser s n).cur with
      | some u => rejectUnit n 6 (skipAfter 6 (inTagStage u) false) s
      | none => s
     else (parseChar gone n it.value stamp s).2)

/-- The receive mode of a port left SENTENCE (R228). -/
def parserStop (n : Nat) (s : State) : State :=
  match (parser s n).cur with
  | some _ => rejNote n s (rejectUnit n 7 false s)
  | none => setParser s n { parser s n with skip := false }

end Sys2Proof.Machine
end

