-- ==== Sys2Proof/Machine/Tunnel.lean ====
section
/-!
DEFINITION. Tunnel payloads (R166, R190, R193, R497): the cell of a tunnel block, delivery on a node, and origin of TUN
frames.
-/
namespace Sys2Proof.Machine

/-- The owner number of a chain that the ring receiver builds (State.cells). -/
def ownerRing : Nat := 600

/-- The TUN payload (R497). -/
def tunPayload (kind tflags srcloc target : Nat) (stamp : DWord) (body : List Byte) : List Byte :=
  bytesLE 1 kind ++ bytesLE 1 tflags ++ bytesLE 2 (srcloc % 512) ++ bytesLE 2 target ++ bytesLE 2 0 ++
  bytesLE 8 stamp.toNat ++ body

/-- A raw serial block for a port (R193, R312): queued in class TUN_CTL.CLASS, or discarded and counted by the ring unit. The
fields of the cell that R193 does not give are those of log entry 10. -/
def tunToPort (ring : Bool) (node srcloc port : Nat) (stamp : DWord) (body : List Byte) (s : State) : State :=
  if port ≥ portCount s ∨ (slice s port).txMode ≠ 3 then errInc s (aRing 0x64)
  else
    match allocChain ownerRing body.length s with
    | (none, s) => s
    | (some (c, next), s) =>
      let cls := fld s (aPort port 0x9C) 2 0
      let h : CellHdr := { stamp := stamp, src := srcloc, node := node, prio := cls, len := body.length, next := next,
                           flags := 128 + 64 * b2n ring }
      let s := writeText c (next.getD 0) (chainCells body.length) body (writeHdr c h s)
      let s := markCommitted c s
      settle c (qNote [port] s (queueAdmit port { cell := c, cls := cls, charge := chainCells body.length, tun := true } false s))

/-- Deliver a tunnel payload on this node (R497). `node` is the node it comes from. -/
def tunDeliver (ring : Bool) (node kind srcloc target : Nat) (stamp : DWord) (body : List Byte) (s : State) : State :=
  if kind = 1 then tunToPort ring node srcloc target stamp body s
  else if kind = 2 then (hmbOut (target % 4) 2 node body none s).2
  else if kind = 3 then (emqPut (target % 16) 1 node body s).2
  else canRecPut (target % 2) false body s

/-- Send a tunnel payload to a node (R166, R190, R497): node 000h and the own node take it at once, and only a node that
originates every kind of frame sends it on the ring (R523). -/
def tunSend (express : Bool) (dest kind tflags srcloc target : Nat) (stamp : DWord) (body : List Byte) (s : State) : State :=
  if dest = 0 ∨ dest = s.nodeId then tunDeliver false s.nodeId kind srcloc target stamp body s
  else if originates s then
    originate { typ := 1, exp := express, dest := dest, src := s.nodeId,
                payload := tunPayload kind tflags srcloc target stamp body } s
  else s

end Sys2Proof.Machine
end

