-- ==== Sys2Proof/Machine/Raw.lean ====
section
/-!
DEFINITION. RAW and TUNNEL modes (R178–R193).
-/
namespace Sys2Proof.Machine

/-- The block in progress of a port. -/
def raw (s : State) (n : Nat) : RawSt := tabGet (fun _ => {}) s.raws n
def setRaw (s : State) (n : Nat) (v : RawSt) : State := { s with raws := tabSet (fun _ => {}) s.raws n v }

/-- RAW_HEAD.IDX and FILL (R181). -/
def rawIdx (s : State) (n : Nat) : Nat := fld s (aPort n 0x88) 18 16
def rawFill (s : State) (n : Nat) : Nat := fld s (aPort n 0x88) 12 0

/-- Set a flag of RAW_STAT with the paddock's summary event when it is enabled (R179, R182). -/
def rawFlag (n b : Nat) (s : State) : State :=
  let s := setBit s (aPort n 0x8C) b
  if flag s (aPort n 0x80) (18 + b) then raise (n / 16) s else s

/-- The address in memory of descriptor i of a port (R180, R183). -/
def rawDesc (s : State) (n i : Nat) : Nat := 0x01000000 + bits (getReg s (aPort n 0x84)) 21 7 * 128 + 16 * i

/-- The size of a block (R179, R190). -/
def rawSize (s : State) (n : Nat) (tunnel : Bool) : Nat :=
  let z := 16 * 2 ^ min (fld s (aPort n 0x80) 3 0) 8
  if tunnel then min z 256 else z

/-- Move to the next descriptor (R186). -/
def rawNext (n : Nat) (s : State) : State :=
  let i := (rawIdx s n + 1) % (fld s (aPort n 0x80) 6 4 + 1)
  setReg s (aPort n 0x88) (wd (i * 65536))

/-- Close the block in progress (R186, R190): its descriptor is written back, or its TUN frame leaves. Characters dropped since its last
one are marked in the next block (R188). -/
def rawClose (n : Nat) (tunnel tmo fin : Bool) (s : State) : State :=
  let r := raw s n
  let fill := rawFill s n
  let left : RawSt := { dropped := r.dropped }
  if fill = 0 then s
  else if tunnel then
    let d := getReg s (aPort n 0x98)
    let s := trafInc (setReg s (aPort n 0x88) 0) (aPort n 0x90)
    let s := setRaw s n left
    tunSend (flag s (aPort n 0x9C) 3) (bits d 27 16) 1 (b2n r.lost + 2 * b2n r.err + 4 * b2n tmo) n (bits d 8 0) r.stamp r.buf s
  else
    let a := rawDesc s n (rawIdx s n)
    let w := b2n tmo * 2 ^ 30 + b2n r.lost * 2 ^ 29 + b2n r.err * 2 ^ 28 + b2n fin * 2 ^ 27 + fill
    let s := memPutNat (memPutNat s (a + 4) 4 w) (a + 8) 8 r.stamp.toNat
    rawNext n (trafInc (rawFlag n 0 (setRaw s n left)) (aPort n 0x90))

/-- A descriptor that the device must reject (R184). -/
def rawBad (s : State) (n a : Nat) : Bool :=
  let w0 := memNat s a 4
  let w1 := memNat s (a + 4) 4
  decide (w0 / 2 ^ 22 ≠ 0) || decide (w0 % 16 ≠ 0) || decide (w1 / 2 ^ 13 % 2 ^ 13 ≠ 0) ||
  decide (w0 + rawSize s n false > 0x400000)

/-- Find the descriptor for a new block (R184, R188): bad ones are written back and skipped. The flag says that descriptor IDX
is owned by the device and good. DESIGN CHOICE: the write-back changes BAD, LEN and OWN, the fields R184 names, and keeps TMO, LOST, ERR,
END, the reserved bits and STAMP (log entry 80); one with an uncorrectable word is left as it is and takes no block (R715). -/
def rawTake (n : Nat) : Nat → State → Bool × State
  | 0, s => (false, s)
  | k + 1, s =>
    let a := rawDesc s n (rawIdx s n)
    let (bad, s) := eccRead a 8 s
    if bad ∨ memNat s (a + 4) 4 < 2 ^ 31 then (false, s)
    else if rawBad s n a then
      let w := memNat s (a + 4) 4
      let s := memPutNat s (a + 4) 4 (w % 2 ^ 26 / 2 ^ 13 * 2 ^ 13 + w / 2 ^ 27 % 16 * 2 ^ 27 + 2 ^ 26)
      rawTake n k (rawNext n (rawFlag n 2 s))
    else (true, s)

/-- The bytes of an item (R185). -/
def rawBytes (fmt : Word) (it : RxItem) : List Byte :=
  let v := if it.brk then 0 else it.value
  if bits fmt 3 0 = 9 then bytesLE 2 (v % 512) else bytesLE 1 v

/-- Place the bytes of an item into the block in progress, and close it when it is full (R185). DESIGN CHOICE: the items of a port are one
or two bytes by the receive format in force when the switch places them; when that changes within a block whose last free byte is one, the
second byte of an item lies behind the block, and LEN counts it (log entry 72). -/
def rawPlace (n : Nat) (tunnel : Bool) (it : RxItem) (stamp : DWord) (s : State) : State :=
  let fill := rawFill s n
  let bs := rawBytes (slice s n).rxFmt it
  let r0 := raw s n
  let r := if fill = 0 then
      { r0 with size := rawSize s n tunnel, stamp := stamp, lost := r0.dropped && !tunnel, err := false, dropped := r0.dropped && tunnel,
                base := memNat s (rawDesc s n (rawIdx s n)) 4 % 2 ^ 22, buf := [] }
    else { r0 with lost := r0.lost || (r0.dropped && !tunnel), dropped := r0.dropped && tunnel }
  let r := { r with lost := r.lost || it.lost, err := r.err || it.fe || it.pe || it.brk || it.noise,
                    buf := if tunnel then r.buf ++ bs else [] }
  let s := if tunnel then s else memWrite s (0x01000000 + r.base + fill) bs
  let s := setFld (setRaw s n r) (aPort n 0x88) 12 0 (fill + bs.length)
  if r.size ≤ fill + bs.length then rawClose n tunnel false false s else s

/-- A character that finds no block is dropped (R188). -/
def rawDrop (n : Nat) (s : State) : State := setRaw (rawFlag n 1 (errInc s (aPort n 0x94))) n { raw s n with dropped := true }

/-- The switch decides where a character of a RAW or TUNNEL port goes (R188, R190). A character whose descriptor has an uncorrectable word
is discarded (R715). -/
def rawChar (n : Nat) (tunnel : Bool) (it : RxItem) (stamp : DWord) (s : State) : State :=
  if tunnel then rawPlace n true it stamp s
  else if rawFill s n = 0 then
    let (ok, s) := rawTake n 8 s
    if ok then rawPlace n false it stamp s else rawDrop n s
  else
    let (bad, s) := eccRead (rawDesc s n (rawIdx s n)) 8 s
    if bad ∨ memNat s (rawDesc s n (rawIdx s n) + 4) 4 < 2 ^ 31 then rawDrop n s else rawPlace n false it stamp s

/-- The switch handles a port's items in a new receive mode (R90, R186, R189, R228). DESIGN CHOICE: a tunnel block in progress leaves as
one TUN frame, as R186 closes a raw block (log entry 72). -/
def swModeSet (n m : Nat) (s : State) : State :=
  let old := (slice s n).swMode
  if old = m then s
  else
    let s := if old = 1 then parserStop n s
             else if old = 2 ∨ old = 3 then rawClose n (decide (old = 3)) false true s
             else s
    let s := if m = 2 ∨ m = 3 then setRaw (setReg s (aPort n 0x88) 0) n { dropped := (raw s n).dropped } else s
    let s := if m = 1 then setParser s n { parser s n with cur := none, skip := false } else s
    setSlice s n { slice s n with swMode := m }

/-- The mode changes at the head of a port's gate take effect (R90). -/
def swModes (n : Nat) : Nat → State → State
  | 0, s => s
  | k + 1, s =>
    match (slice s n).rxq with
    | { mode := some m, .. } :: r => swModes n k (swModeSet n m (setSlice s n { slice s n with rxq := r }))
    | _ => s

/-- The switch has taken the item at the head of a port's gate: `f` is what it does with it. -/
def takeItem (n : Nat) (f : State → State) (s : State) : State :=
  let v := slice s n
  swModes n v.rxq.length (f (setSlice s n { v with rxq := v.rxq.drop 1 }))

/-- PARSER_ITEM: the parser takes the next item of a SENTENCE-mode port whose clock holds a pair (R162, R228, R241). -/
def execParserItem (n : Nat) (s : State) : Host.Outcome State Fault Refusal :=
  match (slice s n).rxq with
  | it :: _ =>
    if (slice s n).swMode = 1 ∧ awake s then
      match ftOfCount s (portClock n) it.edge with
      | some t => .next (takeItem n (parseItem n it t) s)
      | none => .next s
    else .next s
  | [] => .next s

/-- RAW_ITEM: the switch takes the next item of a port in RAW or TUNNEL mode: a character whose clock holds a pair (R162, R188), or the
marker of the receive timeout (R187). -/
def execRawItem (n : Nat) (s : State) : Host.Outcome State Fault Refusal :=
  let tunnel := decide ((slice s n).swMode = 3)
  match (slice s n).rxq with
  | it :: _ =>
    if ((slice s n).swMode = 2 ∨ tunnel) ∧ awake s then
      if it.marker then .next (takeItem n (rawClose n tunnel true false) s)
      else
        match ftOfCount s (portClock n) it.edge with
        | some t => .next (takeItem n (rawChar n tunnel it t) s)
        | none => .next s
    else .next s
  | [] => .next s

/-- RAW_TIMEOUT_EXPIRY: the receive timeout of a port expires (R187). The marker closes a block that is not empty at once when
no character waits in front of it, and travels behind the characters that do. -/
def execRawTimeoutExpiry (n : Nat) (s : State) : Host.Outcome State Fault Refusal :=
  let v := slice s n
  if awake s && v.tmoRun && decide (fld s (aPort n 0x80) 15 8 ≠ 0) && (decide (v.rxMode = 2) || decide (v.rxMode = 3)) then
    let s := setSlice s n { v with tmoRun := false }
    .next (if v.rxq.isEmpty then rawClose n (decide (v.rxMode = 3)) true false s
           else setSlice s n { v with tmoRun := false, rxq := v.rxq ++ [{ marker := true }] })
  else .next s

end Sys2Proof.Machine
end

