-- ==== Sys2Proof/Machine/Tile.lean ====
section
/-!
DEFINITION. Line tiles (R194–R227): tile k = 0–3, line port p = 0–15, which is port 256 + p.
-/
namespace Sys2Proof.Machine

def tile (s : State) (k : Nat) : TileSt := tabGet (fun _ => {}) s.tiles k
def setTile (s : State) (k : Nat) (v : TileSt) : State := { s with tiles := tabSet (fun _ => {}) s.tiles k v }
def line (s : State) (p : Nat) : LineSt := tabGet (fun _ => {}) s.lines p
def setLine (s : State) (p : Nat) (v : LineSt) : State := { s with lines := tabSet (fun _ => {}) s.lines p v }

/-- The tile circuits exist (R3, R194). -/
def hasTile (s : State) (k : Nat) : Bool := s.m4 && decide (k < 4)
def hasLine (s : State) (p : Nat) : Bool := s.m4 && decide (p < 16)

/-- The tile circuits exist and no reset holds their registers (R226). -/
def tileOn (s : State) (k : Nat) : Bool := hasTile s k && decide (s.power.phase ≠ .off)
def lineOn (s : State) (p : Nat) : Bool := hasLine s p && decide (s.power.phase ≠ .off)

/-- Set a sticky flag of LT[k].STAT with event 104 + k (R226). -/
def tileFlag (k b : Nat) (s : State) : State := stickyEn (aTile k 0x04) b (aTile k 0x08) b (104 + k) s

/-- Set sticky flags of LINE[p].STAT in one clock: event 104 + k is set once, when an enabled one of them changes from 0 to 1 (R226). -/
def lineFlags (p : Nat) (bs : List Nat) (s : State) : State :=
  let fresh := bs.any (fun b => !flag s (aLine p 0x04) b && flag s (aLine p 0x08) b)
  let s := bs.foldl (fun s b => setBit s (aLine p 0x04) b) s
  if fresh then raise (104 + p / 4) s else s

/-- Set a sticky flag of LINE[p].STAT. -/
def lineFlag (p b : Nat) (s : State) : State := lineFlags p [b] s

/-- A port of the tile can wake the device: the tile's converter stays powered in Stabled (R200). -/
def tileKept (s : State) (k : Nat) : Bool :=
  flag s (aTile k 0x00) 0 && (List.range 4).any (fun j =>
    flag s (aPort (256 + 4 * k + j) 0x0C) 7 && decide (fld s (aPort (256 + 4 * k + j) 0x00) 1 0 ≠ 0))

/-- The converter of tile k may run (R196, R200): PWR_EN is 1, and in Stabled the tile is kept. -/
def tileMay (s : State) (k : Nat) : Bool :=
  flag s (aTile k 0x00) 0 && (awake s || (decide (s.power.phase = .stabled) && tileKept s k))

/-- The driver of line port p is enabled (R204, R215, R671, R200). -/
def drvOn (s : State) (p : Nat) : Bool :=
  let n := 256 + p
  let t := tile s (p / 4)
  flag s (aTile (p / 4) 0x04) 0 && t.ready && !t.hot && decide ((slice s n).txMode ≠ 0) && !flag s (aLine p 0x04) 4 &&
  awake s && !inFault s &&
  (if flag s (aPort n 0x0C) 6 then (slice s n).shifter.isSome
   else if flag s (aPort n 0x10) 8 then flag s (aPort n 0x18) 6
   else true)

/-- The receiver of a line port passes the line to its slice (R196, R213). -/
def linePasses (s : State) (p : Nat) : Bool :=
  (tile s (p / 4)).ready && !flag s (aLine p 0x04) 1 && !flag s (aLine p 0x04) 2

/-- Stop the outputs of a converter: PGOOD falls and the receivers present stop level (R196, R198, R199). -/
def tileDown (k : Nat) (s : State) : State :=
  setTile (clrBit s (aTile k 0x04) 0) k { tile s k with run := false, ready := false }

/-- PGOOD of a tile falls while PWR_EN is 1 and VLT is good (R199); event 108 is the caller's. -/
def tileFall (k : Nat) (s : State) : State := tileFlag k 1 (errInc (tileDown k s) (aTile k 0x0C))

/-- PGOOD falls while PWR_EN is 1 and VLT is good (R199, R226). -/
def tileFault (k : Nat) (s : State) : State := raise 108 (tileFall k s)

/-- The converter of tile k stops because the device enters Stabled and the tile is not kept (R200): a fall of PGOOD like any other (R199).
-/
def tileStops (s : State) (k : Nat) : Bool := !tileKept s k && flag s (aTile k 0x00) 0 && flag s (aTile k 0x04) 0

/-- The device enters Stabled: the converters that it does not keep stop in one clock, in which event 108 is set once (R200, R226). -/
def tilesSleep (s : State) : State :=
  let ks := (List.range 4).filter (tileStops s)
  let s := (List.range 4).foldl (fun s k =>
    if ks.contains k then tileFall k s else if tileKept s k then s else tileDown k s) s
  if ks = [] then s else raise 108 s

/-- TILE_PWR_EN: a write of LT[k].CTL (R196, R220). DESIGN CHOICE: a write that keeps PWR_EN at 1 during the 100 ms of R199 starts the
converter at once (log entry 79). -/
def execTilePwrEn (k : Nat) (v : Word) (s : State) : Host.Outcome State Fault Refusal :=
  if !hasTile s k ∨ ¬ awake s then .next s
  else
    let s := setReg s (aTile k 0x00) (v &&& 1)
    .next (if bit v 0 then
        (if flag s (aTile k 0x04) 0 then s else setTile s k { tile s k with run := !flag s (aTile k 0x04) 4 })
      else tileDown k s)

/-- PGOOD_RISE: the converter's outputs are good and its receivers reach the slices (R196). DESIGN CHOICE: one command stands for the rise
and for the moment 10 µs later (log entry 77). -/
def execPgoodRise (k : Nat) (s : State) : Host.Outcome State Fault Refusal :=
  if hasTile s k && tileMay s k && (tile s k).run && !flag s (aTile k 0x04) 0 then
    .next (setTile (setBit s (aTile k 0x04) 0) k { tile s k with ready := true })
  else .next s

/-- PWR_FAULT: PGOOD falls while PWR_EN is 1 and VLT is good (R199, R226). -/
def execPwrFault (k : Nat) (s : State) : Host.Outcome State Fault Refusal :=
  if hasTile s k && flag s (aTile k 0x00) 0 && !flag s (aTile k 0x04) 4 && flag s (aTile k 0x04) 0 then
    .next (tileFault k s)
  else .next s

/-- CONVERTER_RETRY: 100 ms after a power fault the converter runs again while PWR_EN stays 1 (R199), in Stabled only for a tile that is
kept (R200). -/
def execConverterRetry (k : Nat) (s : State) : Host.Outcome State Fault Refusal :=
  if hasTile s k && tileMay s k && !flag s (aTile k 0x04) 4 && !flag s (aTile k 0x04) 0 then
    .next (setTile s k { tile s k with run := true })
  else .next s

/-- VLT_UV_CHANGE: VLT falls below 4.55 V (`uv`) or rises above 4.65 V (R198, R226). The converters that may run restart (R198, R200). While
a reset is in force the level is kept for its end. -/
def execVltUvChange (uv : Bool) (s : State) : Host.Outcome State Fault Refusal :=
  if s.power.vltOk = !uv then .next s
  else
    let s := { s with power := { s.power with vltOk := !uv } }
    if !s.m4 then .next s
    else if uv then
      let s := (List.range 4).foldl (fun s k => setBit (tileDown k s) (aTile k 0x04) 4) s
      .next (if s.power.phase = .off then s else raise 108 s)
    else .next ((List.range 4).foldl (fun s k => setTile (clrBit s (aTile k 0x04) 4) k { tile s k with run := tileMay s k }) s)

/-- RX_OPEN_DETECT: with bias on, VD has stayed in the open band for OPEN_T × 10 ms (R211). -/
def execRxOpenDetect (p : Nat) (s : State) : Host.Outcome State Fault Refusal :=
  if lineOn s p && (tile s (p / 4)).ready && flag s (aLine p 0x00) 8 && !flag s (aLine p 0x04) 1 then
    .next (lineFlag p 8 (errInc (setBit s (aLine p 0x04) 1) (aLine p 0x24)))
  else .next s

/-- RX_ZERO_DETECT: |VD| has stayed below 100 mV for 1 ms (R212). -/
def execRxZeroDetect (p : Nat) (s : State) : Host.Outcome State Fault Refusal :=
  if lineOn s p && (tile s (p / 4)).ready && !flag s (aLine p 0x04) 2 then
    .next (lineFlag p 9 (errInc (setBit s (aLine p 0x04) 2) (aLine p 0x28)))
  else .next s

/-- RX_LIVE_CLEAR: a line sample of `vd` mV ends the open or the no-differential condition (R211, R212). -/
def execRxLiveClear (p : Nat) (vd : Int) (s : State) : Host.Outcome State Fault Refusal :=
  if hasLine s p && (tile s (p / 4)).ready then
    let s := if vd < -650 ∨ -250 < vd then clrBit s (aLine p 0x04) 1 else s
    .next (if 100 ≤ vd.natAbs then clrBit s (aLine p 0x04) 2 else s)
  else .next s

/-- TX_SHORT: the driver has been in current limit for 10 µs and is disabled (R214). -/
def execTxShort (p : Nat) (s : State) : Host.Outcome State Fault Refusal :=
  if hasLine s p && drvOn s p then
    .next (lineFlag p 13 (errInc (setBit s (aLine p 0x04) 4) (aLine p 0x2C)))
  else .next s

/-- TX_SHORT_RETRY: the first start bit 100 ms or more after the disable enables the driver again (R214). -/
def execTxShortRetry (p : Nat) (s : State) : Host.Outcome State Fault Refusal :=
  if hasLine s p then .next (clrBit s (aLine p 0x04) 4) else .next s

/-- TILE_OVERTEMP: the tile exceeds 140 °C (R215). -/
def execTileOvertemp (k : Nat) (s : State) : Host.Outcome State Fault Refusal :=
  if tileOn s k then .next (tileFlag k 2 (setTile s k { tile s k with hot := true })) else .next s

/-- TILE_TEMP_RECOVER: the temperature falls below 125 °C (R215). -/
def execTileTempRecover (k : Nat) (s : State) : Host.Outcome State Fault Refusal :=
  if hasTile s k then .next (setTile s k { tile s k with hot := false }) else .next s

/-- REST_DETECT: a line port has seen 2 ct without a transition (R216, R217). `space` says that the whole rest was at space
level, `trans` that at least 8 transitions came since the previous rest or PGOOD, `written` that a software write to LINE[p].CTL falls in
the clock of the command: it resets the count, and a toggle is discarded (R217, R218). -/
def execRestDetect (p : Nat) (space trans : Bool) (s : State) (written : Bool := false) : Host.Outcome State Fault Refusal :=
  if hasLine s p && awake s && (tile s (p / 4)).ready && flag s (aLine p 0x00) 12 then
    let v := line s p
    if !space || written then .next (setLine s p { v with cand := 0 })
    else if !trans then .next s
    else if v.cand + 1 < 4 then .next (setLine s p { v with cand := v.cand + 1 })
    else
      let s := putBit s (aLine p 0x00) 10 (!flag s (aLine p 0x00) 10)
      .next (lineFlag p 12 (errInc (setLine s p { v with cand := 0 }) (aLine p 0x30)))
  else .next s

/-- The health measurement of a received character (R208, R209): the smallest |VD| in mV and the signed common mode in mV. -/
def lineReceipt (p amp : Nat) (cm : Int) (s : State) : State :=
  if !(tile s (p / 4)).ready then s
  else
    let a := min amp 15000
    let s := setFld s (aLine p 0x10) 15 0 a
    let s := if a < fld s (aLine p 0x10) 31 16 then setFld s (aLine p 0x10) 31 16 a else s
    let s := setFld s (aLine p 0x14) 15 0 (cm % 65536).toNat
    let s := if fld s (aLine p 0x14) 31 16 < cm.natAbs then setFld s (aLine p 0x14) 31 16 (min cm.natAbs 65535) else s
    let low := decide (a < fld s (aLine p 0x0C) 13 0)
    let s := if low then errInc s (aLine p 0x20) else s
    lineFlags p ((if low then [10] else []) ++ (if 12000 < cm.natAbs then [11] else [])) s

/-- The end of a character sent by a line port (R210, R214): the smallest stop-bit driver current in 0.1 mA. -/
def lineSent (p load : Nat) (s : State) : State :=
  let s := if flag s (aLine p 0x04) 4 || !flag s (aTile (p / 4) 0x04) 0 then errInc s (aLine p 0x34) else s
  if !drvOn s p then s
  else
    let s := setReg s (aLine p 0x18) (wd (min load 4095))
    let th := fld s (aLine p 0x0C) 31 24
    let v := line s p
    if th ≠ 0 ∧ load < th then
      let s := setLine s p { v with low := min 17 (v.low + 1) }
      if v.low + 1 = 16 then lineFlag p 14 (setBit s (aLine p 0x04) 5) else s
    else setLine (clrBit s (aLine p 0x04) 5) p { v with low := 0 }

end Sys2Proof.Machine
end

