-- ==== Sys2Proof/Machine/Slice.lean ====
section
/-!
DEFINITION. Port slices (R77–R136): reception of characters, the transmit side, modes, rate changes, single-wire
collisions, the direction output, rate measurement, and moves to a spare slice.
-/
namespace Sys2Proof.Machine

/-- Set a sticky bit of PORT[n].STATUS; while it is enabled, the summary event of the paddock is set (R84). -/
def portFlag (n b : Nat) (s : State) : State :=
  let s := setBit s (aPort n 0x18) b
  if flag s (aPort n 0x1C) b then raise (n / 16) s else s

/-- The slice of port n works: the port exists, the clocks run, and the node is not in FAULT (R671, R675). -/
def portRuns (s : State) (n : Nat) : Bool := 
  decide (n < portCount s) && awake s && !inFault s && decide (fld s (aPort n 0x20) 8 0 ≠ 0x1FF)

/-- Read a flag of a slice's own state. -/
def idle (s : State) (n : Nat) : Bool := flag s (aPort n 0x18) 2

/-! ### Modes (R90) -/

/-- The receive mode changes (R90, R110). The switch follows at once when no item waits, and else behind the items that do (log entry
11). -/
def setRxMode (n m : Nat) (s : State) : State :=
  let v := slice s n
  if v.rxMode = m then s
  else
    let w := { v with rxMode := m, rxq := if v.rxq.isEmpty then [] else v.rxq ++ [{ mode := some m }] }
    let s := if m = 0 then setSlice s n { w with idleRun := false, tmoRun := false }
             else if v.rxMode = 0 then setSlice (clrBit s (aPort n 0x18) 2) n { w with idleRun := true, tmoRun := true }
             else setSlice s n w
    if v.rxq.isEmpty then swModeSet n m s else s

/-- The transmit mode changes (R90, R316): a queue that leaves SENTENCE or TUNNEL is flushed; OFF releases the direction
output (R89). -/
def setTxMode (n m : Nat) (s : State) : State :=
  let old := (slice s n).txMode
  if old = m then s
  else
    let s := if old = 1 ∨ old = 3 then flushQueue n s else s
    let s := if m = 0 then clrBit s (aPort n 0x18) 6 else s
    let v := slice s n
    setSlice s n { v with txMode := m, leadWait := false, backoff := none,
                          trailRun := decide (m ≠ 0) && flag s (aPort n 0x18) 6 }

/-- A character boundary of a direction applies PORT[n].MODE (R90). -/
def rxBoundary (n : Nat) (s : State) : State := setRxMode n (fld s (aPort n 0x00) 1 0) s
def txBoundary (n : Nat) (s : State) : State := setTxMode n (fld s (aPort n 0x00) 1 0) s

/-- PORT_MODE_WRITE: a write of PORT[n].MODE (R78, R90). In FAULT it is stored and takes no effect (R671); a port without a slice
refuses a mode other than OFF (R726). -/
def execPortModeWrite (n : Nat) (v : Word) (s : State) : Host.Outcome State Fault Refusal :=
  if n ≥ portCount s ∨ ¬ awake s then .next s
  else if fld s (aPort n 0x20) 8 0 = 0x1FF ∧ bits v 1 0 ≠ 0 then .next (portFlag n 18 s)
  else
    let s := setReg s (aPort n 0x00) (v &&& 0x13)
    if inFault s then .next s
    else
      let s := if (slice s n).rx.isNone then rxBoundary n s else s
      .next (if (slice s n).shifter.isNone then txBoundary n s else s)

/-! ### Rates and formats (R114–R117) -/

/-- A write of BAUD or FMT becomes pending in both directions (R117). -/
def ratePend (n : Nat) (s : State) : State := setBit (setBit s (aPort n 0x18) 4) (aPort n 0x18) 5

/-- Pending values apply to receive at a confirmed start edge, to transmit at a start bit, unless HOLD is 1 (R114, R116). -/
def rxRate (n : Nat) (s : State) : State :=
  if flag s (aPort n 0x18) 4 && !flag s (aPort n 0x00) 4 then
    setSlice (clrBit s (aPort n 0x18) 4) n
      { slice s n with rxBaud := getReg s (aPort n 0x04), rxFmt := getReg s (aPort n 0x08) }
  else s
def txRate (n : Nat) (s : State) : State :=
  if flag s (aPort n 0x18) 5 && !flag s (aPort n 0x00) 4 then
    setSlice (clrBit s (aPort n 0x18) 5) n
      { slice s n with txBaud := getReg s (aPort n 0x04), txFmt := getReg s (aPort n 0x08) }
  else s

/-! ### Reception (R93–R113) -/

/-- A rejected start candidate (R95). -/
def falseStart (n : Nat) (s : State) : State := portFlag n 15 (errInc s (aPort n 0xB8))

/-- A slice's start detector is armed for edges of a pin (`tx`: the transmit pin, which a single-wire port receives on, R120): it
receives, no character is in reception, the line is not waited for (R106), and its own characters are not suppressed: on a single-wire port
with ECHO = 0, from a start bit sent to 1 bt after the last stop bit (R122), of which `echo` covers the time with an empty shifter. -/
def rxArmed (s : State) (n : Nat) (tx echo : Bool) : Bool :=
  portRuns s n && decide (flag s (aPort n 0x0C) 6 = tx) && decide ((slice s n).rxMode ≠ 0) && (slice s n).rx.isNone && !flag s (aPort n 0x18) 3 &&
  !(flag s (aPort n 0x0C) 6 && !flag s (aPort n 0x14) 4 && (echo || (slice s n).shifter.isSome)) && (decide (n < 256) || linePasses s (n - 256)) && vioOk s n

/-- The edge clock of an edge whose first low sample the slice took `ago` port clocks before the paddock's present count (R93, R157): the
synchroniser's 2 port clocks are removed (R94), and on a line port the 9 of its tile too (R206). -/
def edgeClock (s : State) (n : Nat) (ago : Word) : Word := s.time.ppCount - ago - 2 - (if 256 ≤ n then 9 else 0)

/-- START_EDGE: a start candidate opens (R93–R96, R110–R114). `tx` names the pin of the edge (rxArmed), `ago` its age (edgeClock); `low` is
the number of consecutive low samples from its first on, `v` the three samples of the start bit, `echo` that the edge falls in the window
of R122, `idleDue` and `tmoDue` that the idle timer or the receive timeout expired in the clock of the edge (R112). -/
def execStartEdge (n : Nat) (ago : Word) (low : Nat) (v : BitVec 3) (echo idleDue tmoDue : Bool) (s : State) (tx : Bool := false) :
    Host.Outcome State Fault Refusal :=
  if !rxArmed s n tx echo ∨ low = 0 then .next s
  else if low < fld s (aPort n 0x0C) 4 2 + 1 then
    let s := falseStart n s
    let s := if idleDue && (slice s n).idleRun then
        setSlice (setBit s (aPort n 0x18) 2) n { slice s n with idleRun := false } else s
    if tmoDue then execRawTimeoutExpiry n s else .next s
  else
    let s := rxRate n (clrBit s (aPort n 0x18) 2)
    let ones := b2n (v.getLsbD 0) + b2n (v.getLsbD 1) + b2n (v.getLsbD 2)
    if 2 ≤ ones then
      let s := falseStart n s
      let wait := !v.getLsbD 2
      let s := putBit s (aPort n 0x18) 3 wait
      .next (setSlice s n { slice s n with idleRun := !wait, tmoRun := !wait })
    else
      let s := setBit s (aPort n 0x18) 0
      .next (setSlice s n { slice s n with rx := some (edgeClock s n ago, decide (ones ≠ 0)), idleRun := false, tmoRun := false })

/-- The majority of three samples, and whether they were split (R98). -/
def maj (v : BitVec 3) : Bool := decide (2 ≤ b2n (v.getLsbD 0) + b2n (v.getLsbD 1) + b2n (v.getLsbD 2))
def split (v : BitVec 3) : Bool := decide (v ≠ 0#3) && decide (v ≠ 7#3)

/-- The value of data bits, least significant first. -/
def bitsValue : List Bool → Nat
  | [] => 0
  | b :: r => b2n b + 2 * bitsValue r

/-- The parity bit disagrees with PARITY (R100). -/
def parityBad (par : Nat) (data : List Bool) (p : Bool) : Bool :=
  let odd := decide ((data.filter id).length % 2 = 1)
  if par = 1 then odd ≠ p else if par = 2 then odd = p else if par = 3 then !p else if par = 4 then p else false

/-- The item of a character (R103): the samples of the data bits, the parity bit and the first stop bit. -/
def rxForm (fmt : Word) (e : Word) (noisy : Bool) (votes : List (BitVec 3)) : RxItem :=
  let d := bits fmt 3 0
  let par := bits fmt 6 4
  let votes := votes ++ List.replicate (d + 2 - votes.length) 7#3
  let used := votes.take (d + (if par = 0 then 0 else 1) + 1)
  let lv := used.map maj
  let data := lv.take d
  let stop := lv.getD (used.length - 1) true
  let brk := !lv.any id
  { value := if brk then 0 else bitsValue data, edge := e, fe := !stop && !brk,
    pe := !brk && parityBad par data (lv.getD d true), brk := brk, noise := noisy || used.any split }

/-- The item enters the character FIFO gate, which holds four items of a slice (R103, R104); the first that carries LOST after a wake is
marked (R241). DESIGN CHOICE: the markers behind the items, of the receive timeout and of a mode, are none of the four (log entry 80). -/
def rxPush (n : Nat) (it : RxItem) (s : State) : State :=
  let v := slice s n
  let it := { it with lost := v.lost, wake := v.lost && v.wakeLost }
  if 4 ≤ (v.rxq.filter (fun i => !i.marker && i.mode.isNone)).length then
    portFlag n 12 (errInc (setSlice s n { v with lost := true }) (aPort n 0xBC))
  else setSlice s n { v with lost := false, wakeLost := v.wakeLost && !v.lost, rxq := v.rxq ++ [it] }

/-- CHARACTER_RECEIPT: the 9/16 point s9 of the first stop bit (R20, R103–R107). `votes` are the samples at 7/16, 8/16 and 9/16
(bits 0, 1 and 2) of the data bits, the parity bit and the first stop bit; `fresh` says that the clock before s9 was sampled high, so that
a low s9 is itself the first low sample of an edge (R107, e = s9), and START_EDGE opens its candidate; `amp` and `cm` are the line
measurements of R208. After a break the slice waits under R106 whatever s9 was (R106, R113). -/
def execCharacterReceipt (n : Nat) (votes : List (BitVec 3)) (amp : Nat) (cm : Int) (s : State) (fresh : Bool := false) :
    Host.Outcome State Fault Refusal :=
  if !portRuns s n then .next s else
  match (slice s n).rx with
  | none => .next s
  | some (e, noisy) =>
    let fmt := (slice s n).rxFmt
    let it := rxForm fmt e noisy votes
    let stopVote := votes.getD (bits fmt 3 0 + (if bits fmt 6 4 = 0 then 0 else 1)) 7#3
    let wait := it.brk || (!stopVote.getLsbD 2 && !fresh)
    let s := setSlice s n { slice s n with rx := none, idleRun := !wait, tmoRun := !wait }
    let s := putBit (clrBit s (aPort n 0x18) 0) (aPort n 0x18) 3 wait
    let s := trafInc s (aPort n 0xA0)
    let s := if it.fe then portFlag n 8 (errInc s (aPort n 0xA8)) else s
    let s := if it.pe then portFlag n 9 (errInc s (aPort n 0xAC)) else s
    let s := if it.brk then portFlag n 10 (errInc s (aPort n 0xB0)) else s
    let s := if it.noise then portFlag n 11 (errInc s (aPort n 0xB4)) else s
    let s := if 256 ≤ n then lineReceipt (n - 256) amp cm s else s
    .next (rxBoundary n (rxPush n it s))

/-- IDLE_TIMER_EXPIRY: the receive line has been at stop level for 1 ct (R110). -/
def execIdleTimerExpiry (n : Nat) (s : State) : Host.Outcome State Fault Refusal :=
  let v := slice s n
  if portRuns s n && v.idleRun && v.rx.isNone then
    .next (setSlice (setBit s (aPort n 0x18) 2) n { v with idleRun := false })
  else .next s

/-- LINE_LOW_CLEAR: the line has been high in GLITCH + 1 consecutive clocks (R106, R110). DESIGN CHOICE: a wait left over when the mode
becomes OFF ends in the same way, but starts no timer (log entry 71). -/
def execLineLowClear (n : Nat) (s : State) : Host.Outcome State Fault Refusal :=
  if portRuns s n && flag s (aPort n 0x18) 3 then
    let on := decide ((slice s n).rxMode ≠ 0)
    .next (setSlice (clrBit s (aPort n 0x18) 3) n { slice s n with idleRun := on, tmoRun := on })
  else .next s

/-! ### Transmission (R100, R101, R308–R316, R329) -/

/-- The parity bit that is sent (R100), none without parity. -/
def parityBit (par : Nat) (data : List Bool) : List Bool :=
  let odd := decide ((data.filter id).length % 2 = 1)
  if par = 1 then [odd] else if par = 2 then [!odd] else if par = 3 then [true] else if par = 4 then [false] else []

/-- The bits of a character frame in the order they are sent (R100): the start bit at space level (false), the data bits with the least
significant first, the parity bit, and the stop bits at stop level, the half stop bit (R101) counted as one. -/
def txFrame (fmt : Word) (v : Nat) : List Bool :=
  let data := (List.range (bits fmt 3 0)).map (fun i => v.testBit i)
  [false] ++ data ++ parityBit (bits fmt 6 4) data ++ [true] ++ (if bits fmt 9 8 = 0 then [] else [true])

/-- Where a started sentence's next character comes from: the character, that it must be waited for, or that there is none
left. -/
inductive TxNext where
  | char (v : Nat) (last : Bool)
  | wait
  | none
  deriving DecidableEq, Repr

/-- The next character of a started sentence (R311, R329, R331). -/
def txNext (s : State) (t : Started) : TxNext :=
  let k := t.pos
  if k < t.pre.length then .char (t.pre.getD k 0).toNat false
  else
    match t.tail with
    | some tail =>
      match tail with
      | [] => .none
      | c :: r => .char c.toNat r.isEmpty
    | none =>
      let j := k - t.pre.length
      match t.ct with
      | some n =>
        match (parser s n).cur with
        | some u =>
          let lim := match u.starAt with
            | some a => u.len - u.stored + a + 1
            | none => u.len
          if j < lim then .char (memByte s (textAddr u.cell (u.pair.getD 0) j)).toNat false else .wait
        | none => .wait
      | none =>
        let len := cellLen s t.item.cell
        if j < len then .char (textByte s t.item.cell j).toNat (t.item.tun && decide (j + 1 = len))
        else if t.item.tun then .none
        else if j = len then .char 0x0D false
        else if j = len + 1 then .char 0x0A true
        else .none

/-- The state of a started sentence after a character has been loaded: the position, the tail, and the running exclusive OR
of R331. The sentence part starts behind the TAG blocks of the text. -/
def txAdvance (s : State) (t : Started) (v : Nat) : Started :=
  let j := t.pos - t.pre.length
  let tl := match t.ct with
    | some n =>
      match (parser s n).cur with
      | some u => u.len - u.stored
      | none => 0
    | none => cellTagLen s t.item.cell
  let t := if t.pos < t.pre.length || t.tail.isSome then t
           else if j = tl then { t with opened := true }
           else if t.opened && !t.star then (if v = 0x2A then { t with star := true } else { t with x := t.x ^^^ v })
           else t
  { t with pos := t.pos + 1,
           tail := t.tail.map (fun l => l.drop 1) }

/-- The character in the transmit shifter has been sent (R101, R210). -/
def txCharEnd (n load : Nat) (s : State) : State :=
  match (slice s n).shifter with
  | none => s
  | some _ =>
    let s := trafInc s (aPort n 0xA4)
    let s := if 256 ≤ n then lineSent (n - 256) load s else s
    setSlice (clrBit s (aPort n 0x18) 1) n { slice s n with shifter := none }

/-- The last stop bit of a sentence or tunnel block has been sent (R315, R28): the reference and the charge are released, and
the trail of a burst begins unless a next sentence is ready (R127). DESIGN CHOICE: a next sentence that is ready but must wait for an
idle line (R121) still counts as ready; the direction output stays asserted until it starts (log entry 71). -/
def txSentEnd (n load : Nat) (s : State) : State :=
  match (queue s n).ending with
  | none => s
  | some it =>
    let s := txCharEnd n load s
    let fogged := (queue s n).endFog
    let s := releaseRef it.cell (setQueue s n { queue s n with ending := none, endFog := false })
    let s := if fogged then s else trafInc s (aPort n 0xE8)
    let s := if flag s (aPort n 0x18) 6 && (queue s n).started.isNone then
        setSlice s n { slice s n with trailRun := true } else s
    txBoundary n s

/-- A started sentence may send its first character now (R121, R124, R127). -/
def txMayStart (s : State) (n : Nat) (t : Started) : Bool :=
  !(slice s n).leadWait && (slice s n).backoff.isNone &&
  (decide (t.pos ≠ 0) || !flag s (aPort n 0x0C) 6 || (idle s n && (slice s n).rx.isNone))

/-- An uncorrectable word met after the start ends the sentence with a fogged tail (R715). -/
def txEcc (n : Nat) (s : State) : State :=
  match (queue s n).started with
  | none => s
  | some t =>
    let j := t.pos - t.pre.length
    if s.ecc.isEmpty || t.ct.isSome || t.tail.isSome || decide (t.pos < t.pre.length) then s
    else if cellLen s t.item.cell ≤ j then s
    else
      let (bad, s) := eccRead (textAddr t.item.cell (cellNext s t.item.cell % 32768) j) 1 s
      if bad then fog n false s else s

/-- Load the next character of the started sentence into the transmit shifter (R310, R311): at its start bit pending values
apply (R114), and the last character makes room for the next selection. A burst's first start bit waits for the lead (R127). -/
def txLoad (n load : Nat) (s : State) : State :=
  let s := if (queue s n).ending.isSome then txSentEnd n load s else txBoundary n (txCharEnd n load s)
  let s := txEcc n s
  match (queue s n).started with
  | none => s
  | some t =>
    if !txMayStart s n t then s
    else
      let s := if t.pos = 0 then dirBegin n s else s
      if (slice s n).leadWait then s else
      match txNext s t with
      | .wait => s
      | .none =>
        setQueue s n { queue s n with started := none, ending := some t.item, endFog := t.tail.isSome }
      | .char v last =>
        let t' := txAdvance s t v
        let s := txRate n s
        let s := setSlice (setBit s (aPort n 0x18) 1) n { slice s n with shifter := some (txFrame (slice s n).txFmt v) }
        if last then setQueue s n { queue s n with started := none, ending := some t.item, endFog := t.tail.isSome }
        else setQueue s n { queue s n with started := some t' }

/-- SENTENCE_SELECT: the scheduler selects the next sentence of a port (R310, R321), which becomes its started sentence. -/
def execSentenceSelect (n : Nat) (s : State) : Host.Outcome State Fault Refusal :=
  let v := slice s n
  let q := queue s n
  if portRuns s n && q.started.isNone && (decide (v.txMode = 1) || decide (v.txMode = 3)) && v.backoff.isNone &&
     !flag s (aPort n 0x20) 28 && (!flag s (aPort n 0x0C) 6 || q.ending.isSome || idle s n) then
    let (i?, s) := selectFresh n q.items.length s
    match i? with
    | none => .next s
    | some i =>
      let q := queue s n
      let pre := if i.tag && !i.tun then
          tagBlock (fld s (aPort n 0x60) 14 13) (cellStamp s i.cell) (cellNode s i.cell) (cellSrc s i.cell) else []
      let rest := q.items.filter (fun j => decide (j.cell ≠ i.cell))
      .next (dirBegin n (sweepForget n i.cell (setQueue s n { q with items := rest, started := some { item := i, pre := pre } })))
  else .next s

/-- TX_CHARACTER_LOAD: the next character is loaded into the transmit shifter (R311). `load` is the line measurement of the
character before it (R210). -/
def execTxCharacterLoad (n load : Nat) (s : State) : Host.Outcome State Fault Refusal :=
  if portRuns s n then .next (txLoad n load s) else .next s

/-- SENTENCE_TX_END: the last stop bit of a sentence or tunnel block is sent (R315). -/
def execSentenceTxEnd (n load : Nat) (s : State) : Host.Outcome State Fault Refusal :=
  if portRuns s n then .next (txSentEnd n load s) else .next s

/-- DIR_LEAD_EXPIRY: the first start bit of a burst begins (R127). DESIGN CHOICE: when a start edge has won on a single-wire port in the
meantime (R121), the direction output stays asserted and the sentence starts later without a further lead (log entry 71). -/
def execDirLeadExpiry (n : Nat) (s : State) : Host.Outcome State Fault Refusal :=
  if portRuns s n && (slice s n).leadWait then
    .next (txLoad n 0 (setSlice s n { slice s n with leadWait := false }))
  else .next s

/-- DIR_TRAIL_EXPIRY: no next sentence is ready when the trail ends, and the direction output is deasserted (R127, R128). -/
def execDirTrailExpiry (n : Nat) (s : State) : Host.Outcome State Fault Refusal :=
  let v := slice s n
  if portRuns s n && v.trailRun && (queue s n).started.isNone then
    .next (setSlice (clrBit s (aPort n 0x18) 6) n { v with trailRun := false })
  else .next s

/-- CT_GAP_EXPIRY: the gap timer of a cut-through listener expires and its sentence ends with a fogged tail (R330–R333). The timer runs
from the end of a character sent; a character or a commit that came meanwhile, in this clock too, is taken first (R32). -/
def execCtGapExpiry (p : Nat) (s : State) : Host.Outcome State Fault Refusal :=
  match (queue s p).started with
  | some t =>
    match t.ct with
    | some n =>
      if !portRuns s p || (slice s p).shifter.isSome || decide (t.pos = 0) || decide (txNext s t ≠ .wait) then .next s
      else
        let s := qNote [p] s (fog p true s)
        match (parser s n).cur with
        | some u => .next (setParser s n { parser s n with
            cur := some { u with cutOn := u.cutOn.filter (· ≠ p), cutGap := u.cutGap ++ [p], gapFog := true } })
        | none => .next s
    | none => .next s
  | none => .next s

/-! ### Single-wire collisions (R123–R125) -/

/-- Return an abandoned sentence to the head of its class. -/
def qReturn (items : List QItem) (i : QItem) : List QItem :=
  let before := items.takeWhile (fun j => decide (j.cls ≠ i.cls))
  before ++ [i] ++ items.drop before.length

/-- COLLISION_DETECT: the level read back at the 8/16 point of bit k of the character differs from the level driven (R123–R125).
DESIGN CHOICE: a sentence that was selected while the one before it sent its last character stays selected and is sent before the
returned one (log entry 71). DESIGN CHOICE: a cut-through sentence that its talker still sends, and a fogged tail, which only a port whose
PIN.SW was rewritten can collide with, are dropped as at the retry limit (R332; log entry 71). -/
def execCollisionDetect (n : Nat) (s : State) (k : Nat := 0) (level : Bool := true) : Host.Outcome State Fault Refusal :=
  let v := slice s n
  let q := queue s n
  let cur := match q.ending with
    | some i => some i
    | none => q.started.map Started.item
  match v.shifter, cur with
  | some frame, some i =>
    if !(portRuns s n && flag s (aPort n 0x0C) 6 && decide (frame[k]? = some (!level))) then .next s
    else
      let cut := match q.ending, q.started with
        | some _, _ => q.endFog
        | none, some t => t.ct.isSome || t.tail.isSome
        | none, none => false
      let s := match q.ending, q.started.bind Started.ct with
        | none, some m => cutForget n m s
        | _, _ => s
      let q := if q.ending.isSome then { q with ending := none, endFog := false } else { q with started := none }
      let s := clrBit (clrBit s (aPort n 0x18) 1) (aPort n 0x18) 6
      let s := portFlag n 13 (errInc s (aPort n 0xC0))
      let (k, s) := takeFree s
      let s := setSlice s n { slice s n with shifter := none, trailRun := false, backoff := some (1 + k % 16) }
      let s := if cut || decide (fld s (aPort n 0x14) 3 0 < i.tries + 1) then
          portFlag n 14 (errInc (releaseRef i.cell (setQueue s n q)) (aPort n 0xC4))
        else setQueue s n { q with items := qReturn q.items { i with tries := i.tries + 1 } }
      .next (txBoundary n s)
  | _, _ => .next s

/-- BACKOFF_EXPIRY: the k ct of idle line have passed (R124). -/
def execBackoffExpiry (n : Nat) (s : State) : Host.Outcome State Fault Refusal :=
  let v := slice s n
  if portRuns s n && v.backoff.isSome && idle s n then .next (setSlice s n { v with backoff := none }) else .next s

/-! ### Rate measurement (R118, R119) -/

/-- A write of PORT[n].MEAS_CTL (R87, R118): WINDOW 0 is refused; START starts a window and a running window keeps START 1. DESIGN
CHOICE: START written 1 or 0 while a window runs neither restarts nor ends nor is refused (log entry 71). -/
def measWrite (n : Nat) (v : Word) (s : State) : State :=
  if bits v 15 0 = 0 then portFlag n 18 s
  else
    let run := flag s (aPort n 0x28) 16 || bit v 16
    putBit (setReg s (aPort n 0x28) (v &&& 0x2FFFF)) (aPort n 0x28) 16 run

/-- MEAS_START: a write of MEAS_CTL (R118). -/
def execMeasStart (n : Nat) (v : Word) (s : State) : Host.Outcome State Fault Refusal :=
  if n < portCount s ∧ awake s then .next (measWrite n v s) else .next s

/-- The confirmed edges of a window (R118): the clock of each, and its polarity, alternating from run to run. `runs` are the lengths in port
clocks of the runs of equal samples within the window, the first of which had begun before it, and `after` the clocks that the last run goes
on behind it. The glitch filter of R93 confirms an edge when GLITCH further samples stay with it. DEDUCED: an edge back to the level before
a rejected glitch passes the filter like any other; it and the edge before it, being of one polarity, bound no pulse (log entry 81). -/
def measEdges (glitch after : Nat) (runs : List Nat) : List (Nat × Bool) :=
  let k := runs.length
  (List.range k).filterMap (fun i =>
    if i ≠ 0 ∧ glitch < runs.getD i 0 + (if i + 1 = k then after else 0) then some ((runs.take i).sum, decide (i % 2 = 1)) else none)

/-- The widths of the pulses between consecutive confirmed edges of opposite polarity (R118). -/
def edgePulses : List (Nat × Bool) → List Nat
  | a :: b :: r => (if a.2 = b.2 then [] else [b.1 - a.1]) ++ edgePulses (b :: r)
  | _ => []

/-- The shortest stable pulse (R119): the smallest width w with at least four pulses from w to w + floor(w / 8). -/
def measMin (pulses : List Nat) : Nat :=
  let ps := pulses.filter (fun w => decide (w ≤ 0xFFFFFE))
  (ps.filter (fun w => decide (4 ≤ (ps.filter (fun x => decide (w ≤ x) && decide (x ≤ w + w / 8))).length))).foldl min 0xFFFFFF

/-- MEAS_WINDOW_END: the window ends (R88, R118, R119). The receive pin was sampled as `runs` and `after` say (measEdges). -/
def execMeasWindowEnd (n : Nat) (runs : List Nat) (after : Nat) (s : State) : Host.Outcome State Fault Refusal :=
  if n < portCount s && awake s && flag s (aPort n 0x28) 16 then
    let es := measEdges (fld s (aPort n 0x0C) 4 2) after runs
    let s := setReg (setReg s (aPort n 0x2C) (wd (measMin (edgePulses es)))) (aPort n 0x30) (wd es.length)
    .next (portFlag n 16 (putBit s (aPort n 0x28) 16 (flag s (aPort n 0x28) 17)))
  else .next s

/-! ### Moves to a spare slice (R132–R136, R72) -/

/-- The slice map at reset (R72): STATE in bits 15:14, PORT in bits 8:0. -/
def sliceMapReset (m4 : Bool) (x : Nat) : Nat :=
  if x < 256 ∨ (m4 ∧ x < 272) then 0x4000 + x else if x < 272 then 0xC1FF else 0x01FF

def sliceMap (s : State) (x : Nat) : Nat := tabGet (sliceMapReset s.m4) s.sliceMap x
def setSliceMap (s : State) (x v : Nat) : State := { s with sliceMap := tabSet (sliceMapReset s.m4) s.sliceMap x v }

/-- The end of a swap request (R136). -/
def swapEnd (n result : Nat) (s : State) : State :=
  let s := setFld (clrBit s (aPort n 0x20) 28) (aPort n 0x20) 31 30 result
  portFlag n 17 (setSlice s n { slice s n with waitRun := false, forcePend := false })

/-- A slice may serve port n (R132). -/
def mayServe (n x : Nat) : Bool := decide (272 ≤ x ∧ x < 280) || decide (x = n)

/-- A slice command of the availability unit names slice x (R724). -/
def sliceBusy (s : State) (x : Nat) : Bool :=
  match s.av.sliceCmd with
  | some c => decide (c.slice = x)
  | none => false

/-- Slice x can be the TARGET of port n: a spare that may serve it, and not under a slice command (R132, R724). -/
def swapFits (s : State) (n x : Nat) : Bool := mayServe n x && decide (sliceMap s x / 0x4000 = 0) && !sliceBusy s x

/-- The TARGET of port n. -/
def swapTarget (s : State) (n : Nat) : Nat := fld s (aPort n 0x20) 24 16

/-- The port moves to slice TARGET (R133, R136). DESIGN CHOICE: TARGET as it then stands; when that slice is no longer a spare that may
serve the port (it has been retired, R725, or taken), the request ends without a swap, with RESULT 11b (log entry 71). -/
def doSwap (n result : Nat) (s : State) : State :=
  let cur := fld s (aPort n 0x20) 8 0
  let tgt := swapTarget s n
  if !swapFits s n tgt then swapEnd n 3 s
  else
    let s := if cur = 0x1FF then s else setSliceMap s cur 0x01FF
    let s := csChange (setSliceMap s tgt (0x4000 + n))
    raise 93 (swapEnd n result (setFld s (aPort n 0x20) 8 0 tgt))

/-- A forced move loses a character in the old receive shifter (R134), and a mode that waited for its end applies (R90). DESIGN CHOICE: the
start detector is armed at once, and the idle timer and the receive timeout start anew (log entry 71). -/
def forceSwap (n : Nat) (s : State) : State :=
  let s := match (slice s n).rx, swapFits s n (swapTarget s n) with
    | some _, true =>
      rxBoundary n (errInc (clrBit (setSlice s n { slice s n with rx := none, lost := true, idleRun := true, tmoRun := true })
        (aPort n 0x18) 0) (aPort n 0xC8))
    | _, _ => s
  doSwap n 2 s

/-- SWAP_REQUEST: a write of PORT[n].SLICE (R85, R132, R133). DESIGN CHOICE: while a request is pending, a write with REQ = 0 changes FORCE
and TARGET (checked at the swap) of that request, and one with REQ = 1 replaces it: its own wait begins, and the expired wait of the one
replaced forces nothing any more (R134; log entry 71). -/
def execSwapRequest (n : Nat) (v : Word) (s : State) : Host.Outcome State Fault Refusal :=
  if n ≥ portCount s ∨ ¬ awake s then .next s
  else
    let tgt := bits v 24 16
    if bit v 28 && !swapFits s n tgt then .next (portFlag n 18 s)
    else
      let s := setFld (putBit s (aPort n 0x20) 29 (bit v 29)) (aPort n 0x20) 24 16 tgt
      if bit v 28 then .next (setSlice (setBit s (aPort n 0x20) 28) n { slice s n with waitRun := true, forcePend := false }) else .next s

/-- The condition of an ordinary swap (R133). -/
def swapReady (s : State) (n : Nat) : Bool := (slice s n).shifter.isNone && idle s n

/-- SLICE_SWAP: the transmit shifter is empty and the line idle (R133). -/
def execSliceSwap (n : Nat) (s : State) : Host.Outcome State Fault Refusal :=
  if portRuns s n && flag s (aPort n 0x20) 28 && swapReady s n then .next (doSwap n 1 s) else .next s

/-- SWAPWAIT_EXPIRY: SWAPWAIT ct have passed since the request (R134, R135). -/
def execSwapwaitExpiry (n : Nat) (s : State) : Host.Outcome State Fault Refusal :=
  if portRuns s n && flag s (aPort n 0x20) 28 && (slice s n).waitRun then
    if swapReady s n then .next (doSwap n 1 s)
    else if !flag s (aPort n 0x20) 29 then .next (swapEnd n 3 s)
    else if (slice s n).shifter.isNone then .next (forceSwap n s)
    else .next (setSlice s n { slice s n with waitRun := false, forcePend := true })
  else .next s

/-- FORCED_SWAP: the transmit character boundary of a forced swap (R134). -/
def execForcedSwap (n : Nat) (s : State) : Host.Outcome State Fault Refusal :=
  if portRuns s n && (slice s n).forcePend then .next (forceSwap n s) else .next s

end Sys2Proof.Machine
end

