-- ==== Sys2Proof/Machine/Can.lean ====
section
/-!
DEFINITION. The CAN controllers (R590–R625): k = 0 and 1.
-/
namespace Sys2Proof.Machine

/-- A register of transmit buffer b, and its state (R604). -/
def aTxb (k b o : Nat) : Nat := aCan k (0x1000 + 0x80 * b + o)
def txbState (s : State) (k b : Nat) : Nat := fld s (aTxb k b 0x7C) 2 0

/-- Set a buffer's state; REQ reads 1 unless the buffer is FREE (R624). -/
def setTxb (k b st : Nat) (s : State) : State := putBit (setFld s (aTxb k b 0x7C) 2 0 st) (aTxb k b 0x7C) 31 (decide (st ≠ 0))

/-- Set a buffer's RESULT. -/
def setResult (k b r : Nat) (s : State) : State := setFld s (aTxb k b 0x7C) 7 4 r

/-- The buffers of a controller in a state. -/
def txbIn (s : State) (k st : Nat) : List Nat := (List.range 64).filter (fun b => decide (txbState s k b = st))

/-- The controller takes part in bus traffic (R591). -/
def canOn (s : State) (k : Nat) : Bool :=
  decide (k < 2) && (decide (canState s k = 1) || decide (canState s k = 2)) && awake s && s.power.vcanOk

/-- SUSP follows the buffers (R621). -/
def canSusp (k : Nat) (s : State) : State := putBit s (aCan k 0x04) 4 (!(txbIn s k 3).isEmpty)

/-- Enter bus-off (R612, R613). -/
def canBusOff (k : Nat) (s : State) : State :=
  let s := (txbIn s k 2).foldl (fun s b => setTxb k b 1 s) s
  canStatusWith [15] k (if flag s (aCan k 0x00) 2 then 4 else 3) (errInc s (aCan k 0x80))

/-- Set TEC and REC and the state that follows from them (R591, R612). -/
def canErrs (k tec rc : Nat) (s : State) : State :=
  let s := setFld (setFld s (aCan k 0x14) 8 0 (min tec 511)) (aCan k 0x14) 23 16 (min rc 255)
  if canState s k = 1 ∨ canState s k = 2 then
    if 255 < tec then canBusOff k s
    else canStatus k (if 128 ≤ tec ∨ 128 ≤ rc then 2 else 1) s
  else s

/-- The end of a frame lets a pending INIT take effect (R592). -/
def canFrameEnd (k : Nat) (s : State) : State := if (canSt s k).initPend then canEnterInit k s else s

/-- The nominal bit in CAN clocks, and the data bit (R593). -/
def nbtBit (w : Word) : Nat := (bits w 4 0 + 1) * (1 + (bits w 15 8 + 1) + (bits w 22 16 + 1))
def dbtBit (w : Word) : Nat := (bits w 4 0 + 1) * (1 + (bits w 12 8 + 1) + (bits w 16 13 + 1))

/-- A write of NBT or DBT that R593 or R623 refuses. -/
def nbtRefused (w : Word) : Bool :=
  decide (nbtBit w < 80) || decide (bits w 22 16 < bits w 30 24) || decide (bits w 22 16 = 0) || decide (bits w 15 8 = 0)
def dbtRefused (w : Word) : Bool :=
  decide (dbtBit w < 16) || decide (bits w 16 13 < bits w 20 17) ||
  (bit w 21 && decide (bits w 28 22 > (bits w 4 0 + 1) * (1 + (bits w 12 8 + 1)) + 63))

/-- A refused write of the CAN unit (R36). -/
def canCfgErr (k : Nat) (s : State) : State := canFlag k 16 s

/-- A write of CAN[k].CTL (R592, R613, R618, R621). `busy` says that a frame is being received. -/
def canCtlWrite (k : Nat) (v : Word) (busy : Bool) (s : State) : State :=
  let st := canState s k
  let n := nbtBit (getReg s (aCan k 0x0C))
  if bits v 9 8 = 3 ∨ (bits v 9 8 = 2 ∧ ¬ (160 ≤ n ∧ n ≤ 1600)) ∨ (bit v 1 ≠ flag s (aCan k 0x00) 1 ∧ st ≠ 0) ∨
     (bit v 0 ∧ (st = 3 ∨ st = 4)) then canCfgErr k s
  else
    let s := setReg s (aCan k 0x00) (v &&& 0x317)
    let s := if bit v 0 then
        (if st = 0 then s
         else if busy ∨ ¬ (txbIn s k 2).isEmpty then setCan s k { canSt s k with initPend := true }
         else canEnterInit k s)
      else
        let s := setCan s k { canSt s k with initPend := false }
        if st = 0 ∧ ¬ inFault s then canStatus k 5 s else s
    if bit v 3 ∧ canState s k = 3 then canStatus k 4 s else s

/-- CAN_INIT: a write of CTL with INIT = 1 (R592). -/
def execCanInit (k : Nat) (v : Word) (busy : Bool) (s : State) : Host.Outcome State Fault Refusal :=
  if k < 2 ∧ awake s then .next (canCtlWrite k (v ||| 1) busy s) else .next s

/-- CAN_RECOVER: a write of CTL with RECOVER = 1 (R613). -/
def execCanRecover (k : Nat) (v : Word) (s : State) : Host.Outcome State Fault Refusal :=
  if k < 2 ∧ awake s then .next (canCtlWrite k (v ||| 8) false s) else .next s

/-- CAN_INTEGRATION_DONE: 11 consecutive recessive bits (R591); with them a frame in progress has ended, and a pending INIT takes effect
(R592). -/
def execCanIntegrationDone (k : Nat) (s : State) : Host.Outcome State Fault Refusal :=
  if k < 2 ∧ canState s k = 5 ∧ awake s then .next (if (canSt s k).initPend then canEnterInit k s else canStatus k 1 s) else .next s

/-- CAN_RECOVERY_DONE: 128 sequences of 11 recessive bits (R613). -/
def execCanRecoveryDone (k : Nat) (s : State) : Host.Outcome State Fault Refusal :=
  if k < 2 ∧ canState s k = 4 ∧ awake s then .next (canStatus k 1 (setReg s (aCan k 0x14) 0)) else .next s

/-! ### Records (R595, R596) -/

/-- The data length that a DLC codes. -/
def dlcLen (fdf : Bool) (dlc : Nat) : Nat :=
  if dlc ≤ 8 then dlc
  else if !fdf then 8
  else [12, 16, 20, 24, 32, 48, 64].getD (dlc - 9) 64

/-- The data length of a record or frame with word 0 and byte 04. -/
def recLen (w0 : Word) (b4 : Byte) : Nat := if bit w0 29 then 0 else dlcLen (bit w0 31) (b4.toNat % 16)

/-- Word 0 and byte 04 of a record. -/
def recWord0 (r : List Byte) : Word := wd (ofBytesLE (r.take 4))
def recByte (r : List Byte) (i : Nat) : Byte := r.getD i 0

/-- A record to send is rejected (R596). Bytes 04 bit 7 and 05 bits 6:0 are CTRL, SEL and BUF. -/
def recRejected (s : State) (k : Nat) (r : List Byte) : Bool :=
  let w0 := recWord0 r
  let b4 := recByte r 4
  decide (r.length ≠ 16 + recLen w0 b4) || (bit w0 29 && bit w0 31) || (b4.getLsbD 4 && !bit w0 31) ||
  (!bit w0 30 && decide (bits w0 28 11 ≠ 0)) || (bit w0 31 && !flag s (aCan k 0x00) 1) ||
  b4.getLsbD 6 || b4.getLsbD 5 || (recByte r 5).getLsbD 7 || decide (recByte r 6 ≠ 0) || decide (recByte r 7 ≠ 0) ||
  ((r.drop 12).take 4).any (fun b => decide (b ≠ 0))

/-- The limit on a deadline that is loaded (R605): at most 63,999,023 units of 1,024 ns after DNOW. -/
def capDeadline (s : State) (d : Nat) : Nat :=
  let ahead := (d + 2 ^ 32 - s.time.dnow.toNat) % 2 ^ 32
  if d ≠ 0 ∧ 63999023 < ahead ∧ ahead < 2 ^ 31 then (s.time.dnow.toNat + 63999023) % 2 ^ 32 else d

/-- The record of a buffer: its words as bytes, as long as word 0 and byte 04 say. -/
def txbRec (s : State) (k b : Nat) : List Byte :=
  let w0 := getReg s (aTxb k b 0x00)
  let b4 : Byte := (getReg s (aTxb k b 0x04)).truncate 8
  (unpackWords ((List.range 20).map (fun i => getReg s (aTxb k b (4 * i))))).take (16 + recLen w0 b4)

/-- The record that stands in a buffer is taken as its frame: the limit on its deadline (R605), and PENDING when it was FREE. -/
def txbPend (k b : Nat) (s : State) : State :=
  let s := setReg s (aTxb k b 0x08) (wd (capDeadline s (getReg s (aTxb k b 0x08)).toNat))
  if txbState s k b = 0 then setResult k b 0 (setTxb k b 1 s) else s

/-- Put a frame into a buffer and make it PENDING (R605, R609). -/
def txbLoad (k b : Nat) (r : List Byte) (s : State) : State :=
  let ws := packWords (r ++ List.replicate (80 - r.length) 0)
  txbPend k b ((List.range 20).foldl (fun s i => setReg s (aTxb k b (4 * i)) (ws.getD i 0)) s)

/-- The sentence sender holds buffer b (R610). -/
def isSentBuf (s : State) (k b : Nat) : Bool := flag s (aCan k 0x28) 31 && decide (fld s (aCan k 0x28) 5 0 = b)

/-! ### The sentence sender (R610, R611) -/

/-- The payload of a sentence on the bus. -/
def sentPayload (s : State) (c : Nat) : List Byte := cellText s c ++ [0x0D, 0x0A]

/-- The number of frames of a payload of n bytes. -/
def sentFrames (n : Nat) : Nat := 1 + (n - 6 + 6) / 7

/-- Frame j of a sentence as a record (R611). -/
def sentRecord (s : State) (k c j : Nat) : List Byte :=
  let p := sentPayload s c
  let b0 := BitVec.ofNat 8 (fld s (aCan k 0x28) 18 16 * 32 + j)
  let body := if j = 0 then [b0, BitVec.ofNat 8 p.length] ++ p.take 6 else b0 :: (p.drop (6 + 7 * (j - 1))).take 7
  let data := body ++ List.replicate (8 - body.length) 0xFF
  bytesLE 4 (getReg s (aCan k 0x24) ||| 0x40000000).toNat ++ [0x08] ++ List.replicate 11 0 ++ data

/-- End the series in progress: the reference is released and SEQ advances (R610, R611). -/
def seriesEnd (k : Nat) (ok : Bool) (s : State) : State :=
  let v := canSt s k
  match v.series with
  | none => s
  | some (c, _, _) =>
    let s := releaseRef c (setCan s k { v with series := none })
    let s := setFld s (aCan k 0x28) 18 16 (fld s (aCan k 0x28) 18 16 + 1)
    if ok then s else canFlag k 11 (errInc s (aCan k 0x7C))

/-- The buffer of the series in progress became FREE with a result (R610): the next frame is loaded, or the series ends. DESIGN CHOICE:
the series keeps the buffer in which it began when SENT_CTL.BUF is rewritten (log entry 75). An uncorrectable word of the sentence ends the
series (R715). -/
def seriesNext (k b result : Nat) (s : State) : State :=
  match (canSt s k).series with
  | none => s
  | some (c, j, own) =>
    let (bad, s) := if own = b then eccChain c s else (false, s)
    if own ≠ b then s
    else if bad ∨ result ≠ 1 then seriesEnd k false s
    else if sentFrames (sentPayload s c).length ≤ j + 1 then seriesEnd k true s
    else txbLoad k b (sentRecord s k c (j + 1)) (setCan s k { canSt s k with series := some (c, j + 1, b) })

/-- A buffer becomes FREE with a result (R605–R608): the sentence series goes on, and a waiting replacement is loaded (R609). -/
def txbFree (k b result : Nat) (s : State) : State :=
  let s := setResult k b result (setTxb k b 0 s)
  let v := canSt s k
  let s := setCan s k { v with aborts := v.aborts.filter (· ≠ b), offers := v.offers.filter (· ≠ b) }
  canSusp k (seriesNext k b result s)

/-- Load the frame that waited to replace an ACTIVE one (R609). -/
def txbReplace (k b : Nat) (s : State) : State :=
  let v := canSt s k
  match tabGet (fun _ => []) v.repl b with
  | [] => s
  | r => txbLoad k b r (setCan s k { v with repl := tabDel v.repl b, aborts := v.aborts.filter (· ≠ b) })

/-- The sender takes its head sentence; stale ones before it are dropped and counted (R610), and one with an uncorrectable word is discarded
(R715). -/
def canSentStart (k : Nat) : Nat → State → State
  | 0, s => s
  | n + 1, s =>
    let v := canSt s k
    match v.sq with
    | [] => s
    | c :: r =>
      let s := setCan s k { v with sq := r }
      if isStale s (cellDeadline s c) then
        canSentStart k n (canFlag k 9 (errInc (releaseRef c s) (aCan k 0x78)))
      else
        let (bad, s) := eccChain c s
        if bad then canSentStart k n (releaseRef c s)
        else
        let b := fld s (aCan k 0x28) 5 0
        txbLoad k b (sentRecord s k c 0) (setCan s k { canSt s k with series := some (c, 0, b) })

/-- CAN_SENTENCE_START: while the sentence sender is on and its buffer is FREE, the oldest waiting sentence that is not stale begins (R610,
R611). -/
def execCanSentenceStart (k : Nat) (s : State) : Host.Outcome State Fault Refusal :=
  if k < 2 ∧ flag s (aCan k 0x28) 31 ∧ (canSt s k).series.isNone ∧ txbState s k (fld s (aCan k 0x28) 5 0) = 0 ∧
     canState s k ≠ 0 ∧ awake s ∧ ¬ inFault s then .next (canSentStart k 8 s)
  else .next s

/-! ### Receiving (R597–R603) -/

/-- Every SUSPENDED buffer returns to PENDING and every count becomes 0 (R616). -/
def canUnsuspend (k : Nat) (s : State) : State :=
  let s := (txbIn s k 3).foldl (fun s b => setTxb k b 1 s) s
  canSusp k (setCan s k { canSt s k with ackCnt := [], offers := [] })

/-- REC after a good reception (R612): one less, or a value from 119 to 127 when it was above 127. -/
def canRecDown (k : Nat) (s : State) : State :=
  let r := canRec s k
  if 127 < r then
    let (f, s) := takeFree s
    canErrs k (canTec s k) (119 + f % 9) s
  else canErrs k (canTec s k) (r - 1) s

/-- A bus error while receiving (R612): REC rises by 1, or by 8 for a bit error in an own active error or overload flag, and by 8 more
for each of the `more` cases in which ISO 11898-1 counts the dominant bits or bit errors of the error flag. -/
def canRxErr (k : Nat) (big : Bool) (more : Nat) (s : State) : State :=
  canFrameEnd k (canErrs k (canTec s k) (canRec s k + (if big then 8 else 1) + 8 * more) (errInc s (aCan k 0x88)))

/-- CAN_RECEIVE_ERROR: an error frame is sent and REC rises (R612). -/
def execCanReceiveError (k : Nat) (big : Bool) (s : State) (more : Nat := 0) : Host.Outcome State Fault Refusal :=
  if canOn s k then .next (canRxErr k big more s) else .next s

/-- The ACT word of the first filter that a frame passes (R597). -/
def canFilter (s : State) (k : Nat) (w0 : Word) : Option Word :=
  ((List.range 64).find? (fun f =>
      flag s (aCan k (0x408 + 0x10 * f)) 31 &&
      decide ((w0 ^^^ getReg s (aCan k (0x400 + 0x10 * f))) &&& getReg s (aCan k (0x404 + 0x10 * f)) = 0))).map
    (fun f => getReg s (aCan k (0x408 + 0x10 * f)))

/-- An ACT word names a consumer (R597). -/
def actNames (a : Word) : Bool := bit a 30 || bit a 29 || decide (bits a 24 21 ≠ 0) || bit a 20

/-- Gate 92 takes frames out of the staging buffers while it holds fewer than 16 (R143, R598). -/
def canStageMove (k : Nat) : Nat → State → State
  | 0, s => s
  | n + 1, s =>
    match (canSt s k).stage with
    | f :: r =>
      if s.canGate.length < 16 then
        canStageMove k n { setCan s k { canSt s k with stage := r } with canGate := s.canGate ++ [(k, f)] }
      else s
    | [] => s

/-- Both controllers; DESIGN CHOICE: controller 0 goes first when both wait for room (log entry 75). -/
def canStages (s : State) : State := canStageMove 1 8 (canStageMove 0 8 s)

/-- A good frame from the bus is filtered into the staging buffer (R597, R598). -/
def canRxFrame (k : Nat) (w0 : Word) (b4 : Byte) (count btc : Word) (data : List Byte) (s : State) : State :=
  let s := canUnsuspend k (canRecDown k (trafInc s (aCan k 0x60)))
  match canFilter s k w0 with
  | none => trafInc s (aCan k 0x68)
  | some act =>
    if !actNames act then s
    else
      let v := canSt s k
      if 8 ≤ v.stage.length then canFlag k 12 (errInc (setCan s k { v with stageLost := true }) (aCan k 0x6C))
      else
        let n := recLen w0 b4
        canStages (setCan s k { v with stage := v.stage ++ [⟨w0, b4, btc, count, (data ++ List.replicate n 0).take n, act⟩] })

/-- The bit-time counter of controller k as it stood `ago` CAN clocks ago (R599, R600): the advances since then are taken off. The divider
counts half nanoseconds. -/
def btcBefore (s : State) (k ago : Nat) : Word :=
  let v := canSt s k
  let w := getReg s (aCan k 0x18)
  if v.btcPer = 0 ∨ 25 * ago ≤ v.btcAcc then w else w - wd ((25 * ago - v.btcAcc + v.btcPer - 1) / v.btcPer)

/-- CAN_FRAME_RECEIVE: word 0 of the record, byte 04 (ESI, BRS, DLC), how many CAN clocks ago the dominant SOF bit was sampled, the fixed
delay of transceiver and synchroniser taken off it in CAN clocks (R599), the data. An FD frame while FDEN is 0 is an error (R590). -/
def execCanFrameReceive (k : Nat) (w0 : Word) (b4 : Byte) (ago delay : Nat) (data : List Byte) (s : State) :
    Host.Outcome State Fault Refusal :=
  if !canOn s k then .next s
  else if bit w0 31 && !flag s (aCan k 0x00) 1 then .next (canRxErr k false 0 s)
  else .next (canFrameEnd k (canRxFrame k w0 b4 (s.time.canCount - wd (ago + delay)) (btcBefore s k (ago + delay)) data s))

/-- The reader's fill of the receive FIFO rose to n frames (R163); the event follows a change of LVL from 0 to 1 (R622). -/
def canRxRise (k n : Nat) (s : State) : State :=
  let lv := fld s (aCan k 0x54) 9 0
  if lv ≠ 0 ∧ n = lv then stickyRaise (aCan k 0x58) 4 (64 + 4 * k) s else s

/-- Store a record in the receive FIFO (R602). -/
def canFifoPut (k : Nat) (r : List Byte) (stamp : DWord) (s : State) : State :=
  let v := canSt s k
  let lose := fun (s : State) => setBit (errInc (setCan s k { canSt s k with rxLost := true }) (aCan k 0x70)) (aCan k 0x58) 2
  if 128 ≤ v.rxq.length then lose s
  else
    match allocChain (292 + k) r.length s with
    | (none, s) => lose s
    | (some (c, next), s) =>
      let (seq, s) := takeSeq (292 + k) s
      let r := if v.rxLost then listSet r 4 (recByte r 4 ||| 0x40) else r
      let h : CellHdr := { stamp := stamp, src := 292 + k, node := s.nodeId, len := r.length, seq := seq, next := next,
                           flags := 128 }
      let s := setCellSt (writeText c (next.getD 0) (chainCells r.length) r (writeHdr c h s)) c (.committed 1)
      let v := canSt s k
      canRxRise k (v.rxq.length + 1) (setCan s k { v with rxq := v.rxq ++ [c], rxLost := false })

/-- Deliver a staged frame (R601). -/
def canDeliver (k : Nat) (f : CanStaged) (stamp : DWord) (s : State) : State :=
  let v := canSt s k
  let b4 : Byte := (f.b4 &&& 0x3F) ||| (if k = 1 then 0x80 else 0) ||| (if v.stageLost then 0x40 else 0)
  let r := bytesLE 4 f.head.toNat ++ [b4] ++ bytesLE 3 f.btc.toNat ++ bytesLE 8 stamp.toNat ++ f.data
  let s := setCan s k { v with stageLost := false }
  let s := if bit f.act 30 then canFifoPut k r stamp s else s
  let s := if bit f.act 29 then (emqPut (bits f.act 28 25) 3 s.nodeId r s).2 else s
  let s := (List.range 4).foldl (fun s m => if bit f.act (21 + m) then (hmbOut m 3 s.nodeId r none s).2 else s) s
  if bit f.act 20 then
    let tk := bits f.act 19 18
    tunSend false (bits f.act 11 0) (if tk = 0 then 0 else if tk = 1 then 3 else 2) 0 (292 + k)
      (bits f.act 15 12) (if tk = 0 then stamp else 0) r s
  else s

/-- The frame goes back onto a CAN bus of this node, through gate 93 (R601). -/
def canLoops (s : State) (f : CanStaged) : Bool :=
  bit f.act 20 && decide (bits f.act 19 18 = 0) && (decide (bits f.act 11 0 = 0) || decide (bits f.act 11 0 = s.nodeId))

/-- CAN_FRAME_DELIVER: the switch takes the frame at the head of gate 92, one of controller k, once it holds a pair of the CAN clock (R162,
R601); one for a bus of this node waits while gate 93 is full (R143). -/
def execCanFrameDeliver (k : Nat) (s : State) : Host.Outcome State Fault Refusal :=
  match s.canGate with
  | [] => .next s
  | (j, f) :: r =>
    if decide (j ≠ k) || !awake s || (canLoops s f && !canRecRoom s) then .next s
    else
      match ftOfCount s canClock f.count with
      | some t => .next (canDeliver k f t (canStages { s with canGate := r }))
      | none => .next s

/-- The words of the KIND 3 item of a cell (R603). -/
def canItem (s : State) (c : Nat) : List Word := itemWords 3 s.nodeId (cellText s c)

/-- Items at the head of the receive FIFO with an uncorrectable word are discarded whole (R715), of at most n. -/
def canRxGood (k : Nat) : Nat → State → State
  | 0, s => s
  | n + 1, s =>
    match (canSt s k).rxq with
    | [] => s
    | c :: r =>
      let (bad, s) := eccChain c s
      if bad then canRxGood k n (releaseRef c (setCan s k { canSt s k with rxq := r, rxPos := 0 })) else s

/-- A word is read from the receive FIFO (R163, R603): the word, and the state. -/
def canRxTake (k : Nat) (s : State) : Word × State :=
  let s := canRxGood k (canSt s k).rxq.length s
  let v := canSt s k
  match v.rxq with
  | [] => (v.rxLast, setBit s (aCan k 0x58) 3)
  | c :: r =>
    let ws := canItem s c
    let w := ws.getD v.rxPos 0
    (w, if ws.length ≤ v.rxPos + 1 then releaseRef c (setCan s k { v with rxq := r, rxPos := 0, rxLast := w })
        else setCan s k { v with rxPos := v.rxPos + 1, rxLast := w })

/-- CAN_RX_READ: one word of the receive FIFO (R163, R603); in Stabled it removes nothing (R145). -/
def execCanRxRead (k : Nat) (s : State) : Host.Outcome State Fault Refusal := .next (if awake s then (canRxTake k s).2 else s)

/-- Empty the receive FIFO (R163). -/
def canRxFlush (k : Nat) (s : State) : State :=
  let v := canSt s k
  v.rxq.foldl (fun s c => releaseRef c s) (setCan s k { v with rxq := [], rxPos := 0, rxLast := 0 })

/-! ### Transmitting (R604–R609, R615, R616) -/

/-- CAN_TX_REQUEST: a write of TXB[b].CTL with REQ = 1 (R604, R624). -/
def execCanTxRequest (k b : Nat) (v : Word) (s : State) : Host.Outcome State Fault Refusal :=
  if k ≥ 2 ∨ b ≥ 64 ∨ ¬ awake s then .next s
  else if bit v 30 then .next (canCfgErr k s)
  else
    let a := aTxb k b 0x7C
    let s := putBit (putBit s a 29 (bit v 29)) a 28 (bit v 28)
    if txbState s k b ≠ 0 then .next s
    else
      let r := txbRec s k b
      if recRejected s k r then .next (setResult k b 4 s) else .next (txbPend k b s)

/-- CAN_TX_ABORT: a write of TXB[b].CTL with ABORT = 1 (R608, R624). -/
def execCanTxAbort (k b : Nat) (v : Word) (s : State) : Host.Outcome State Fault Refusal :=
  if k ≥ 2 ∨ b ≥ 64 ∨ ¬ awake s then .next s
  else if bit v 31 then .next (canCfgErr k s)
  else if txbState s k b = 0 then .next s
  else
    let a := aTxb k b 0x7C
    let s := putBit (putBit s a 29 (bit v 29)) a 28 (bit v 28)
    let st := txbState s k b
    if st = 1 ∨ st = 3 then .next (txbFree k b 2 s)
    else if st = 2 then .next (setCan s k { canSt s k with aborts := b :: (canSt s k).aborts.filter (· ≠ b) })
    else .next s

/-- A dropped record (R609). -/
def recDrop (k : Nat) (s : State) : State := canFlag k 10 (errInc s (aCan k 0x74))

/-- Bytes 04 bits 7:5 and 05–0F of a tunnelled record are taken as 0 (R609). -/
def tunRecord (r : List Byte) : List Byte := r.take 4 ++ [recByte r 4 &&& 0x1F] ++ List.replicate 11 0 ++ r.drop 16

/-- Place a record in a transmit buffer (R609). -/
def recPlace (k : Nat) (mailbox : Bool) (r : List Byte) (s : State) : State :=
  let r := if mailbox then r else if r.length < 16 then r else tunRecord r
  if recRejected s k r ∨ canState s k = 0 then recDrop k s
  else if mailbox && (recByte r 5).getLsbD 6 then
    let b := (recByte r 5).toNat % 64
    if isSentBuf s k b then recDrop k s
    else if txbState s k b = 2 then
      setCan s k { canSt s k with repl := tabPut (canSt s k).repl b r }
    else txbLoad k b r s
  else
    let lo := fld s (aCan k 0x20) 5 0
    match (List.range 64).find? (fun b => decide (lo ≤ b) && decide (txbState s k b = 0) && decide (fld s (aCan k 0x28) 5 0 ≠ b)) with
    | some b => txbLoad k b r s
    | none => recDrop k s

/-- CAN_RECORD_LOAD: controller k takes the record at the head of gate 93 when it is one for it (R609). -/
def execCanRecordLoad (k : Nat) (s : State) : Host.Outcome State Fault Refusal :=
  match s.recGate with
  | [] => .next s
  | (j, mailbox, r) :: rest => if decide (j = k) && awake s then .next (recPlace k mailbox r { s with recGate := rest }) else .next s

/-- The arbitration field of a frame as a number; the smaller wins (R605). -/
def arbKey (w0 : Word) : Nat :=
  if bit w0 30 then bits w0 28 18 * 2 ^ 21 + 2 ^ 20 + 2 ^ 19 + bits w0 17 0 * 2 + b2n (bit w0 29)
  else bits w0 10 0 * 2 ^ 21 + b2n (bit w0 29) * 2 ^ 20

/-- The most urgent of some buffers (R605). -/
def arbBest (s : State) (k : Nat) (bs : List Nat) : Option Nat :=
  bs.foldl (fun best b =>
    match best with
    | none => some b
    | some m => if arbKey (getReg s (aTxb k b 0)) < arbKey (getReg s (aTxb k m 0)) then some b else some m) none

/-- A buffer may be offered (R605, R616): it is PENDING, or SUSPENDED and its turn of the lone retry has come. An FD frame is sent only
while FDEN is 1 (R590) and waits otherwise (DEDUCED, log entry 75). -/
def txbOffered (s : State) (k b : Nat) : Bool :=
  (decide (txbState s k b = 1) || (decide (txbState s k b = 3) && (canSt s k).offers.contains b)) &&
  (!flag s (aTxb k b 0) 31 || flag s (aCan k 0x00) 1)

/-- Choose and offer (R605, R616): stale frames are dropped and the choice is made again. -/
def arbitrate (k : Nat) : Nat → State → State
  | 0, s => s
  | n + 1, s =>
    let v := canSt s k
    match arbBest s k ((List.range 64).filter (fun b => txbOffered s k b)) with
    | none => s
    | some b =>
      if isStale s (getReg s (aTxb k b 0x08)).toNat then
        arbitrate k n (txbFree k b 3 (canFlag k 9 (errInc s (aCan k 0x78))))
      else
        let lone := decide (txbState s k b = 3)
        canSusp k (setTxb k b 2 (setCan s k { v with lone := lone, offers := v.offers.filter (· ≠ b) }))

/-- CAN_ARBITRATION: the start of an arbitration (R605). -/
def execCanArbitration (k : Nat) (s : State) : Host.Outcome State Fault Refusal :=
  if canOn s k && (txbIn s k 2).isEmpty && !(canSt s k).initPend then .next (arbitrate k 64 s) else .next s

/-- CAN_TX_DONE: the ACTIVE frame is sent (R607, R612, R616); its SOF bit was sampled `ago` CAN clocks ago, `delay` after its start of
frame (R599). -/
def execCanTxDone (k ago delay : Nat) (s : State) : Host.Outcome State Fault Refusal :=
  match txbIn s k 2 with
  | [] => .next s
  | b :: _ =>
    if !canOn s k then .next s
    else
      let btc := btcBefore s k (ago + delay)
      let s := match ftOfCount s canClock (s.time.canCount - wd (ago + delay)) with
        | some t => setReg (setReg s (aTxb k b 0x50) (lo32 t)) (aTxb k b 0x54) (hi32 t)
        | none => s
      let s := trafInc (setReg s (aTxb k b 0x58) btc) (aCan k 0x64)
      let s := if flag s (aTxb k b 0x7C) 29 then canFlag k 8 s else s
      let s := canErrs k (canTec s k - 1) (canRec s k) s
      let s := canUnsuspend k (txbReplace k b (txbFree k b 1 (setCan s k { canSt s k with lone := false })))
      .next (canFrameEnd k s)

/-- The buffer of a failed attempt (R606, R608, R615, R616): freed when it has only one attempt or was aborted, SUSPENDED at the limit of
consecutive ACK errors or after a lone retry, else PENDING. A frame that waits to replace it is loaded into it in every case (R609); a
buffer that is not freed keeps its state. -/
def txFailBuffer (k b : Nat) (s : State) : State :=
  let v := canSt s k
  let cnt := tabGet (fun _ => 0) v.ackCnt b
  let s := setCan s k { v with lone := false }
  txbReplace k b
    (if flag s (aTxb k b 0x7C) 28 || v.aborts.contains b then txbFree k b 2 s
     else if v.lone then canSusp k (setTxb k b 3 s)
     else if cnt ≠ 0 ∧ fld s (aCan k 0x1C) 7 0 ≤ cnt then canFlag k 14 (errInc (canSusp k (setTxb k b 3 s)) (aCan k 0x84))
     else setTxb k b 1 s)

/-- The ACK-error count of a buffer after an attempt (R615). -/
def ackCount (k b : Nat) (ack : Bool) (s : State) : State :=
  let v := canSt s k
  setCan s k { v with ackCnt := tabSet (fun _ => 0) v.ackCnt b (if ack then tabGet (fun _ => 0) v.ackCnt b + 1 else 0) }

/-- How TEC rises at an error of a transmitter (R612): by 8; not for a stuff error in the arbitration field, nor for an ACK error of an
error-passive node that sees no dominant bit in its error flag; and by 8 for each further case that ISO 11898-1 counts in the flag. -/
def tecRise (s : State) (k : Nat) (how : TxFail) (more : Nat) : Nat :=
  (match how with
    | .arbitration => 0
    | .stuff => 0
    | .ack dominant => if canState s k = 2 ∧ !dominant then 0 else 8
    | .other => 8) + 8 * more

/-- An attempt of the ACTIVE buffer b ends in an error. One that takes the node to bus-off returns the buffer to PENDING, whatever it was
set to do (R612), but for a frame that was aborted, which is never sent again (R608); a frame that waits to replace it is loaded. -/
def txError (k b : Nat) (how : TxFail) (more : Nat) (s : State) : State :=
  let ack := match how with
    | .ack _ => true
    | _ => false
  let s := ackCount k b ack (errInc s (aCan k 0x88))
  let s := canErrs k (canTec s k + tecRise s k how more) (canRec s k) s
  canFrameEnd k
    (if txbState s k b = 2 then txFailBuffer k b s
     else
       let s := setCan s k { canSt s k with lone := false }
       txbReplace k b (if (canSt s k).aborts.contains b then txbFree k b 2 s else s))

/-- CAN_TX_FAIL: the ACTIVE frame loses arbitration or ends in an error (R606, R612, R615). After a lost arbitration the winner's frame
goes on, so that a pending INIT waits for its end (R592). -/
def execCanTxFail (k : Nat) (how : TxFail) (more : Nat) (s : State) : Host.Outcome State Fault Refusal :=
  match txbIn s k 2 with
  | [] => .next s
  | b :: _ =>
    if k ≥ 2 ∨ ¬ awake s then .next s
    else if how = .arbitration then .next (txFailBuffer k b (ackCount k b false (trafInc s (aCan k 0x8C))))
    else .next (txError k b how more s)

/-- CAN_LONE_RETRY: every SUSPENDED buffer is offered once (R616). -/
def execCanLoneRetry (k : Nat) (s : State) : Host.Outcome State Fault Refusal :=
  if canOn s k then .next (setCan s k { canSt s k with offers := txbIn s k 3 }) else .next s

end Sys2Proof.Machine
end

