-- ==== Sys2Proof/Machine/Gates.lean ====
section
/-!
DEFINITION. The gate catalogue and one-sided resets (R143, R149–R156).
-/
namespace Sys2Proof.Machine

/-- GATE[g].STAT.KIND (R143, R155): 0 FIFO, 1 pulse, 2 value, 3 unused. DESIGN CHOICE: the gate numbers of reserved events (186, 187, 214,
215, 230, 231, 237–239, and 232–236 in a BX2560-M0) carry no event and show 11b (log entry 74). -/
def gateKind (s : State) (g : Nat) : Nat :=
  if !s.m4 && [16, 33, 272, 296, 316].contains g then 3
  else if g ≤ 113 then 0
  else if 128 ≤ g ∧ g ≤ 255 then (if evtDirect (g - 128) || evtReserved s (g - 128) then 3 else 1)
  else if 256 ≤ g ∧ g ≤ 273 then 1
  else if (280 ≤ g ∧ g ≤ 298) ∨ (300 ≤ g ∧ g ≤ 318) then 2
  else 3

/-- The column "Reset alone" of R143: whether the source (`dst` = false) or the destination of gate g can be reset while the other side
runs. -/
def resetsAlone (g : Nat) (dst : Bool) : Bool :=
  if g ≤ 33 then false
  else if g ≤ 37 then dst
  else if g ≤ 41 then !dst
  else if g ≤ 45 then true
  else if g ≤ 63 then dst
  else if g ≤ 85 then !dst
  else if g ≤ 89 then dst
  else if g ≤ 93 then decide (dst = decide (g % 2 = 1))
  else if g ≤ 95 then false
  else if g ≤ 113 then dst
  else if g ≤ 255 then decide (128 ≤ g) && !dst
  else if g = 273 ∨ g = 317 ∨ g = 318 then dst
  else decide (g = 297) && !dst

/-- The 16-byte words that wait in ring-to-switch gate 38 + m: header and payload of each frame (log entry 24). -/
def inqWords (s : State) (m : Nat) : Nat := ((tabGet (fun _ => []) s.ring.inq m).map (frameWords s)).sum

/-- The 16-byte words of the whole frames in the forwarding gate of transmitter m. -/
def fwdWords (s : State) (m : Nat) : Nat := ((tabGet (fun _ => []) s.ring.fwd m).map (fun w => (w.bytes.length + 15) / 16)).sum

/-- The logical engine on physical engine e; 16 for none. -/
def engOn (s : State) (e : Nat) : Nat := ((List.range 16).find? (fun l => decide (fld s (aEng l 0x04) 28 24 = e))).getD 16

/-- The responses that wait in gate 46 + e for the contexts of logical engine l (R396); a dispatch crosses the gate within its command. -/
def responsesHeld (s : State) (l : Nat) : Nat :=
  ((List.range 8).filter (fun c => match (tabGet (fun _ => {}) (tabGet (fun _ => {}) s.engs l).ctxs c).blk with
    | some b => b.res.isSome && !b.space
    | none => false)).length

/-- The characters of port n's started sentence that stand in gate 17 + k, at most eight: the next ones that may be sent. They are read from
the store when the slice takes them, which no one can tell from an earlier read (log entry 74). -/
def charsAhead (s : State) (n : Nat) : Nat :=
  match (queue s n).started with
  | none => 0
  | some t => ((List.range 8).takeWhile (fun j => match txNext s { t with pos := t.pos + j, tail := t.tail.map (·.drop j) } with
    | .char _ _ => true
    | _ => false)).length

/-- The items a FIFO gate holds. Gates 90, 91, 94 and 95 hand their items on within one command and hold none between commands (log
entry 74). -/
def gateHeld (s : State) (g : Nat) : Nat :=
  if g ≤ 16 then ((List.range 16).map (fun j => ((slice s (16 * g + j)).rxq.filter (fun i => !i.marker && i.mode.isNone)).length)).sum
  else if g ≤ 33 then ((List.range 16).map (fun j => charsAhead s (16 * (g - 17) + j))).sum
  else if g ≤ 37 then gateWords s (g - 34)
  else if 38 ≤ g ∧ g ≤ 41 then inqWords s (g - 38)
  else if 42 ≤ g ∧ g ≤ 45 then fwdWords s (partner (g - 42))
  else if 46 ≤ g ∧ g ≤ 63 then responsesHeld s (engOn s (g - 46))
  else if 64 ≤ g ∧ g ≤ 81 then min 16 (tabGet (fun _ => {}) s.engs (engOn s (g - 64))).gate.length
  else if 82 ≤ g ∧ g ≤ 89 then (fifo s (g - 82)).words.length
  else if g = 92 then s.canGate.length
  else if g = 93 then s.recGate.length
  else if 96 ≤ g ∧ g ≤ 113 then min 4 (fifo s (fEmq (engOn s (g - 96)))).words.length
  else 0

/-- The items a FIFO gate can hold (R143), for the gates that a side of which can be reset alone. -/
def gateDepth (g : Nat) : Nat :=
  if 34 ≤ g ∧ g ≤ 41 then 64
  else if 42 ≤ g ∧ g ≤ 45 then 32
  else if 82 ≤ g ∧ g ≤ 89 then 512
  else if 96 ≤ g ∧ g ≤ 113 then 4
  else 16

/-- A copy that was being passed on through a gate that is reset has lost its bytes: it ends with ABORT. -/
def copyCut : TxCopy → TxCopy
  | .onward e none => .onward e (some (false, []))
  | c => c

/-- Discard what a gate holds (R149). A value gate whose source is reset delivers the reset value, and the CAN paddock's count starts at
zero (R151, R157). -/
def gateDiscard (g : Nat) (s : State) : State :=
  if 34 ≤ g ∧ g ≤ 37 then setTxQ (g - 34) ((txQ s (g - 34)).filter (fun f => !f.inGate)) s
  else if 38 ≤ g ∧ g ≤ 41 then { s with ring := { s.ring with inq := tabDel s.ring.inq (g - 38) } }
  else if 42 ≤ g ∧ g ≤ 45 then
    let v := tabGet (fun _ => {}) s.ring.links (g - 42)
    let w := tabGet (fun _ => {}) s.ring.tx (partner (g - 42))
    { s with ring := { s.ring with
        fwd := tabDel s.ring.fwd (partner (g - 42)),
        tx := tabSet (fun _ => {}) s.ring.tx (partner (g - 42)) { cur := w.cur.map copyCut, susp := w.susp.map copyCut },
        links := tabSet (fun _ => {}) s.ring.links (g - 42) { v with rx := v.rx.map (fun f => { f with gone := true }) } } }
  else if 46 ≤ g ∧ g ≤ 63 then
    let l := engOn s (g - 46)
    let v := tabGet (fun _ => {}) s.engs l
    let drop := fun (c : CtxSt) => { c with blk := c.blk.map (fun b => if b.space then b else { b with res := none }) }
    { s with engs := tabSet (fun _ => {}) s.engs l { v with ctxs := tabMap (fun _ => {}) drop v.ctxs } }
  else if 64 ≤ g ∧ g ≤ 81 then
    let v := tabGet (fun _ => {}) s.engs (engOn s (g - 64))
    { s with engs := tabSet (fun _ => {}) s.engs (engOn s (g - 64)) { v with gate := v.gate.drop 16 } }
  else if 82 ≤ g ∧ g ≤ 89 then
    let f := g - 82
    let s := (fifo s f).holds.foldl (fun s h => releaseRef h.2 s) s
    setFifo s f {}
  else if 96 ≤ g ∧ g ≤ 113 then
    let f := fEmq (engOn s (g - 96))
    let t := iter (fun s => (fifoRead f s).2) (gateHeld s g) s
    setFifo t f { fifo t f with last := (fifo s f).last }
  else if g = 92 then { s with canGate := [] }
  else if g = 93 then { s with recGate := [] }
  else if 128 ≤ g ∧ g ≤ 273 then setPulse (g - 128) .idle s
  else if g = 297 then { s with time := { s.time with latched := tabDel s.time.latched canClock, canCount := 0, canAcc := 0 } }
  else s

/-- Set PEER_RST with the side that was reset and event 101 (R150, R155, R156). -/
def peerRst (g : Nat) (dst unc : Bool) (s : State) : State :=
  let s := putBit s (aGateStat g) 4 dst
  let s := if unc then setBit s (aGateStat g) 2 else s
  stickyRaise (aGateStat g) 1 101 s

/-- The reset side's epoch bit toggles (R149). -/
def epochFlip (g : Nat) (dst : Bool) (s : State) : State :=
  let k := 2 * g + b2n dst
  { s with epochs := tabSet (fun _ => false) s.epochs k (!tabGet (fun _ => false) s.epochs k) }

/-- The surviving side takes note of a reset of the other side (R150): the items proved lost, and PEER_RST. In Stabled it does so when its
clock has returned (R145). -/
def peerNote (d : PeerDue) (s : State) : State := peerRst d.gate d.dst d.unc (errAdd s (aGateLost d.gate) d.lost)

/-- The surviving side takes note of a reset, now or after the wake. -/
def peerTold (d : PeerDue) (s : State) : State :=
  if s.power.phase = .stabled then { s with peerDue := s.peerDue ++ [d] } else peerNote d s

/-- What a reset of one side of a FIFO gate proves lost, and whether more may have been (R150). The gate holds the items of gateHeld and
`part` words of a frame that is still being written or read. The surviving side's pointer of the other side lags: `lag` items that a reset
writer wrote are not seen by the reader, or `lag` reads of a reset reader are not seen by the writer, which never sees more than the depth
held; `recent` says that the synchronised write pointer changed in the last 4 reader clocks. -/
def fifoLoss (g : Nat) (dst : Bool) (lag : Nat) (recent : Bool) (part : Nat) (s : State) : Nat × Bool :=
  let n := gateHeld s g + min part (gateDepth g - gateHeld s g)
  let seen := min (gateDepth g) (n + lag)
  if dst then (seen - 4, decide (0 < seen)) else (n - lag, recent)

/-- One side of gate g is reset while the other runs (R149–R151); during a reset of the node both sides are reset together (R153). -/
def gateReset (g : Nat) (dst : Bool) (lag : Nat) (recent : Bool) (part : Nat) (s : State) : State :=
  let kind := gateKind s g
  if kind = 3 ∨ !resetsAlone g dst ∨ s.power.phase = .off then s
  else
    let s := epochFlip g dst s
    if kind = 0 then
      let (lost, unc) := fifoLoss g dst lag recent part s
      peerTold { gate := g, dst := dst, lost := lost, unc := unc } (gateDiscard g s)
    else if kind = 1 then
      (if pulseSt s (g - 128) = .idle then s else peerTold { gate := g, dst := dst, lost := 0, unc := true } (gateDiscard g s))
    else peerTold { gate := g, dst := dst, lost := 0, unc := false } (if dst then s else gateDiscard g s)

/-- GATE_PEER_RESET: the source (`dst` = false) or the destination of gate g is reset while the other side runs (R149–R151); a side that
R143 does not let be reset alone is not. `lag`, `recent` and `part` are those of fifoLoss. -/
def execGatePeerReset (g : Nat) (dst : Bool) (lag : Nat) (recent : Bool) (s : State) (part : Nat := 0) :
    Host.Outcome State Fault Refusal :=
  .next (gateReset g dst lag recent part s)

/-- The recovered clock of ring link m is lost: its paddock is reset, and so is its side of gates 34 + m, 38 + m and 42–45 (R148, R149).
How far the pointers lag is an open value. -/
def paddockReset (m : Nat) (s : State) : State :=
  [(34 + m, true), (38 + m, false), (42 + m, false), (42 + partner m, true)].foldl (fun s g =>
    let (f, s) := takeFree s
    gateReset g.1 g.2 (f % 5) (decide (f / 5 % 2 = 1)) (f / 10 % 65) s) s

end Sys2Proof.Machine
end

