-- ==== Sys2Proof/Machine/Switch.lean ====
section
/-!
DEFINITION. The switch's own commands: host mailboxes and message FIFOs (R163–R177), the pool (R267), table banks and staged
updates (R294–R301), the sweep (R322).
-/
namespace Sys2Proof.Machine

/-- A refused write of the switch unit (R36, R265). -/
def swCfgErr (s : State) : State := setBit s (aSw 0x00) 0

/-! ### Mailboxes and message FIFOs -/

/-- HMB_IN_WRITE: the host writes HMB[m].IN_DATA (R163). In Stabled the write is answered with HRTY_N and has no effect (R174), and while
VHB has failed it is not answered (R662). -/
def execHmbInWrite (m : Nat) (v : Word) (s : State) : Host.Outcome State Fault Refusal :=
  if m ≥ 4 ∨ ¬ awake s ∨ s.power.vhb = 0 then .next s
  else if fifoDepth (fIn m) ≤ (fifo s (fIn m)).words.length then .next (setBit s (fifoStat (fIn m)) 2)
  else .next (fifoAppend (fIn m) [v] none s)

/-- A read of a FIFO's data register: an uncorrectable word is an error response and removes nothing (R38, R715). -/
def fifoTake (f : Nat) (s : State) : State :=
  let (bad, s) := fifoEcc f 1 s
  if bad then s else (fifoRead f s).2

/-- HMB_OUT_READ: a read of HMB[m].OUT_DATA (R163, R172); in Stabled it removes nothing (R145). -/
def execHmbOutRead (m : Nat) (s : State) : Host.Outcome State Fault Refusal :=
  if m < 4 ∧ awake s then .next (fifoTake (fOut m) s) else .next s

/-- EMQ_RDATA_READ: a read of EMQ[L].RDATA (R163, R176); in Stabled it removes nothing (R145). -/
def execEmqRdataRead (l : Nat) (s : State) : Host.Outcome State Fault Refusal :=
  if l < 16 ∧ awake s then .next (fifoTake (fEmq l) s) else .next s

/-- A write of the CTL register of a FIFO (R170): a LEVEL or CTT above DEPTH is refused. `cfg` is the refusal of its block. -/
def fifoCtlWrite (f : Nat) (v : Word) (cfg : State → State) (s : State) : State :=
  if fifoDepth f < bits v 9 0 ∨ fifoDepth f < bits v 25 16 then cfg s
  else
    let s := setReg s (fifoCtl f) (v &&& 0x03FF03FF)
    if bit v 31 then fifoFlush f s else s

/-- CAN[k].RX_CTL (R603): DEPTH is 128 frames. -/
def canRxCtlWrite (k : Nat) (v : Word) (s : State) : State :=
  if 128 < bits v 9 0 ∨ 128 < bits v 25 16 then canCfgErr k s
  else
    let s := setReg s (aCan k 0x54) (v &&& 0x03FF03FF)
    if bit v 31 then canRxFlush k s else s

/-- An inbound item that is not valid for its FIFO (R165). -/
def itemBad (h : Word) : Bool :=
  let kind := bits h 31 28
  let len := bits h 8 0
  let dest := bits h 27 16
  decide (bits h 15 9 ≠ 0) ||
  (if kind = 0 then decide (352 < len) || decide (dest ≠ 0)
   else if kind = 1 then decide (252 < len) || decide (dest / 16 ≠ 0)
   else if kind = 2 then decide (368 < len)
   else if kind = 3 then decide (80 < len) || decide (dest ≠ 0)
   else true)

/-- Parse a body as sentences of source 288 + m followed by CR LF (R253): whether a unit was rejected, whether one was
committed. -/
def parseBody (src : Nat) (stamp : DWord) : List Byte → Parsed → State → Parsed × State
  | [], p, s => (p, s)
  | b :: r, p, s =>
    let (q, s) := parseChar [] src b.toNat stamp s
    parseBody src stamp r { rejected := p.rejected || q.rejected, committed := p.committed || q.committed } s

/-- A KIND 0 item with its STAMP (R253). The flag says that the item is counted as rejected. -/
def mailboxSentence (m : Nat) (stamp : DWord) (body : List Byte) (s : State) : Bool × State :=
  let src := 288 + m
  let (p, s) := parseBody src stamp (body ++ [0x0D, 0x0A]) {} (setParser s src {})
  (p.rejected || !p.committed, setParser s src {})

/-- HMB_INBOUND_ITEM: the switch takes the whole item at the head of an inbound FIFO, or starts on one of which CTT words are present
(R165, R166, R168); STAMP is the FTIME at which it takes the header (R253). A CAN frame waits while gate 93 is full (R143). An item with an
uncorrectable word is discarded whole (R715). -/
def execHmbInboundItem (m : Nat) (s : State) : Host.Outcome State Fault Refusal :=
  if m ≥ 4 ∨ ¬ awake s then .next s
  else
    let f := fIn m
    match fifoHead s f with
    | none =>
      let ctt := fld s (fifoCtl f) 25 16
      if ctt ≠ 0 ∧ ctt ≤ (fifo s f).words.length ∧ !(fifo s f).begun then
        .next (setFifo s f { fifo s f with begun := true, startAt := s.time.ft })
      else .next s
    | some (h, body, n) =>
      if !itemBad h && decide (bits h 31 28 = 3) && !canRecRoom s then .next s else
      let (err, s) := fifoEcc f n s
      if err then .next (fifoDropWords f n s) else
      let stamp := if (fifo s f).begun then (fifo s f).startAt else s.time.ft
      let s := trafInc (fifoDropWords f n s) (aHmb m 0x18)
      let reject := fun (s : State) => errInc s (aHmb m 0x20)
      if itemBad h then .next (reject s)
      else
        let kind := bits h 31 28
        let dest := bits h 27 16
        if kind = 0 then
          let (bad, s) := mailboxSentence m stamp body s
          .next (if bad then reject s else s)
        else if kind = 1 then .next (emqPut dest 1 s.nodeId body s).2
        else if kind = 2 then
          if dest = 0xFFF ∨ (dest ≠ 0 ∧ dest ≠ s.nodeId ∧ ¬ originates s) then .next (reject s)
          else .next (tunSend false dest 2 0 (288 + m) m 0 body s)
        else
          let k := b2n ((recByte body 4).getLsbD 7)
          .next (canRecPut k true body s)

/-! ### The pool -/

/-- POOL_RSV_WRITE: a write of SW.POOL_RSV (R267). -/
def execPoolRsvWrite (v : Word) (s : State) : Host.Outcome State Fault Refusal :=
  let r := bits v 15 0
  if !awake s then .next s
  else if 32768 < r ∨ s.cells.any (fun e => decide (poolRsv s ≤ e.1)) then .next (swCfgErr s)
  else .next (poolNote (poolFree s) (setReg s (aSw 0x08) (wd r)))

/-! ### Table banks (R295–R301) -/

/-- The banks are exchanged (R296). -/
def swapBanks (s : State) : State :=
  let t := s.tables
  let s := { s with tables := { t with active := !t.active } }
  raise 23 (trafInc (putBit s (aSw 0x200) 0 s.tables.active) (aSw 0x218))

/-- A write of SW.TBL_CTL (R296, R297, R304). -/
def tblCtlWrite (v : Word) (s : State) : State :=
  if (bit v 2 && bit v 3) || ((bit v 2 || bit v 3) && s.tables.busy) then swCfgErr s
  else
    let s := putBit s (aSw 0x200) 1 (bit v 1)
    if bit v 2 then swapBanks s
    else if bit v 3 then { setBit s (aSw 0x200) 4 with tables := { s.tables with busy := true } }
    else s

/-- TABLE_SWAP: a write of SW.TBL_CTL with SWAP = 1 (R296). -/
def execTableSwap (v : Word) (s : State) : Host.Outcome State Fault Refusal :=
  .next (if awake s then tblCtlWrite (v ||| 4) s else s)

/-- TABLE_COPY: a write of SW.TBL_CTL with COPY = 1 (R297). -/
def execTableCopy (v : Word) (s : State) : Host.Outcome State Fault Refusal :=
  .next (if awake s then tblCtlWrite (v ||| 8) s else s)

/-- TABLE_COPY_DONE: the copy ends (R297). -/
def execTableCopyDone (s : State) : Host.Outcome State Fault Refusal :=
  if awake s && s.tables.busy then
    let s := copyBanks s
    .next { clrBit s (aSw 0x200) 4 with tables := { s.tables with busy := false } }
  else .next s

/-- Replace an entry of the active bank (R298): none when R300 refuses it. -/
def stageEntry (tbl i : Nat) (ws : List Word) (clrHits clrDec : Bool) (s : State) : Option State :=
  if 2 < tbl ∨ tblCount tbl ≤ i ∨ s.tables.busy ∨ imageRefused s tbl i ws then none
  else
    let s := tblReplace s.tables.active tbl i ws clrHits s
    some (if clrDec ∧ tbl = 0 then rtdPut i 0 s else s)

/-- A write of SW.STG_CMD (R298–R300, R305): TABLE 11b is a reserved encoding, and such a write keeps the register (R36). -/
def stgCmdWrite (v : Word) (s : State) : State :=
  let s := if bits v 25 24 = 3 then s
           else setReg s (aSw 0x204) ((v &&& 0x33000FFF) ||| (getReg s (aSw 0x204) &&& 0x40000000))
  if !bit v 31 then (if bits v 25 24 = 3 then swCfgErr s else s)
  else
    let ws := (List.range 16).map (fun w => getReg s (aSw (0x240 + 4 * w)))
    match stageEntry (bits v 25 24) (bits v 11 0) ws (bit v 29) (bit v 28) s with
    | some s => clrBit s (aSw 0x204) 30
    | none => swCfgErr (setBit s (aSw 0x204) 30)

/-- The HITS of entry i of a table as a commit of the same clock leaves it: the value written plus one (R40, R301). -/
def hitMeets (tbl i : Nat) (s : State) : State :=
  match tblHits tbl with
  | some o => tblPut s s.tables.active tbl (i * tblEntry tbl + o) 1
  | none => s

/-- STAGED_UPDATE: a write of SW.STG_CMD with GO = 1 (R298). `counted` says that a commit of the same clock, whose command came just
before, has counted the entry: with CLRHITS its HITS then becomes 1. That commit has decided with the old RTD (R301). -/
def execStagedUpdate (v : Word) (s : State) (counted : Bool := false) : Host.Outcome State Fault Refusal :=
  if !awake s then .next s
  else
    let s := stgCmdWrite (v ||| 0x80000000) s
    .next (if counted && bit v 29 && !flag s (aSw 0x204) 30 then hitMeets (bits v 25 24) (bits v 11 0) s else s)

/-! ### The sweep -/

/-- The length of a pass of so many tests in whole µs: 2 switch clocks (4 ns) for each test at least, and at most 140 µs (R322). What the
visits of empty queues take is an open value. -/
def sweepLength (tests f : Nat) : Nat :=
  let low := min (4 * tests / 1000) 140
  low + f % (141 - low)

/-- SWEEP_PASS: the next `k` tests of the pass over the queues of ports 0–271 that runs, or of a new one, each against DNOW as it now stands
(R322); the pass ends when no sentence is left to test. In FAULT nothing is removed as stale (R671). -/
def execSweepPass (s : State) (k : Nat := 0) : Host.Outcome State Fault Refusal :=
  if inFault s ∨ ¬ awake s then .next s
  else
    let (w, s) := sweepTests k (s.sweep.getD {}) s
    match sweepAt s w with
    | some _ => .next { s with sweep := some w }
    | none =>
      let (f, s) := takeFree s
      .next (setReg { s with sweep := none } (aSw 0x284) (wd (sweepLength w.tests f)))

end Sys2Proof.Machine
end

