-- ==== Sys2Proof/Machine/Time.lean ====
section
/-!
DEFINITION. Fabric time (09_time.md): the advance of FTIME, refreshes, the setting commands, PPS and ring samples, leap
seconds, PPSOUT, link delays and the Shutter.
-/
namespace Sys2Proof.Machine

/-- Division rounded to the nearest, halves upward. -/
def roundDiv (n : Int) (d : Nat) : Int := (2 * n + (d : Int)) / (2 * (d : Int))

/-- The limit of ρ and of the integrator (R345, R357). -/
def rhoLim : Int := 2147484

/-- Clamp to ±2,147,484 (R357). -/
def clampRho (r : Int) : Int := if r < -rhoLim then -rhoLim else if rhoLim < r then rhoLim else r

/-- An integer as a 32-bit two's-complement word. -/
def wdInt (i : Int) : Word := BitVec.ofInt 32 i

/-- FTIME now, in 1/256 ns (R367). -/
def stampNow (s : State) : Nat := ftNs s.time.ft * 256 + s.time.sub / 2 ^ 23

/-- A refused write of the time unit (R36, R359). -/
def timeCfgErr (s : State) : State := setBit s (aTime 0x04) 14

/-- Change the time unit's own state. -/
def setTime (s : State) (f : TimeSt → TimeSt) : State := { s with time := f s.time }

/-- One time-paddock clock: FTIME advances by 2 ns × (1 + ρ) (R345). -/
def timeTick (s : State) : State :=
  setTime s (fun t =>
    let total : Nat := ((t.sub : Int) + 2 ^ 32 + t.rho).toNat
    { t with ft := nsFt ((ftNs t.ft + total / 2 ^ 31) % ftTurn), sub := total % 2 ^ 31, clk := t.clk + 1 })

/-! ### The state of the loop -/

/-- TIME.CTL.SRC. -/
def timeSrc (s : State) : Nat := fld s (aTime 0x00) 2 0

/-- TIME.STAT.STATE: 0 HOLD, 1 ACQ, 2 LOCK (R359). -/
def loopState (s : State) : Nat := fld s (aTime 0x04) 1 0

/-- Set TIME.STAT.STATE. -/
def setLoop (s : State) (v : Nat) : State := setFld s (aTime 0x04) 1 0 v

/-- Enter ACQ: qualification starts again and STEP_ARMED is cleared (R353). -/
def enterAcq (s : State) : State := setTime (clrBit (setLoop s 1) (aTime 0x04) 2) (fun t => { t with qual := 0, misses := 0 })

/-- A miss (R355, R356, R371): counted, with event 73; after MISS_MAX consecutive misses the loop enters ACQ, and a loop on PPSA
with PPSB as standby changes to PPSB. -/
def timeMiss (s : State) : State :=
  let s := raise 73 (setBit (errInc s (aTime 0x60)) (aTime 0x04) 9)
  let s := setTime s (fun t => { t with misses := t.misses + 1 })
  if fld s (aTime 0x30) 3 0 ≤ s.time.misses then
    let s := enterAcq s
    if timeSrc s = 3 ∧ ¬ flag s (aTime 0x04) 3 then setBit (setBit s (aTime 0x04) 3) (aTime 0x04) 8 else s
  else s

/-- TIME.OFFSET: θ as a signed 32-bit number; outside its range no value is stated (R362; log entry 12). -/
def setOffset (th : Int) (s : State) : State :=
  if -(2 ^ 31 : Int) ≤ th ∧ th < (2 ^ 31 : Int) then setReg s (aTime 0x38) (wdInt th)
  else
    let (f, s) := takeFree s
    setReg s (aTime 0x38) (wd f)

/-- The step rule of R357. The flag says that the offset lies within the threshold. -/
def stepRule (th : Int) (s : State) : Bool × State :=
  if (fld s (aTime 0x2C) 29 0 : Int) < th.natAbs then
    if flag s (aTime 0x04) 2 then
      let s := setTime (clrBit s (aTime 0x04) 2) (fun t => { t with pStep := some (t.pStep.getD 0 - th) })
      (false, setLoop (raise 74 (setBit (errInc s (aTime 0x6C)) (aTime 0x04) 12)) 2)
    else (false, setBit s (aTime 0x04) 2)
  else (true, clrBit s (aTime 0x04) 2)

/-- The loop update of R357. -/
def slew (th : Int) (s : State) : State :=
  let ths := roundDiv (th * 2 ^ 32) 1000000000
  let i := clampRho (s.time.integ - ths / 2 ^ (fld s (aTime 0x30) 20 16))
  let r := clampRho (i - ths / 2 ^ (fld s (aTime 0x30) 28 24))
  setLoop (setTime s (fun t => { t with integ := i, pRho := some r })) 2

/-- What every accepted sample does (R357): CNT_SAMPLES, OFFSET, event 72; it ends a run of misses. -/
def sampleTaken (th : Int) (s : State) : State :=
  setTime (raise 72 (setOffset th (trafInc s (aTime 0x5C)))) (fun t => { t with misses := 0 })

/-- An accepted sample (R357). -/
def loopSample (th : Int) (s : State) : State :=
  let (ok, s) := stepRule th (sampleTaken th s)
  if ok then slew th s else s

/-! ### The Shutter (R377–R380) -/

/-- SHUT.STAT with its live fields (R380). -/
def shutStatWord (s : State) : Word :=
  let n := s.time.shut.length
  setBits (setBits (getReg s (aTime 0x104)) 25 16 n) 1 0 ((if n = 0 then 1 else 0) + (if 64 ≤ n then 2 else 0))

/-- An edge reaches the Shutter (R380). -/
def shutPut (t : DWord) (desc : Word) (s : State) : State :=
  let n := s.time.shut.length
  if 64 ≤ n then
    setTime (raise 79 (errInc (setBit s (aTime 0x104) 2) (aTime 0x11C))) (fun t => { t with shutLost := true })
  else
    let e : ShutEntry := { ft := t, desc := if s.time.shutLost then desc ||| 0x80000000 else desc }
    let s := setTime s (fun t => { t with shut := t.shut ++ [e], shutLost := false })
    if fld s (aTime 0x100) 9 0 = n + 1 then raise 76 (setBit s (aTime 0x104) 4) else s

/-- An edge stamped in a count of clock 0 (R377): it waits until the switch holds a pair (R162). -/
def shutPutCount (c desc : Word) (s : State) : State :=
  match ftOfCount s 0 c with
  | some t => shutPut t desc s
  | none => setTime s (fun t => { t with dlWait := t.dlWait ++ [(c, desc)] })

/-- SHUT.CTL (R170, R380): a LEVEL or CTT above 64 is refused; FLUSH empties the Shutter. An edge discarded before it still marks the next
entry stored (R380). -/
def shutCtlWrite (v : Word) (s : State) : State :=
  if 64 < bits v 9 0 ∨ 64 < bits v 25 16 then timeCfgErr s
  else
    let s := setReg s (aTime 0x100) (v &&& 0x03FF03FF)
    if bit v 31 then setTime s (fun t => { t with shut := [], shutLast := none }) else s

/-- SHUTTER_READ: a read of SHUT.DATA2 (R379, R380). -/
def shutRead (s : State) : Word × State :=
  match s.time.shut with
  | e :: r => (e.desc, setTime s (fun t => { t with shut := r, shutLast := some e }))
  | [] => ((s.time.shutLast.map (·.desc)).getD 0, setBit s (aTime 0x104) 3)

/-- The FTIME that DATA0 and DATA1 show (R379, R380). -/
def shutFt (s : State) : DWord :=
  match s.time.shut with
  | e :: _ => e.ft
  | [] => (s.time.shutLast.map (·.ft)).getD 0

/-- SHUTTER_READ (R379). -/
def execShutterRead (s : State) : Host.Outcome State Fault Refusal := .next (if awake s then (shutRead s).2 else s)

/-! ### Refreshes -/

/-- Apply a change of FTIME by nanoseconds. The second of the last accepted edge follows by whole seconds (log entry 13). -/
def ftShift (d : Int) (s : State) : State :=
  setTime s (fun t => { t with ft := ftAdd t.ft d,
                               accSec := t.accSec.map (fun a => ((a : Int) + roundDiv d 1000000000).toNat) })

/-- Step 1 of R349: a LOAD or an AT_SAMPLE. -/
def launchLoad (s : State) : State :=
  let s := match s.time.pLoad with
    | some v => ftShift ((ftNs v : Int) - ftNs s.time.ft) s
    | none => s
  match s.time.pSecs with
  | some d => ftShift (d * 1000000000) s
  | none => s

/-- Step 4 of R349: an armed leap second whose instant has been reached (R363). The flag says that it was applied. -/
def launchLeap (s : State) : Bool × State :=
  if flag s (aTime 0x54) 31 ∧ s.time.leapAt ≤ ftNs s.time.ft / 1000000000 then
    let s := ftShift (if flag s (aTime 0x54) 30 then 1000000000 else -1000000000) s
    (true, raise 75 (setBit (clrBit s (aTime 0x54) 31) (aTime 0x04) 13))
  else (false, s)

/-- A refresh pulse of index k enters the gate of stamping clock `clk`, gate 256 + clk (R158); a pulse merged with one on its way (R140)
leaves it the newer index (DESIGN CHOICE, log entry 74). -/
def refreshPulse (k clk : Nat) (s : State) : State :=
  let (s, ovr) := gatePulse (128 + clk) (setTime s (fun t => { t with pulseIdx := tabSet (fun _ => 0) t.pulseIdx clk k }))
  if ovr then raise 100 s else s

/-- The stamping clocks of the device (R143): a BX2560-M0 has no port paddock PP16. -/
def stampClocks (s : State) : List Nat := (List.range 18).filter (fun c => s.m4 || decide (c ≠ 16))

/-- REFRESH_LAUNCH (R158, R346, R349): the pending changes of FTIME take effect in one epoch, and the refresh is sent. -/
def execRefreshLaunch (s : State) : Host.Outcome State Fault Refusal :=
  if ¬ awake s then .next s
  else
    let t0 := s.time
    let item1 := t0.pLoad.isSome || t0.pSecs.isSome
    let s := launchLoad s
    let s := match t0.pStep with
      | some d => if item1 then s else ftShift d s
      | none => s
    let s := match t0.pAdj with
      | some d => ftShift d s
      | none => s
    let s := match t0.pSleep with
      | some d => ftShift d s
      | none => s
    let (leapt, s) := launchLeap s
    let changed := item1 || t0.pStep.isSome || t0.pAdj.isSome || t0.pSleep.isSome || leapt || t0.pRho.isSome
    let s := if item1 || t0.pAdj.isSome then clrBit s (aTime 0x20) 31 else s
    let s := setTime s (fun t =>
      let t := { t with rho := t0.pRho.getD t.rho, integ := t0.pInteg.getD t.integ, epoch := t.epoch + b2n changed,
                        pLoad := none, pSecs := none, pStep := none, pAdj := none, pSleep := none, pRho := none,
                        pInteg := none }
      { t with launches := ({ idx := t.idx, ft := t.ft, rho := t.rho, epoch := t.epoch } :: t.launches).take 16,
               idx := (t.idx + 1) % 256, dnow := wd ((ftAdd t.ft 12).toNat / 2 ^ 10) })
    .next ((stampClocks s).foldl (fun s c => refreshPulse t0.idx c s) s)

/-- Keep the first pair of each of the eight most recent epochs (R160). -/
def epochsPut (e : Nat) (p : Pair) (l : List (Nat × Pair)) : List (Nat × Pair) :=
  if l.any (fun q => decide (q.1 = e)) then l else ((e, p) :: l).take 8

/-- The switch pairs the count `c` that clock `clk` latched for index k with the refresh of that index (R160). The refresh time is the
launch plus 2.5 periods of the destination clock (R158). Edges of the discrete lines that waited for a pair of clock 0 then reach the
Shutter (R162). -/
def pairTake (clk k : Nat) (c : Word) (s : State) : State :=
  match s.time.launches.find? (fun l => decide (l.idx = k)) with
  | none => s
  | some l =>
    let p : Pair := { c := c, t4 := ftNs l.ft * 4 + (if clk = canClock then 125 else 50), rho := l.rho }
    let h := pairsOf s clk
    let s := setTime s (fun t => { t with
      pairs := tabSet (fun _ => {}) t.pairs clk { latest := some (l.epoch, p), epochs := epochsPut l.epoch p h.epochs } })
    if clk = 0 then s.time.dlWait.foldl (fun s w => shutPutCount w.1 w.2 s) (setTime s (fun t => { t with dlWait := [] }))
    else s

/-- REFRESH_PAIR (R158, R160): the refresh pulse of stamping clock `clk` has reached its paddock, which latched its count `ago` clocks
before the present one; the pair (k, Ck) has crossed the value gate, and the switch takes it. `acked` is as in EVENT_SETTING. -/
def execRefreshPair (clk : Nat) (ago : Word) (acked : Bool) (s : State) : Host.Outcome State Fault Refusal :=
  if clk > canClock ∨ ¬ awake s then .next s
  else
    match pulseSt s (128 + clk) with
    | .idle => .next s
    | .request =>
      let k := tabGet (fun _ => 0) s.time.pulseIdx clk
      let c := stampCount s clk - ago
      .next (pairTake clk k c (setTime (pulseTaken (128 + clk) acked s)
        (fun t => { t with latched := tabSet (fun _ => (0, 0)) t.latched clk (k, c) })))
    | .ack => .next (setPulse (128 + clk) .idle s)

/-! ### Setting the time (R348) -/

/-- TIME.SET_HI:SET_LO. -/
def setVal (s : State) : DWord := dword (getReg s (aTime 0x1C)) (getReg s (aTime 0x18))

/-- Whether a GO is refused (R348). -/
def setRefused (mode : Nat) (s : State) : Bool :=
  let ns := (setVal s).toNat % 2 ^ 30
  flag s (aTime 0x20) 31 || decide (mode = 3) || (decide (mode = 0) && decide (999999999 < ns)) ||
  (decide (mode = 1) && (decide (ns ≠ 0) || decide (timeSrc s = 0) || decide (timeSrc s = 4)))

/-- A write of TIME.SET_CMD (R348). -/
def setCmdWrite (v : Word) (s : State) : State :=
  let mode := bits v 1 0
  if !bit v 31 then setFld s (aTime 0x20) 1 0 mode
  else if setRefused mode s then timeCfgErr (setBit s (aTime 0x20) 30)
  else
    let s := setReg s (aTime 0x20) (wd (0x80000000 + mode))
    if mode = 0 then setTime s (fun t => { t with pLoad := some (setVal s) })
    else if mode = 1 then setTime s (fun t => { t with atSample := some ((setVal s).toNat / 2 ^ 30) })
    else setTime s (fun t => { t with pAdj := some (sgn (getReg s (aTime 0x24))) })

/-- TIME_LOAD: GO with MODE LOAD (R348). -/
def execTimeLoad (s : State) : Host.Outcome State Fault Refusal := .next (if awake s then setCmdWrite 0x80000000 s else s)

/-- TIME_AT_SAMPLE: GO with MODE AT_SAMPLE (R348). -/
def execTimeAtSample (s : State) : Host.Outcome State Fault Refusal := .next (if awake s then setCmdWrite 0x80000001 s else s)

/-- TIME_ADJUST: GO with MODE ADJUST (R348). -/
def execTimeAdjust (s : State) : Host.Outcome State Fault Refusal := .next (if awake s then setCmdWrite 0x80000002 s else s)

/-- A read of TIME.NOW_LO latches NOW_HI (R347). -/
def nowLoRead (s : State) : Word × State := (lo32 s.time.ft, setReg s (aTime 0x14) (hi32 s.time.ft))

/-- TIME_NOW_READ (R347). -/
def execTimeNowRead (s : State) : Host.Outcome State Fault Refusal := .next (if awake s then (nowLoRead s).2 else s)

/-- A write of TIME.CTL (R353, R356, R358). -/
def timeCtlWrite (v : Word) (s : State) : State :=
  let src := bits v 2 0
  if src > 4 ∨ (bit v 9 ∧ src = 4) then timeCfgErr s
  else
    let old := timeSrc s
    let s := setReg s (aTime 0x00) (v &&& 0x2C7)
    let s := putBit s (aTime 0x04) 3 (decide (src = 2))
    if src = old then s
    else
      let s := clrBit (enterAcq s) (aTime 0x74) 31
      if src = 0 then setTime (setLoop s 0) (fun t => { t with pRho := some (t.pInteg.getD t.integ) }) else s

/-- TIME_SRC_WRITE: a write of TIME.CTL (R353). -/
def execTimeSrcWrite (v : Word) (s : State) : Host.Outcome State Fault Refusal := .next (if awake s then timeCtlWrite v s else s)

/-- A write of TIME.RATE (R353, R362). -/
def timeRateWrite (v : Word) (s : State) : State :=
  if sgn v < -rhoLim ∨ rhoLim < sgn v then timeCfgErr s
  else setTime s (fun t => { t with pRho := some (sgn v), pInteg := some (sgn v) })

/-- TIME_RATE_WRITE (R353). -/
def execTimeRateWrite (v : Word) (s : State) : Host.Outcome State Fault Refusal := .next (if awake s then timeRateWrite v s else s)

/-- A write of TIME.LEAP_CTL (R363, R364): the instant is that of LEAP_AT at the write (log entry 14). -/
def leapCtlWrite (v : Word) (s : State) : State :=
  let s := setReg s (aTime 0x54) (v &&& 0xC0000003)
  setTime s (fun t => { t with leapAt := bits v 1 0 * 2 ^ 32 + (getReg s (aTime 0x50)).toNat })

/-- LEAP_ARM: a write of TIME.LEAP_CTL with ARM = 1 (R363). -/
def execLeapArm (v : Word) (s : State) : Host.Outcome State Fault Refusal := .next (if awake s then leapCtlWrite (v ||| 0x80000000) s else s)

/-! ### PPS inputs (R351–R356) -/

/-- The interval between two edges is 1 s ± QTOL µs, counted in time-paddock clocks (R354). -/
def qualified (s : State) (clks : Nat) : Bool :=
  decide (((clks : Int) - 500000000).natAbs ≤ fld s (aTime 0x28) 31 20 * 500)

/-- The PPS input in use: `true` for PPSB; none with SRC FREE or RING (R353, R356). -/
def ppsInUse (s : State) : Option Bool :=
  let src := timeSrc s
  if src = 1 then some false else if src = 2 then some true else if src = 3 then some (flag s (aTime 0x04) 3) else none

/-- The AT_SAMPLE that waits takes the second this accepted edge marks (R348). -/
def takeAtSample (sec : Nat) (s : State) : State :=
  match s.time.atSample with
  | some v => setTime s (fun t => { t with atSample := none, pSecs := some ((v : Int) - sec) })
  | none => s

/-- An edge in ACQ (R354). `prev` is the previous edge of the input: its clock and its capture. The flag says that the edge was an
accepted sample. -/
def acqEdge (prev : Option (Nat × Nat)) (cap : Nat) (th : Int) (sec : Nat) (s : State) : Bool × State :=
  match prev with
  | none => (false, setTime s (fun t => { t with qual := 0 }))
  | some (c0, n0) =>
    if !qualified s (s.time.clk - c0) then (false, setTime s (fun t => { t with qual := 0 }))
    else if flag s (aTime 0x04) 2 then
      (true, loopSample th (takeAtSample sec (setTime s (fun t => { t with accSec := some sec }))))
    else
      let s := setTime s (fun t => { t with qual := t.qual + 1 })
      if s.time.qual < fld s (aTime 0x30) 11 8 then (false, s)
      else
        let delta : Int := (cap : Int) - n0
        let i := clampRho (s.time.rho - roundDiv ((delta - 1000000000) * 2 ^ 32) 1000000000)
        let s := setTime s (fun t => { t with integ := i, pRho := some i, accSec := some sec })
        let (ok, s) := stepRule th (sampleTaken th (takeAtSample sec s))
        (true, if ok then setLoop s 2 else s)

/-- An edge in LOCK (R355). -/
def lockEdge (th : Int) (sec : Nat) (s : State) : Bool × State :=
  if fld s (aTime 0x28) 19 0 < th.natAbs then (false, raise 73 (setBit (errInc s (aTime 0x64)) (aTime 0x04) 10))
  else if s.time.accSec = some sec then (false, setBit (errInc s (aTime 0x68)) (aTime 0x04) 11)
  else (true, loopSample th (takeAtSample sec (setTime s (fun t => { t with accSec := some sec }))))

/-- PPS_EDGE: the PPS edge of input B (or A) reaches the ball (R351–R355, R377). The capture is FTIME in that clock (log entry
15). -/
def execPpsEdge (b : Bool) (s : State) : Host.Outcome State Fault Refusal :=
  if ¬ awake s then .next s
  else
    let cap := ftNs s.time.ft
    let o := if b then 0x48 else 0x40
    let s := setReg (setReg s (aTime o) (lo32 s.time.ft)) (aTime (o + 4)) (hi32 s.time.ft)
    let dly := if b then sgnN 16 (fld s (aTime 0x3C) 31 16) else sgnN 16 (fld s (aTime 0x3C) 15 0)
    let d : Int := (cap : Int) - dly
    let sec := roundDiv d 1000000000
    let th := d - sec * 1000000000
    let sec := (sec % (2 ^ 34 : Int)).toNat
    let prev := if b then s.time.prevB else s.time.prevA
    let ft := s.time.ft
    let (acc, s) :=
      if ppsInUse s = some b then
        if loopState s = 1 then acqEdge prev cap th sec s
        else if loopState s = 2 then lockEdge th sec s
        else (false, s)
      else (false, s)
    let s := setTime s (fun t => if b then { t with prevB := some (t.clk, cap) } else { t with prevA := some (t.clk, cap) })
    let rise := if b then !flag s (aTime 0x00) 7 else !flag s (aTime 0x00) 6
    if flag s (aTime 0x108) (b2n b) then
      .next (shutPut ft (wd (b2n rise * 2 ^ 30 + b2n acc * 2 ^ 29 + 32 + b2n b)) s)
    else .next s

/-- PPS_WINDOW_MISS: a window closes with no accepted edge (R355, R356). -/
def execPpsWindowMiss (s : State) : Host.Outcome State Fault Refusal :=
  if awake s ∧ loopState s = 2 ∧ (ppsInUse s).isSome ∧
      s.time.accSec ≠ some ((ftNs s.time.ft - fld s (aTime 0x28) 19 0) / 1000000000) then .next (timeMiss s)
  else .next s

/-! ### PPSOUT (R365) -/

/-- The level of the PPSOUT ball (R365). -/
def ppsOutLevel (s : State) : Bool :=
  Bool.xor (flag s (aTime 0x58) 31 && s.time.ppsOut) (flag s (aTime 0x58) 30)

/-- PPSOUT_PULSE: FTIME, advancing, reaches a whole second less ADVANCE (R365). -/
def execPpsoutPulse (s : State) : Host.Outcome State Fault Refusal :=
  if awake s ∧ flag s (aTime 0x58) 31 then .next (setTime s (fun t => { t with ppsOut := true })) else .next s

/-- PPSOUT_END: 50,000,000 clocks after it went active (R365). -/
def execPpsoutEnd (s : State) : Host.Outcome State Fault Refusal := .next (if awake s then setTime s (fun t => { t with ppsOut := false }) else s)

/-! ### Time over the ring (R366–R373) -/

/-- A TIME payload (R366). -/
def timePayload (kind tflags : Nat) (origin : DWord) (corr : Int) : List Byte :=
  bytesLE 1 kind ++ bytesLE 1 tflags ++ bytesLE 6 0 ++ bytesLE 8 origin.toNat ++
  bytesLE 8 (corr % (2 ^ 64 : Int)).toNat ++ bytesLE 8 0

/-- Fields of a TIME payload (R366). -/
def tpKind (p : List Byte) : Nat := (p.getD 0 0).toNat
def tpNoDelay (p : List Byte) : Bool := (p.getD 1 0).getLsbD 0
def tpOrigin (p : List Byte) : DWord := BitVec.ofNat 64 (ofBytesLE ((p.drop 8).take 8))
def tpCorr (p : List Byte) : Int := sgnN 64 (ofBytesLE ((p.drop 16).take 8))

/-- The taken frames that wait in gate 38 + m. -/
def ringQ (s : State) (m : Nat) : List Frame := tabGet (fun _ => []) s.ring.inq m

/-- Take the first waiting frame from link m that satisfies `p`. -/
def ringTake (p : Frame → Bool) (m : Nat) (s : State) : Option Frame × State :=
  match (ringQ s m).find? p with
  | none => (none, s)
  | some f =>
    (some f, { s with ring := { s.ring with inq := tabSet (fun _ => []) s.ring.inq m ((ringQ s m).eraseP p) } })

/-- A waiting TIME frame of a kind. -/
def isTime (kind : Nat) (f : Frame) : Bool := decide (f.typ = 7) && decide (tpKind f.payload = kind)

/-- SYNC_SEND: a time master in RUNNING sends a SYNC (R368). ORIGIN and CORR are written as each copy leaves. -/
def execSyncSend (s : State) : Host.Outcome State Fault Refusal :=
  if flag s (aTime 0x00) 9 ∧ s.power.phase = .running then
    .next (originate { typ := 7, exp := true, dest := 0xFFF, src := s.nodeId, payload := timePayload 0 0 0 0 } s)
  else .next s

/-- LINK[m].DELAY is measured (R376). -/
def delayKnown (s : State) (m : Nat) : Bool := decide (getReg s (aTime (0x80 + 8 * m)) ≠ 0xFFFFFFFF#32)

/-- LINK[m].DELAY + 256 × LINK[m].ASYM (R369, R370). -/
def linkCorr (s : State) (m : Nat) : Int :=
  ((getReg s (aTime (0x80 + 8 * m))).toNat : Int) + 256 * sgnN 16 (fld s (aTime (0x84 + 8 * m)) 15 0)

/-- SYNC_RECEIVE: a SYNC received on link m and admitted by the duplicate window reaches the loop of a node with SRC = RING
(R370). -/
def execSyncReceive (m : Nat) (s : State) : Host.Outcome State Fault Refusal :=
  if m ≥ 4 ∨ ¬ awake s then .next s
  else
    match ringTake (isTime 0) m s with
    | (none, s) => .next s
    | (some f, s) =>
      if timeSrc s ≠ 4 then .next s
      else
        let mid := fld s (aTime 0x70) 27 16
        if mid = 0 ∨ f.src ≠ mid ∨ tpNoDelay f.payload ∨ ¬ delayKnown s m then
          .next (setBit (errInc s (aTime 0x7C)) (aTime 0x04) 10)
        else
          let d : Int := (f.rxAt : Int) - 256 * ftNs (tpOrigin f.payload)
          let th := roundDiv (d - tpCorr f.payload - linkCorr s m) 256
          let s := setReg (trafInc s (aTime 0x78)) (aTime 0x74) (wd (0x80000000 + (4096 - f.hops) % 4096))
          .next (loopSample th (setTime s (fun t => { t with syncAt := some t.clk })))

/-- SYNC_MISS: 2 × SYNC_MS pass without an accepted SYNC; one accepted in the clock of expiry prevents the miss (R371, R32). -/
def execSyncMiss (s : State) : Host.Outcome State Fault Refusal :=
  if awake s ∧ timeSrc s = 4 ∧ s.time.syncAt ≠ some s.time.clk then .next (timeMiss s) else .next s

/-- The link-delay state of link m. -/
def pdOf (s : State) (m : Nat) : PdSt := tabGet (fun _ => {}) s.time.pd m

/-- Set the link-delay state of link m. -/
def setPd (m : Nat) (p : PdSt) (s : State) : State := setTime s (fun t => { t with pd := tabSet (fun _ => {}) t.pd m p })

/-- PD_REQ_SEND: a RUNNING node sends a PD_REQ on each link that is UP (R372). -/
def execPdReqSend (s : State) : Host.Outcome State Fault Refusal :=
  if s.power.phase = .running then
    .next ((List.range 4).foldl (fun s m =>
      if linkUp s m then
        originateLocal m { typ := 7, exp := true, dest := 0, src := s.nodeId, payload := timePayload 1 0 0 0 }
          (setPd m { pdOf s m with asked := true, t1 := none } s)
      else s) s)
  else .next s

/-- PD_REQ_RECEIVE: a RUNNING node answers a PD_REQ on the link it came from (R372); its receive stamp stays with the answer
until that leaves. -/
def execPdReqReceive (m : Nat) (s : State) : Host.Outcome State Fault Refusal :=
  if m ≥ 4 ∨ ¬ awake s then .next s
  else
    match ringTake (isTime 1) m s with
    | (none, s) => .next s
    | (some f, s) =>
      if s.power.phase = .running then
        .next (originateLocal m { typ := 7, exp := true, dest := 0, src := s.nodeId, payload := timePayload 2 0 0 0, rxAt := f.rxAt } s)
      else .next s

/-- PD_RESP_RECEIVE: the answer to an open request yields a sample (R372). -/
def execPdRespReceive (m : Nat) (s : State) : Host.Outcome State Fault Refusal :=
  if m ≥ 4 ∨ ¬ awake s then .next s
  else
    match ringTake (isTime 2) m s with
    | (none, s) => .next s
    | (some f, s) =>
      match (pdOf s m).t1 with
      | none => .next s
      | some t1 =>
        let sample := Int.tdiv (((f.rxAt : Int) - t1) - tpCorr f.payload) 2
        let a := aTime (0x80 + 8 * m)
        let old : Int := (getReg s a).toNat
        let new := if delayKnown s m then old + (sample - old) / 2 ^ (fld s (aTime 0x70) 3 0) else sample
        .next (setPd m {} (setReg s a (wdInt new)))

/-- PD_TIMEOUT: 10 ms pass after a request on link m without an answer (R372). -/
def execPdTimeout (m : Nat) (s : State) : Host.Outcome State Fault Refusal :=
  let p := pdOf s m
  if m < 4 ∧ awake s ∧ p.asked then
    let n := p.fails + 1
    let s := setPd m { asked := false, t1 := none, fails := n } s
    .next (if 3 ≤ n then setReg s (aTime (0x80 + 8 * m)) 0xFFFFFFFF else s)
  else .next s

/-! ### Writes of the time unit's registers (R358–R376) -/

/-- Writes of the time unit whose values have ranges (R360, R361, R375): whether a write of value v at offset o is refused. -/
def timeRefused (o : Nat) (v : Word) : Bool :=
  if o = 0x28 then decide (bits v 31 20 = 0) || decide (bits v 19 0 < 2) || decide (1000000 < bits v 19 0)
  else if o = 0x2C then decide (bits v 29 0 = 0) || decide (500000000 < bits v 29 0)
  else if o = 0x30 then decide (bits v 11 8 = 0) || decide (bits v 3 0 = 0)
  else if o = 0x70 then decide (bits v 13 4 < 10) || decide (1000 < bits v 13 4) || decide (8 < bits v 3 0)
  else false

/-- A read of the time unit's computed registers (R347, R362, R379, R380). -/
def timeRead (s : State) (o : Nat) : Word :=
  if o = 0x10 then lo32 s.time.ft
  else if o = 0x34 then wdInt s.time.rho
  else if o = 0x104 then shutStatWord s
  else if o = 0x110 then lo32 (shutFt s)
  else if o = 0x114 then hi32 (shutFt s)
  else if o = 0x118 then
    match s.time.shut with
    | e :: _ => e.desc
    | [] => (s.time.shutLast.map (·.desc)).getD 0
  else getReg s (aTime o)

end Sys2Proof.Machine
end

