-- ==== Sys2Proof/Machine/Discrete.lean ====
section
/-!
DEFINITION. Discrete lines (17_discrete_lines.md): k = 0–31. Their levels stand in Machine/Fault.lean.
-/
namespace Sys2Proof.Machine

/-- A bit b of DL[k].STAT of a line with EVEN = 1 changes from 0 to 1 between two states. -/
def dlRose (b : Nat) (s t : State) : Bool :=
  (List.range 32).any (fun k => flag t (aDl k 0x00) 27 && !flag s (aDl k 0x04) b && flag t (aDl k 0x04) b)

/-- The events of one clock, from `s` to `t`: 77 by MATCH, 78 by FAULT or HB_STOP, each once however many lines change (R640, R645). -/
def dlNote (s t : State) : State :=
  let match_ := dlRose 3 s t
  let fault := dlRose 4 s t || dlRose 6 s t
  let t := if match_ then raise 77 t else t
  if fault then raise 78 t else t

/-- A refused write of a line's register (R640). -/
def dlCfgErr (k : Nat) (s : State) : State := timeCfgErr (setBit s (aDl k 0x04) 7)

/-- A line feeds the Shutter and has a run that waits for acceptance. -/
def dlShutBusy (s : State) : Bool :=
  (List.range 32).any (fun k => (dlSt s k).run.isSome && decide (fld s (aDl k 0x00) 21 20 ≠ 0))

/-- A written DL.SHUT_DEB takes effect once no Shutter line waits (R629). -/
def dlShutApply (s : State) : State := if dlShutBusy s then s else { s with dlShutDeb := fld s (aDlG 0xF0) 7 0 }

/-- The debounce time of line k in ms (R629). -/
def dlDeb (s : State) (k : Nat) : Nat := if fld s (aDl k 0x00) 21 20 = 0 then fld s (aDl k 0x00) 7 0 else s.dlShutDeb

/-- An edge selection selects an edge to the level (R630, R642). -/
def edgeSel (sel : Nat) (rise : Bool) : Bool := if rise then decide (sel % 2 = 1) else decide (2 ≤ sel)

/-- DL_COUNT_MATCH: an increment of CNT (R632). -/
def dlCount (k : Nat) (s : State) : State :=
  let s := trafInc s (aDl k 0x08)
  if flag s (aDl k 0x00) 24 ∧ getReg s (aDl k 0x08) = getReg s (aDl k 0x0C) then
    setBit (if flag s (aDl k 0x00) 25 then setReg s (aDl k 0x08) 0 else s) (aDl k 0x04) 3
  else s

/-- A period result (R633). -/
def dlResult (k : Nat) (sum : Word) (s : State) : State := setReg (trafInc s (aDl k 0x14)) (aDl k 0x10) sum

/-- An accepted edge of polarity PEDGE with edge clock t (R633). -/
def dlPeriod (k : Nat) (t : Word) (s : State) : State :=
  let v := dlSt s k
  match v.grp with
  | none => setDl s k { v with grp := some (t, 0) }
  | some (start, n) =>
    if n + 1 = fld s (aDl k 0x00) 15 8 then setDl (dlResult k (t - start) s) k { v with grp := some (t, 0) }
    else setDl s k { v with grp := some (start, n + 1) }

/-- An edge is accepted (R627–R633). -/
def dlAccept (k : Nat) (s : State) : State :=
  let v := dlSt s k
  match v.run with
  | none => s
  | some t =>
    let rise := v.ball
    let cfg := getReg s (aDl k 0x00)
    let s := setDl s k { v with run := none, deb := rise }
    let s := if edgeSel (bits cfg 21 20) rise then shutPutCount t (wd (b2n rise * 2 ^ 30 + k)) s else s
    let s := if edgeSel (bits cfg 23 22) rise then dlCount k s else s
    let s := if edgeSel (bits cfg 19 18) rise then dlPeriod k t s else s
    dlShutApply s

/-- A raw edge of line k with edge clock t. -/
def dlRawEdge (t : Word) (k : Nat) (s : State) : State :=
  let v := dlSt s k
  if ¬ awake s then dlShutApply (setDl s k { v with ball := !v.ball, run := none })
  else
    let s := dlAgree k (setDl s k { v with ball := !v.ball, run := some t })
    if dlDeb s k = 0 then dlAccept k s else dlShutApply s

/-- Line k and further lines of a mask, in ascending order: what falls in one clock is handled so (R378, R629). -/
def dlLines (k : Nat) (more : BitVec 32) : List Nat := (List.range 32).filter (fun i => decide (i = k) || more.getLsbD i)

/-- DL_RAW_EDGE: the filtered level of line k, and of the lines of `more` in the same clock, changes; the edge clock of the new runs lies
`ago` clocks before the paddock's present count (R626, R157). With D = 0 the edge is accepted at once (R627). Runs of the lines of `accept`
last their debounce time in that clock. In Stabled only the ball changes (R639; log entry 20). -/
def execDlRawEdge (k : Nat) (ago : Word) (s : State) (more accept : BitVec 32 := 0) : Host.Outcome State Fault Refusal :=
  let t := s.time.ppCount - ago
  let edge := fun (s : State) (i : Nat) =>
    if decide (i = k) || more.getLsbD i then dlRawEdge t i s else if awake s then dlAccept i s else s
  .next (dlNote s ((dlLines k (more ||| accept)).foldl edge s))

/-- DL_EDGE_ACCEPT: the run of line k, and those of the lines of `more` in the same clock, have lasted their debounce time (R627; log
entry 18). -/
def execDlEdgeAccept (k : Nat) (s : State) (more : BitVec 32 := 0) : Host.Outcome State Fault Refusal :=
  if awake s then .next (dlNote s ((dlLines k more).foldl (fun s i => dlAccept i s) s)) else .next s

/-- DL_PERIOD_OVERFLOW: the open group of line k reaches FFFF_FFFFh clocks (R633). -/
def execDlPeriodOverflow (k : Nat) (s : State) : Host.Outcome State Fault Refusal :=
  if k < 32 ∧ awake s ∧ (dlSt s k).grp.isSome then
    .next (setDl (setBit (dlResult k 0xFFFFFFFF s) (aDl k 0x04) 5) k { dlSt s k with grp := none })
  else .next s

/-- T1 and T2 in force follow OPER and OHI (R636, R637). -/
def dlTimes (k : Nat) (s : State) : State :=
  setDl s k { dlSt s k with t1 := fld s (aDl k 0x18) 23 0, t2 := fld s (aDl k 0x1C) 23 0 }

/-- A PWM period begins (R636). -/
def dlPwmStart (k : Nat) (s : State) : State :=
  let s := dlTimes k s
  dlAgree k (setDl s k { dlSt s k with pwmHigh := decide ((dlSt s k).t2 ≠ 0) })

/-- Toggle a heartbeat line; OPER and OHI take effect (R637). -/
def dlToggle (k : Nat) (s : State) : State :=
  let s := dlTimes k s
  dlAgree k (setDl s k { dlSt s k with hbLevel := !(dlSt s k).hbLevel })

/-- DL_HB_FEED: a feed of a heartbeat line (R637). -/
def dlFeed (k : Nat) (s : State) : State :=
  if flag s (aDl k 0x04) 0 then s
  else dlToggle k (setDl (setBit s (aDl k 0x04) 0) k { dlSt s k with hbLevel := dlOut s k })

/-- A change of MODE (R636, R637). -/
def dlModeChange (k : Nat) (s : State) : State :=
  let s := dlTimes k (clrBit s (aDl k 0x04) 0)
  if dlMode s k = 2 then dlPwmStart k s else dlAgree k s

/-- A write of DL[k].CFG (R632, R633, R642). -/
def dlCfgWrite (k : Nat) (v : Word) (s : State) : State :=
  if bits v 19 18 = 3 ∨ (bits v 19 18 ≠ 0 ∧ bits v 15 8 = 0) ∨ (bit v 25 ∧ getReg s (aDl k 0x0C) = 0) then dlCfgErr k s
  else
    let old := getReg s (aDl k 0x00)
    let s := setReg s (aDl k 0x00) (v &&& 0xFBFCFFFF)
    let s := if bits old 19 18 ≠ bits v 19 18 ∨ bits old 15 8 ≠ bits v 15 8 then setDl s k { dlSt s k with grp := none } else s
    let s := if bits old 31 30 ≠ bits v 31 30 then dlModeChange k s else dlAgree k s
    dlShutApply s

/-- DL_CFG_WRITE (R633, R636, R637, R642). -/
def execDlCfgWrite (k : Nat) (v : Word) (s : State) : Host.Outcome State Fault Refusal :=
  if k < 32 ∧ awake s then .next (dlCfgWrite k v s) else .next s

/-- A write of DL.SHUT_DEB (R629). -/
def dlShutDebWrite (v : Word) (s : State) : State := dlShutApply (setReg s (aDlG 0xF0) (v &&& 0xFF))

/-- DL_SHUT_DEB_WRITE (R629). -/
def execDlShutDebWrite (v : Word) (s : State) : Host.Outcome State Fault Refusal :=
  .next (if awake s then dlShutDebWrite v s else s)

/-- A write of DL.OUT (R635). -/
def dlOutWrite (v : Word) (s : State) : State :=
  dlAgreeAll (setReg s (aDlG 0x08) v)

/-- DL_OUT_WRITE (R635). -/
def execDlOutWrite (v : Word) (s : State) : Host.Outcome State Fault Refusal :=
  .next (if awake s then dlOutWrite v s else s)

/-- The lines in a mode, as a mask. -/
def dlModeMask (s : State) (m : Nat) : Word :=
  (List.range 32).foldl (fun w k => if dlMode s k = m then w ||| wd (2 ^ k) else w) 0

/-- A write of OUT_CLR (0), OUT_SET (1) or OUT_TOG (2), or a dlwr (R635): OUT bits of lines in mode OUT, feeds of heartbeat
lines. -/
def dlOp (op : Nat) (mask : Word) (s : State) : State :=
  let m := mask &&& dlModeMask s 1
  let old := getReg s (aDlG 0x08)
  let s := dlOutWrite (if op = 0 then old &&& ~~~ m else if op = 1 then old ||| m else old ^^^ m) s
  (List.range 32).foldl (fun s k => if bit mask k ∧ dlMode s k = 3 then dlFeed k s else s) s

/-- DL_OUT_SET (R635). -/
def execDlOutSet (v : Word) (s : State) : Host.Outcome State Fault Refusal :=
  .next (if awake s then dlOp 1 v s else s)
/-- DL_OUT_CLR (R635). -/
def execDlOutClr (v : Word) (s : State) : Host.Outcome State Fault Refusal :=
  .next (if awake s then dlOp 0 v s else s)
/-- DL_OUT_TOG (R635). -/
def execDlOutTog (v : Word) (s : State) : Host.Outcome State Fault Refusal :=
  .next (if awake s then dlOp 2 v s else s)

/-- DL_PWM_PERIOD: a period of line k begins (R636). -/
def execDlPwmPeriod (k : Nat) (s : State) : Host.Outcome State Fault Refusal :=
  if k < 32 ∧ awake s ∧ dlMode s k = 2 then .next (dlPwmStart k s) else .next s

/-- DL_PWM_HIGH_END: T2 µs into a period the line goes inactive, unless T2 ≥ T1 (R636). -/
def execDlPwmHighEnd (k : Nat) (s : State) : Host.Outcome State Fault Refusal :=
  if k < 32 ∧ awake s ∧ dlMode s k = 2 then
    .next (dlAgree k (setDl s k { dlSt s k with pwmHigh := decide ((dlSt s k).t1 ≤ (dlSt s k).t2) }))
  else .next s

/-- DL_HB_TOGGLE: T1 µs pass (R637). -/
def execDlHbToggle (k : Nat) (s : State) : Host.Outcome State Fault Refusal :=
  if k < 32 ∧ awake s ∧ dlMode s k = 3 ∧ flag s (aDl k 0x04) 0 then .next (dlToggle k s) else .next s

/-- The starvation timer of line k expires (R637). -/
def dlStarve (s : State) (k : Nat) : State :=
  if dlMode s k = 3 ∧ flag s (aDl k 0x04) 0 ∧ (dlSt s k).t2 ≠ 0 then dlAgree k (setBit (clrBit s (aDl k 0x04) 0) (aDl k 0x04) 6) else s

/-- DL_HB_STARVE: the starvation timers of line k, and of the lines of `more` in the same clock, expire (R637); a feed of line k in the
clock of expiry (`fed`) is taken, and the line does not starve (R32). -/
def execDlHbStarve (k : Nat) (s : State) (fed : Bool := false) (more : BitVec 32 := 0) : Host.Outcome State Fault Refusal :=
  if awake s then .next (dlNote s (((dlLines k more).filter (fun i => !(fed && decide (i = k)))).foldl dlStarve s)) else .next s

/-- The ball and the driven level of line k have differed for 1 µs (R638). -/
def dlFault (s : State) (k : Nat) : State :=
  let v := dlSt s k
  if dlDriven s k ∧ ¬ v.faulty ∧ v.ball ≠ dlLevel s k then setBit (setDl s k { v with faulty := true }) (aDl k 0x04) 4 else s

/-- DL_DRIVE_FAULT: ball and driven level of line k, and of the lines of `more` in the same clock, have differed for 1 µs (R638); the
starvation timers of the lines of `starve` expire in that clock too. -/
def execDlDriveFault (k : Nat) (s : State) (more starve : BitVec 32 := 0) : Host.Outcome State Fault Refusal :=
  if awake s then
    .next (dlNote s (((List.range 32).filter (starve.getLsbD ·)).foldl dlStarve ((dlLines k more).foldl dlFault s)))
  else .next s

/-- DL.IN, DL.RAW and the sums (R641). -/
def dlWord (p : Nat → Bool) : Word := (List.range 32).foldl (fun w k => if p k then w ||| wd (2 ^ k) else w) 0

/-- The debounced levels after INV, as dlrd and DL.IN give them (R475, R641). -/
def dlIn (s : State) : Word := dlWord (fun k => Bool.xor (dlSt s k).deb (flag s (aDl k 0x00) 28))

/-- A read of the unit's computed registers (R641, R643); `o` is the offset from 0_0002_1000h. -/
def dlRead (s : State) (o : Nat) : Word :=
  if o = 0x00 then dlIn s
  else if o = 0x04 then dlWord (fun k => (dlSt s k).ball)
  else if o = 0x18 then dlWord (fun k => flag s (aDl k 0x04) 3)
  else if o = 0x1C then dlWord (fun k => flag s (aDl k 0x04) 4 || flag s (aDl k 0x04) 6)
  else if 0x100 ≤ o ∧ o < 0x500 ∧ o % 0x20 = 4 then
    let k := (o - 0x100) / 0x20
    setBits (getReg s (aDlG o)) 1 1 (b2n (dlDriven s k))
  else getReg s (aDlG o)

/-- A write of the unit's registers with a range or an action of its own (R632, R635, R641); `none` for a plain one. -/
def dlWrite (o : Nat) (v : Word) (s : State) : Option State :=
  if o = 0x08 then some (dlOutWrite v s)
  else if o = 0x0C then some (dlOp 1 v s)
  else if o = 0x10 then some (dlOp 0 v s)
  else if o = 0x14 then some (dlOp 2 v s)
  else if o = 0xF0 then some (dlShutDebWrite v s)
  else if 0x100 ≤ o ∧ o < 0x500 then
    let k := (o - 0x100) / 0x20
    let r := o % 0x20
    if r = 0 then some (dlCfgWrite k v s)
    else if r = 0x0C then if v = 0 ∧ flag s (aDl k 0x00) 25 then some (dlCfgErr k s) else none
    else if r = 0x18 then if bits v 23 0 = 0 then some (dlCfgErr k s) else none
    else none
  else none

end Sys2Proof.Machine
end

