-- ==== Sys2Proof/Machine/Engine.lean ====
section
/-!
DEFINITION. Sentence engines and contexts (10_engines.md): the scheduler, waits and wakes, dispatch, handlers and their budget,
exceptions, and the engine control registers. The instructions themselves are in the Fz files.
-/
namespace Sys2Proof.Machine

/-- A logical engine, and setting it. -/
def eng (s : State) (l : Nat) : EngSt := tabGet (fun _ => {}) s.engs l
def setEng (s : State) (l : Nat) (v : EngSt) : State := { s with engs := tabSet (fun _ => {}) s.engs l v }

/-- A context, and setting it. -/
def ctx (s : State) (l c : Nat) : CtxSt := tabGet (fun _ => {}) (eng s l).ctxs c
def setCtx (l c : Nat) (v : CtxSt) (s : State) : State :=
  setEng s l { eng s l with ctxs := tabSet (fun _ => {}) (eng s l).ctxs c v }

/-- A general register; g0 reads as zero (R427). -/
def gReg (v : CtxSt) (i : Nat) : Word := if i = 0 then 0 else tabGet (fun _ => 0) v.g i

/-- Write a general register; a write to g0 is discarded (R427). -/
def gSet (v : CtxSt) (i : Nat) (w : Word) : CtxSt := if i = 0 then v else { v with g := tabSet (fun _ => 0) v.g i w }

/-- Set a sticky flag of ENG[L].STAT, with event 24 + L when it is enabled (R411). -/
def engFlag (l b : Nat) (s : State) : State := stickyEn (aEng l 0x04) b (aEng l 0x08) b (24 + l) s

/-- The physical engine that carries L; 31 for an unplaced one (R384, R733). -/
def engPhys (s : State) (l : Nat) : Nat := fld s (aEng l 0x04) 28 24

/-- No context of L issues: HOLD is 1, or the node is in FAULT (R410, R671), or the engine is unplaced (R733). -/
def engHeld (s : State) (l : Nat) : Bool := flag s (aEng l 0x00) 0 || inFault s || decide (engPhys s l = 31)

/-- A request of L is outstanding. -/
def engBusy (s : State) (l : Nat) : Bool :=
  !(eng s l).gate.isEmpty || (List.range 8).any (fun c => decide ((ctx s l c).st = .block) || decide ((ctx s l c).orphans ≠ 0))

/-- The contexts of L can issue now: engine clocks run, no hold, no stall for a move (R410, R420), and no Stabled entry past its
drain wait (R675). -/
def engRuns (s : State) (l : Nat) : Bool :=
  decide (l < 16) && awake s && !s.power.drained && !engHeld s l && !(eng s l).moving

/-- ENG[L].STAT with its live bits (R411). -/
def engStatWord (s : State) (l : Nat) : Word :=
  setBits (getReg s (aEng l 0x04)) 1 0 (2 * b2n (eng s l).moving + b2n (engHeld s l && !engBusy s l))

/-- CTX[c].STAT (R414). -/
def ctxStatWord (s : State) (l c : Nat) : Word :=
  let v := ctx s l c
  let st : Nat := match v.st with
    | .idle => 0
    | .ready => 1
    | .run => 2
    | .block => 3
    | .wait => 4
    | .halt => 5
  wd (v.cause * 256 + b2n v.nopre * 32 + b2n v.exl * 16 + b2n v.held.isSome * 8 + st)

/-- st (R405). -/
def ctxStWord (v : CtxSt) : Word := wd (b2n v.nopre * 8 + b2n v.hi * 4 + b2n v.held.isSome * 2 + b2n v.exl)

/-- The remaining budget in engine clocks (R399, R415): 0 when no sentence is held. -/
def budgetLeft (v : CtxSt) : Nat := if v.held.isSome then (v.budget + 4) / 5 else 0

/-- One 2 ns clock of the switch is 6/5 engine clocks of 600 MHz: the budgets of contexts that hold a sentence in RUN, BLOCK or
WAIT fall (R399). -/
def budgetTick (s : State) : State :=
  { s with engs := s.engs.map (fun e =>
      if engRuns s e.1 then
        (e.1, { e.2 with ctxs := e.2.ctxs.map (fun c =>
          if c.2.held.isSome && (decide (c.2.st = .run) || decide (c.2.st = .block) || decide (c.2.st = .wait)) then
            (c.1, { c.2 with budget := c.2.budget - 6 })
          else c) })
      else e) }

/-! ### Boundaries, handlers, exceptions -/

/-- The LEVEL and DISPMASK written take effect at an instruction boundary (R413). -/
def atBoundary (l c : Nat) (s : State) : State :=
  let w := getReg s (aCtx l c 0x00)
  setCtx l c { ctx s l c with hi := bit w 0, mask := BitVec.ofNat 2 (bits w 9 8) } s

/-- A handler ends (R398): the engine's reference to the held sentence is released. -/
def endHandler (l c : Nat) (s : State) : State :=
  match (ctx s l c).held with
  | none => s
  | some cell => releaseRef cell (setCtx l c { ctx s l c with held := none, budget := 0 } s)

/-- The context's exception vector (R415). -/
def ctxVec (s : State) (l c : Nat) : BitVec 16 := BitVec.ofNat 16 (getReg s (aCtx l c 0x0C)).toNat

/-- A sentence held is dropped, counted in CNT_ABORT (R388, R407). -/
def dropAbort (l c : Nat) (s : State) : State :=
  if (ctx s l c).held.isSome then endHandler l c (errInc s (aEng l 0x28)) else s

/-- Exception entry (R406, R447) and the double fault (R407): CODE, the value of epc, and the state the context is left in. -/
def takeExc (l c code : Nat) (epc : BitVec 16) (st : CtxState) (s : State) : State :=
  let v := ctx s l c
  if v.exl ∧ code ≠ 6 then
    let s := setCtx l c { v with st := .halt, cause := code, wait := none, blk := none } s
    errInc (engFlag l 10 (dropAbort l c s)) (aEng l 0x24)
  else
    let s := setCtx l c { v with st := st, cause := code, exl := true, epc := epc, pc := ctxVec s l c, wait := none,
                                 blk := none } s
    let s := if code ≠ 6 ∧ code ≠ 7 then engFlag l 9 (errInc s (aEng l 0x24)) else s
    atBoundary l c s

/-! ### START, STOP, HOLD (R388, R410) -/

/-- A refused write of ENG[L] (R36, R411). -/
def engCfgErr (l : Nat) (s : State) : State := engFlag l 16 s

/-- START of a context in IDLE or HALT (R388, R404, R428). -/
def ctxStart (l c : Nat) (s : State) : State :=
  atBoundary l c (setCtx l c { ctx s l c with st := .ready, nopre := false, exl := false, stale := [] } s)

/-- Whether a START is accepted (R388). -/
def ctxStartable (s : State) (l c : Nat) : Bool := decide ((ctx s l c).st = .idle) || decide ((ctx s l c).st = .halt)

/-- A response is due to the context: it is in BLOCK and its request has left (R403). -/
def respDue (v : CtxSt) : Bool :=
  decide (v.st = .block) && (match v.blk with
    | some b => !b.space
    | none => true)

/-- STOP of a context (R388). -/
def ctxStop (l c : Nat) (s : State) : State :=
  let v := ctx s l c
  let s := setCtx l c { v with st := .idle, wait := none, blk := none,
                               orphans := v.orphans + b2n (respDue v) } s
  atBoundary l c (dropAbort l c s)

/-- A write of CTX[c].CTL (R388, R413). -/
def ctxCtlWrite (l c : Nat) (v : Word) (s : State) : State :=
  if (bit v 31 && bit v 30) || (bit v 31 && !ctxStartable s l c) then engCfgErr l s
  else
    let s := setReg s (aCtx l c 0x00) (v &&& 0x301)
    let s := if (ctx s l c).st = .block ∨ (ctx s l c).st = .wait then s else atBoundary l c s
    if bit v 31 then ctxStart l c s else if bit v 30 then ctxStop l c s else s

/-- CTX_START: a write of CTX[c].CTL with START = 1 (R388). -/
def execCtxStart (l c : Nat) (v : Word) (s : State) : Host.Outcome State Fault Refusal :=
  if l < 16 ∧ c < 8 ∧ awake s then .next (ctxCtlWrite l c (v ||| 0x80000000) s) else .next s

/-- CTX_STOP: a write of CTX[c].CTL with STOP = 1 (R388). -/
def execCtxStop (l c : Nat) (v : Word) (s : State) : Host.Outcome State Fault Refusal :=
  if l < 16 ∧ c < 8 ∧ awake s then .next (ctxCtlWrite l c (v ||| 0x40000000) s) else .next s

/-- A write of ENG[L].CTL (R409, R410, R733): a BUDGET below 16, and a release of an unplaced engine, are refused. Clearing HOLD
has the effect of an instruction fence for every context (R404). -/
def engCtlWrite (l : Nat) (v : Word) (s : State) : State :=
  if bits v 27 8 < 16 ∨ (¬ bit v 0 ∧ engPhys s l = 31) then engCfgErr l s
  else
    let s := setReg s (aEng l 0x00) (v &&& 0x0FFFFF05)
    if bit v 0 then s
    else (List.range 8).foldl (fun s c => setCtx l c { ctx s l c with stale := [] } s) s

/-- ENGINE_HOLD: a write of ENG[L].CTL with HOLD = 1 (R410). -/
def execEngineHold (l : Nat) (v : Word) (s : State) : Host.Outcome State Fault Refusal :=
  if l < 16 ∧ awake s then .next (engCtlWrite l (v ||| 1) s) else .next s

/-- ENGINE_RELEASE: a write of ENG[L].CTL with HOLD = 0 (R410). -/
def execEngineRelease (l : Nat) (v : Word) (s : State) : Host.Outcome State Fault Refusal :=
  if l < 16 ∧ awake s then .next (engCtlWrite l (v &&& 0xFFFFFFFE) s) else .next s

/-- The other registers of the block with rules of their own (R412, R415): IQ_CTL limits and CTX[c].PC. `none` for a plain
write. -/
def engWrite (l o : Nat) (v : Word) (s : State) : Option State :=
  if o = 0x00 then some (engCtlWrite l v s)
  else if o = 0x0C then if bits v 11 0 = 0 ∨ bits v 27 16 = 0 then some (engCfgErr l s) else none
  else if 0x40 ≤ o ∧ o < 0xC0 then
    let c := (o - 0x40) / 0x10
    if o % 0x10 = 0 then some (ctxCtlWrite l c v s)
    else if o % 0x10 = 8 then
      if ctxStartable s l c then some (setCtx l c { ctx s l c with pc := BitVec.ofNat 16 (v &&& 0xFFFC).toNat } s)
      else some (engCfgErr l s)
    else none
  else none

/-- Reads of the block's live registers (R410–R415). -/
def engRead (s : State) (l o : Nat) : Word :=
  if o = 0x04 then engStatWord s l
  else if o = 0x10 then wd ((eng s l).q0.length + 65536 * (eng s l).q1.length)
  else if 0x40 ≤ o ∧ o < 0xC0 ∧ o % 0x10 = 4 then ctxStatWord s l ((o - 0x40) / 0x10)
  else if 0x40 ≤ o ∧ o < 0xC0 ∧ o % 0x10 = 8 then ((ctx s l ((o - 0x40) / 0x10)).pc).setWidth 32
  else getReg s (aEng l o)

/-! ### The scheduler (R387) -/

/-- The issuing context of L. -/
def runCtx (s : State) (l : Nat) : Option Nat := (List.range 8).find? (fun c => decide ((ctx s l c).st = .run))

/-- The first READY context of a level after the last of that level to run. -/
def nextReady (s : State) (l : Nat) (hi : Bool) : Option Nat :=
  let last := if hi then (eng s l).lastHi else (eng s l).lastLo
  ((List.range 8).map (fun i => (last + 1 + i) % 8)).find? (fun c =>
    decide ((ctx s l c).st = .ready) && decide ((ctx s l c).hi = hi))

/-- Select a context. -/
def selectCtx (l c : Nat) (hi : Bool) (s : State) : State :=
  let s := setCtx l c { ctx s l c with st := .run } s
  setEng s l (if hi then { eng s l with lastHi := c } else { eng s l with lastLo := c })

/-- The scheduler's choice among the READY contexts. -/
def schedule (l : Nat) (s : State) : State :=
  match nextReady s l true with
  | some c => selectCtx l c true s
  | none =>
    match nextReady s l false with
    | some c => selectCtx l c false s
    | none => s

/-- SCHEDULER_SELECT: the issuing context of L has stopped issuing, or is pre-empted, and the next READY context is selected
(R387). -/
def execSchedulerSelect (l : Nat) (s : State) : Host.Outcome State Fault Refusal :=
  if !engRuns s l then .next s
  else
    match runCtx s l with
    | none => .next (schedule l s)
    | some c =>
      let v := ctx s l c
      if !v.hi && !v.nopre && (nextReady s l true).isSome then .next (schedule l (setCtx l c { v with st := .ready } s))
      else .next s

/-! ### Waits and wakes (R389–R392) -/

/-- The wake word (R391). -/
def wakeWord (kind cls index : Nat) : Word := wd (kind * 2 ^ 28 + cls * 2 ^ 27 + index)

/-- A wait completes: the wake word goes to gd, the pc moves on, and the context is READY. -/
def completeWait (l c : Nat) (w : Word) (s : State) : State :=
  let v := ctx s l c
  let gd := (v.wait.map (·.gd)).getD 0
  atBoundary l c (setCtx l c { gSet v gd w with st := .ready, pc := v.pc + 4, wait := none } s)

/-- The MSG condition (R389, R472). -/
def msgHolds (s : State) (l : Nat) : Bool :=
  let lv := fld s (fifoCtl (fEmq l)) 9 0
  decide ((if lv = 0 then 1 else lv) ≤ (fifo s (fEmq l)).words.length)

/-- The event latch of a context (R392). -/
def latchOf (s : State) (l c : Nat) : Bool := tabGet (fun _ => false) s.latch (8 * l + c)

/-- The MSG or EVT condition that completes a wait with these conditions, in the order of R390: the wake word, and the state with
a reported event latch cleared. -/
def wakeCond (l c : Nat) (cond : BitVec 4) (s : State) : Option (Word × State) :=
  if cond.getLsbD 1 && msgHolds s l then some (wakeWord 2 0 ((fifo s (fEmq l)).words.length), s)
  else if cond.getLsbD 2 && latchOf s l c then
    some (wakeWord 3 0 0, { s with latch := tabSet (fun _ => false) s.latch (8 * l + c) false })
  else none

/-- No context with a lower number waits on MSG: such a context is woken first (R392). -/
def msgTurn (s : State) (l c : Nat) : Bool :=
  !(List.range (min c 8)).any (fun k => match (ctx s l k).wait with
    | some w => w.cond.getLsbD 1
    | none => false)

/-- The wait of a context completes with the condition that holds; with `tmo` its timeout has passed, and is reported when no other
condition holds (R390). A context that waits on MSG behind another one keeps its turn (R392). -/
def waitEnds (l c : Nat) (tmo : Bool) (s : State) : State :=
  match (ctx s l c).wait with
  | none => s
  | some w =>
    if w.cond.getLsbD 1 && msgHolds s l && !msgTurn s l c then s
    else
      match wakeCond l c w.cond s with
      | some (k, s) => completeWait l c k s
      | none => if tmo && w.cond.getLsbD 3 then completeWait l c (wakeWord 4 0 0) s else s

/-- WAIT_WAKE: a wake condition of a waiting context holds (R389–R392). A wait also completes while its engine is held; the
context then issues nothing (R410). -/
def execWaitWake (l c : Nat) (s : State) : Host.Outcome State Fault Refusal :=
  .next (if decide (l < 16) && decide (c < 8) && awake s && !(eng s l).moving then waitEnds l c false s else s)

/-- WAIT_TIMEOUT: the timeout of a wait passes (R389); another condition that holds is reported in its place (R390, R32). During the stall
of a move it is kept until the stall ends (R421). -/
def execWaitTimeout (l c : Nat) (s : State) : Host.Outcome State Fault Refusal :=
  if !(decide (l < 16) && decide (c < 8) && awake s) then .next s
  else if (eng s l).moving then
    let v := ctx s l c
    .next (setCtx l c { v with wait := v.wait.map (fun w => { w with due := w.due || w.cond.getLsbD 3 }) } s)
  else .next (waitEnds l c true s)

/-- The stall of a move ends: the timeouts that expired in it are reported (R421). -/
def stallEnd (l : Nat) (s : State) : State :=
  (List.range 8).foldl (fun s c => match (ctx s l c).wait with
    | some w => if w.due then waitEnds l c true s else s
    | none => s) s

/-! ### Dispatch (R393–R396) -/

/-- The context that takes a sentence of class k: a HI one before a LO one, then the lowest number (R393). -/
def dispTarget (s : State) (l k : Nat) : Option Nat :=
  let ok := fun c => match (ctx s l c).wait with
    | some w => w.cond.getLsbD 0 && (ctx s l c).mask.getLsbD k
    | none => false
  match (List.range 8).find? (fun c => ok c && (ctx s l c).hi) with
  | some c => some c
  | none => (List.range 8).find? ok

/-- The queue of a class. -/
def iq (s : State) (l k : Nat) : List Nat := if k = 1 then (eng s l).q1 else (eng s l).q0

/-- Remove the head of a class. -/
def iqPop (l k : Nat) (s : State) : State :=
  setEng s l (if k = 1 then { eng s l with q1 := (eng s l).q1.drop 1 } else { eng s l with q0 := (eng s l).q0.drop 1 })

/-- The class and the context of the next dispatch (R393). -/
def dispChoice (s : State) (l : Nat) : Option (Nat × Nat) :=
  match (iq s l 1).isEmpty, dispTarget s l 1 with
  | false, some c => some (1, c)
  | _, _ =>
    match (iq s l 0).isEmpty, dispTarget s l 0 with
    | false, some c => some (0, c)
    | _, _ => none

/-- The 128 bytes of a cell as a cell window. -/
def winOf (bs : List Byte) : Tab Byte :=
  (List.range 128).foldl (fun t i => tabSet (fun _ => 0) t i (bs.getD i 0)) []

/-- Give a sentence to a waiting context (R396, R398, R399). -/
def dispatchTo (l c k cell : Nat) (s : State) : State :=
  let v := ctx s l c
  let s := setCtx l c { v with win := winOf (memBytes s (aCell cell) 128), held := some cell,
                               budget := 5 * fld s (aEng l 0x00) 27 8 } (eccClean (aCtxWin l c) 128 s)
  trafInc (completeWait l c (wakeWord 1 k cell) s) (aEng l 0x14)

/-- Dispatch with a bound on the stale heads removed. -/
def dispatch (l : Nat) : Nat → State → State
  | 0, s => s
  | n + 1, s =>
    match dispChoice s l with
    | none => s
    | some (k, c) =>
      match iq s l k with
      | [] => s
      | cell :: _ =>
        let s := iqPop l k s
        if isStale s (cellDeadline s cell) then
          dispatch l n (engFlag l 12 (errInc (releaseRef cell s) (aEng l 0x1C)))
        else
          let (bad, s) := eccRead (aCell cell) 128 s
          if bad then dispatch l n (releaseRef cell s) else dispatchTo l c k cell s

/-- A live activation has stopped dispatch to L (R706). -/
def liveStops (s : State) (l : Nat) : Bool :=
  match s.upd.live with
  | some v => v.engines.contains l
  | none => false

/-- DISPATCH: the head sentence is deadline-tested and given to a waiting context (R393, R395, R396). An uncorrectable first cell
drops the sentence (R715). -/
def execDispatch (l : Nat) (s : State) : Host.Outcome State Fault Refusal :=
  if engRuns s l && !s.power.entering && !liveStops s l then .next (dispatch l ((eng s l).q0.length + (eng s l).q1.length) s) else .next s

/-! ### Blocking accesses (R401, R403) -/

/-- A request is sent and the context blocks (R403). -/
def blockOn (l c : Nat) (res : Option BlkRes) (s : State) : State :=
  let id := (eng s l).nextId
  let s := setEng s l { eng s l with nextId := id + 1 }
  setCtx l c { ctx s l c with st := .block, blk := some { id := id, res := res } } s

/-- The target's response to request `id` of a context is known. A context that no longer waits for it discards it. -/
def respond (l c id : Nat) (res : BlkRes) (s : State) : State :=
  match (ctx s l c).blk with
  | some b => if b.id = id then setCtx l c { ctx s l c with blk := some { b with res := some res } } s else s
  | none => s

/-- What a response does (R403, R446). -/
def applyRes (l c : Nat) (r : BlkRes) (st : CtxState) (s : State) : State :=
  match r.exc with
  | some code => takeExc l c code (ctx s l c).pc st s
  | none =>
    let s := r.mem.foldl (fun s w => memWrite s w.1 w.2) (if r.win.isSome then eccClean (aCtxWin l c) 128 s else s)
    let v := ctx s l c
    let v := r.regs.foldl (fun v w => gSet v w.1 w.2) v
    let v := match r.win with
      | some bs => { v with win := winOf bs }
      | none => v
    atBoundary l c (setCtx l c { v with st := st, pc := v.pc + 4, blk := none } s)

/-- BUDGET_EXPIRY: the remaining budget of a handler reaches 0 (R400, R401, R448). -/
def execBudgetExpiry (l c : Nat) (s : State) : Host.Outcome State Fault Refusal :=
  let v := ctx s l c
  if !(decide (c < 8) && engRuns s l && v.held.isSome &&
       (decide (v.st = .run) || decide (v.st = .block) || decide (v.st = .wait))) then .next s
  else
    let s := engFlag l 8 (errInc (endHandler l c s) (aEng l 0x20))
    let st : CtxState := if v.st = .run then .run else .ready
    let next : BitVec 16 := if v.st = .run then v.pc else v.pc + 4
    let s := setCtx l c { ctx s l c with orphans := v.orphans + b2n (respDue v) } s
    if v.exl then
      .next (atBoundary l c (setCtx l c { ctx s l c with st := st, pc := next, wait := none, blk := none } s))
    else .next (takeExc l c 6 (if v.st = .wait then v.pc else next) st s)

end Sys2Proof.Machine
end

