-- ==== Sys2Proof/Machine/Symbols.lean ====
section
/-!
DEFINITION. The symbols of a ring link (R487–R491): the 8b/10b code of IEEE 802.3 Clause 36 with its running disparity (PRESUMED from
that standard, which R489 names; log entry 76), the control symbols, the idle ordered sets, and the frame as it stands on the line.
-/
namespace Sys2Proof.Machine

/-- A symbol: a data byte, or a control symbol K.x.y with its number 32y + x. -/
inductive Sym where
  | data (b : Byte)
  | ctl (k : Byte)
  deriving DecidableEq, Repr

/-- The control symbols of R489. -/
def symK28_0 : Byte := 0x1C
def symSoe : Byte := 0x5C
def symResume : Byte := 0x7C
def symComma : Byte := 0xBC
def symSof : Byte := 0xFB
def symEof : Byte := 0xFD
def symAbort : Byte := 0xFE

/-- The control symbols that R489 gives a meaning; any other is an invalid symbol. -/
def ctlSyms : List Byte := [symK28_0, symSoe, symResume, symComma, symSof, symEof, symAbort]

/-- The 6-bit blocks abcdei of D.x at negative running disparity, a first. -/
def code6 : List Nat :=
  [0b100111, 0b011101, 0b101101, 0b110001, 0b110101, 0b101001, 0b011001, 0b111000,
   0b111001, 0b100101, 0b010101, 0b110100, 0b001101, 0b101100, 0b011100, 0b010111,
   0b011011, 0b100011, 0b010011, 0b110010, 0b001011, 0b101010, 0b011010, 0b111010,
   0b110011, 0b100110, 0b010110, 0b110110, 0b001110, 0b101110, 0b011110, 0b101011]

/-- The 4-bit blocks fghj of D.x.y at negative running disparity, f first. -/
def code4 : List Nat := [0b1011, 0b1001, 0b0101, 0b1100, 0b1101, 0b1010, 0b0110, 0b1110]

/-- The ones of a block. -/
def ones (n : Nat) : Nat → Nat
  | 0 => 0
  | k + 1 => n / 2 ^ k % 2 + ones n k

/-- The running disparity behind a block of 6 or 4 bits: `true` is positive. The balanced blocks 000111 and 0011 leave it positive, 111000
and 1100 negative. -/
def rdBlock (n : Nat) (rd : Bool) (block : Nat) : Bool :=
  if 2 * ones block n ≠ n then decide (n < 2 * ones block n)
  else if block + 1 = 2 ^ (n / 2) then true
  else if block + 2 ^ (n / 2) = 2 ^ n then false
  else rd

/-- The running disparity behind a 10-bit code, valid or not: over its 6-bit and then its 4-bit block. -/
def rdNext (rd : Bool) (code : Nat) : Bool := rdBlock 4 (rdBlock 6 rd (code / 16)) (code % 16)

/-- The 10-bit code of a data byte at a running disparity. -/
def encData (rd : Bool) (b : Byte) : Nat :=
  let x := b.toNat % 32
  let y := b.toNat / 32
  let c6 := code6.getD x 0
  let b6 := if rd && (decide (2 * ones c6 6 ≠ 6) || decide (x = 7)) then 63 - c6 else c6
  let r := rdBlock 6 rd b6
  let c4 := if y = 7 ∧ ((!r && [17, 18, 20].contains x) ∨ (r && [11, 13, 14].contains x)) then 0b0111 else code4.getD y 0
  let b4 := if r && (decide (2 * ones c4 4 ≠ 4) || decide (y = 3)) then 15 - c4 else c4
  b6 * 16 + b4

/-- The 10-bit code of a control symbol at negative running disparity; at positive it is the complement. -/
def ctlCode (k : Byte) : Nat :=
  if k = symK28_0 then 0b0011110100
  else if k = symSoe then 0b0011110101
  else if k = symResume then 0b0011110011
  else if k = symComma then 0b0011111010
  else if k = symSof then 0b1101101000
  else if k = symEof then 0b1011101000
  else 0b0111101000

/-- The 10-bit code of a symbol at a running disparity. -/
def encSym (rd : Bool) : Sym → Nat
  | .data b => encData rd b
  | .ctl k => if rd then 1023 - ctlCode k else ctlCode k

/-- The symbol that a 10-bit code is at a running disparity; none for an invalid symbol (R487). -/
def decSym (rd : Bool) (c : Nat) : Option Sym :=
  match ctlSyms.find? (fun k => decide (encSym rd (.ctl k) = c)) with
  | some k => some (.ctl k)
  | none => ((List.range 256).find? (fun b => decide (encData rd (BitVec.ofNat 8 b) = c))).map (fun b => .data (BitVec.ofNat 8 b))

/-- Symbols as 10-bit codes, from a running disparity on. -/
def encSyms (rd : Bool) : List Sym → List Nat
  | [] => []
  | x :: r => encSym rd x :: encSyms (rdNext rd (encSym rd x)) r

/-- The received 10-bit codes as symbols, from a running disparity on. -/
def decSyms (rd : Bool) : List Nat → List (Option Sym)
  | [] => []
  | c :: r => decSym rd c :: decSyms (rdNext rd c) r

/-- The idle ordered sets (R489, R491). -/
def idleR : List Sym := [.ctl symComma, .data 0x50]
def idleNr : List Sym := [.ctl symComma, .data 0xC5]
def wakeSet : List Sym := [.ctl symComma, .ctl symK28_0]

/-- The symbols are that many consecutive idle ordered sets. -/
def idleSets : Nat → List (Option Sym) → Bool
  | 0, _ => true
  | n + 1, a :: b :: r => [idleR, idleNr, wakeSet].any (fun w => decide ([a, b] = w.map some)) && idleSets n r
  | _, _ => false

/-- The last 16 symbols. -/
def lastSyms (l : List (Option Sym)) : List (Option Sym) := l.drop (l.length - 16)

/-- A receiver becomes synchronised: 8 consecutive valid idle ordered sets (R487). -/
def gainsSync (l : List (Option Sym)) : Bool := decide (16 ≤ l.length) && idleSets 8 (lastSyms l)

/-- A receiver loses synchronisation: 4 invalid symbols within 16 consecutive ones (R487). -/
def losesSync (l : List (Option Sym)) : Bool := decide (4 ≤ ((lastSyms l).filter Option.isNone).length)

/-- A frame on the line (R489, R490): SOF or SOE, its bytes in ascending order, EOF or ABORT. -/
def frameSyms (express good : Bool) (bs : List Byte) : List Sym :=
  .ctl (if express then symSoe else symSof) :: bs.map .data ++ [.ctl (if good then symEof else symAbort)]

/-- The codes on a pair of balls, which an exchange complements (R518). -/
def swapCodes (swap : Bool) (codes : List Nat) : List Nat := if swap then codes.map (fun c => 1023 - c) else codes

/-- A filler (R769). -/
def fillerSyms : List Sym := [.ctl symSoe, .ctl symAbort]

end Sys2Proof.Machine
end

