-- ==== Sys2Proof/Machine/Ring.lean ====
section
/-!
DEFINITION. The ring (13_ring_links_frames.md): links and their states, frames, passing frames on, transmit order and pre-emption,
the duplicate window, junction crossing, and delivery to the switch.
-/
namespace Sys2Proof.Machine

/-- A link, and setting it. -/
def lnk (s : State) (m : Nat) : LinkSt := tabGet (fun _ => {}) s.ring.links m
def setRing (s : State) (f : RingSt → RingSt) : State := { s with ring := f s.ring }
def setLnk (m : Nat) (v : LinkSt) (s : State) : State := setRing s (fun r => { r with links := tabSet (fun _ => {}) r.links m v })

/-- A transmitter, its own queue, and its forwarding gate. -/
def txOf (s : State) (m : Nat) : TxSt := tabGet (fun _ => {}) s.ring.tx m
def setTx (m : Nat) (v : TxSt) (s : State) : State := setRing s (fun r => { r with tx := tabSet (fun _ => {}) r.tx m v })
def fwdQ (s : State) (m : Nat) : List FwdFrame := tabGet (fun _ => []) s.ring.fwd m
def setFwd (m : Nat) (v : List FwdFrame) (s : State) : State := setRing s (fun r => { r with fwd := tabSet (fun _ => []) r.fwd m v })

/-- The number of 2 ns clocks in a millisecond. -/
def msClocks : Nat := 500000

/-! ### Headers and payloads (R492–R498) -/

/-- The 16 header bytes of a frame (R492, R493). -/
def frameHdr (f : Frame) (plen : Nat) : List Byte :=
  let b := bytesLE 4 (f.typ % 16 + 16 * b2n f.exp + 32 * b2n f.dkind + 256 * (f.dest % 4096) + 2 ^ 20 * (f.src % 4096)) ++
    bytesLE 2 (f.hops % 4096) ++ bytesLE 2 f.seq ++ bytesLE 2 (plen % 512) ++
    bytesLE 1 (b2n f.spec + 2 * b2n f.retx + 4 * b2n f.junc) ++ bytesLE 4 0
  b ++ [crc8 b]

/-- A whole frame: header, payload, CRC-32 (R490, R493). -/
def frameBytes (f : Frame) (payload : List Byte) : List Byte :=
  frameHdr f payload.length ++ payload ++ wordBytes (crc32 payload)

/-- A little-endian field of bytes. -/
def fieldLE (bs : List Byte) (o n : Nat) : Nat := ofBytesLE ((bs.drop o).take n)

/-- Fields of the header bytes (R492). -/
def hdrPlen (bs : List Byte) : Nat := fieldLE bs 8 2 % 512
def hdrHops (bs : List Byte) : Nat := fieldLE bs 4 2 % 4096

/-- The frame that header word 0 and bytes spell; the payload is cut to PLEN. -/
def frameOf (w0 : Word) (bs : List Byte) : Frame :=
  { typ := bits w0 3 0, exp := bit w0 4, dkind := bit w0 5, dest := bits w0 19 8, src := bits w0 31 20, hops := hdrHops bs,
    seq := fieldLE bs 6 2, spec := (bs.getD 10 0).getLsbD 0, retx := (bs.getD 10 0).getLsbD 1,
    junc := (bs.getD 10 0).getLsbD 2, payload := (bs.drop 16).take (hdrPlen bs) }

/-- A node ID that names one node. -/
def isNode (d : Nat) : Bool := decide (0 < d) && decide (d < 0xFFF)

/-- Header word 0 keeps the rules of its TYPE's row (R494). -/
def word0Ok (w : Word) : Bool :=
  let t := bits w 3 0
  let e := bit w 4
  let k := bit w 5
  let d := bits w 19 8
  decide (bits w 7 6 = 0) &&
  (if t = 0 then (if k then decide (d ≠ 0) else isNode d)
   else if t = 1 then !k && isNode d
   else if t = 4 then !k && !e && decide (d ≠ 0)
   else if t ≤ 6 then !k && !e && isNode d
   else if t = 7 then !k && e && (decide (d = 0) || decide (d = 0xFFF))
   else if t = 8 then !k && e
   else if t = 9 then !k && e && isNode d
   else false)

/-- The rest of the header keeps its rules: reserved bits 0, SPEC only in RDQ (R494). -/
def hdrRestOk (w : Word) (bs : List Byte) : Bool :=
  decide (fieldLE bs 4 2 < 4096) && decide (fieldLE bs 8 2 < 512) && decide (fieldLE bs 10 1 < 8) && decide (fieldLE bs 11 4 = 0) &&
  (!(bs.getD 10 0).getLsbD 0 || decide (bits w 3 0 = 2))

/-- A local source ID that is not reserved (R45, R47). -/
def srcOk (n : Nat) : Bool := decide (n < 294)

/-- Fields of a transaction header (R498). -/
def trAddr (p : List Byte) : Nat := fieldLE p 0 5
def trBlen (p : List Byte) : Nat := fieldLE p 6 2
def trIloc (p : List Byte) : Nat := fieldLE p 12 2
def trStatus (p : List Byte) : Nat := fieldLE p 14 1

/-- A transfer of n bytes that keeps its length and does not cross a 256-byte aligned boundary (R498). -/
def spanOk (a n : Nat) : Bool := decide (0 < n) && decide (a % 256 + n ≤ 256)

/-- A MGT payload keeps the rules of R522: a listed KIND, its PLEN, and 0 in the bytes and bits shown as 0. A RESULT above 4 breaks none
of them. -/
def mgtOk (p : List Byte) : Bool :=
  let z := fun (o n : Nat) => decide (fieldLE p o n = 0)
  let k := fieldLE p 0 1
  let b1 := fieldLE p 1 1
  if k = 0 then decide (p.length = 32) && decide (b1 < 16) && decide (fieldLE p 2 2 < 8) && z 16 16
  else if k = 1 then decide (p.length = 16) && decide (b1 < 2) && z 2 6
  else if k = 2 then decide (p.length = 32) && decide (b1 < 4) && z 2 2 && z 18 14
  else if k = 3 then decide (p.length = 16) && z 2 2 && z 6 2
  else if k = 4 then decide (p.length = 16) && decide (b1 < 2) && z 6 2
  else if k = 5 then decide (p.length = 16) && z 1 3 && z 6 2
  else false

/-- EXP and DEST keep the rows of R494 where the payload's KIND decides them: a TUN other than a raw block is not express (R494), a SYNC
goes to FFFh and a PD frame to 000h (R494), a MGT as the row DEST of R522. A KIND that no row lists, and one that is missing, is a matter of
the payload. -/
def destFits (f : Frame) : Bool :=
  let k := fieldLE f.payload 0 1
  if f.payload = [] then true
  else if f.typ = 1 then !f.exp || decide (k = 1) || decide (3 < k)
  else if f.typ = 7 then decide (2 < k) || decide (f.dest = if k = 0 then 0xFFF else 0)
  else if f.typ = 8 then
    (if k = 0 ∨ k = 1 then decide (f.dest = 0) else if k = 3 ∨ k = 4 then decide (f.dest = 0xFFF)
     else if k = 2 ∨ k = 5 then isNode f.dest else true)
  else true

/-- A TUN payload keeps the rules of R497. -/
def tunOk (p : List Byte) : Bool :=
  let k := fieldLE p 0 1
  let fl := fieldLE p 1 1
  let tg := fieldLE p 4 2
  let n := p.length - 16
  decide (17 ≤ p.length) && srcOk (fieldLE p 2 2) && decide (fieldLE p 6 2 = 0) && (decide (k < 2) || decide (fieldLE p 8 8 = 0)) &&
  (if k = 0 then decide (n ≤ 80) && decide (tg < 2) && decide (fl = 0)
   else if k = 1 then decide (n ≤ 256) && decide (tg < 272) && decide (fl < 8)
   else if k = 2 then decide (n ≤ 368) && decide (tg < 4) && decide (fl = 0)
   else if k = 3 then decide (n ≤ 252) && decide (tg < 16) && decide (fl = 0)
   else false)

/-- A taken frame keeps the payload rules of its TYPE (R494–R498, R366, R522). Reserved payload bits are 0 (DEDUCED, log entry 27). -/
def payloadOk (f : Frame) : Bool :=
  let p := f.payload
  let n := p.length
  let t := f.typ
  let z := fun (o n : Nat) => decide (fieldLE p o n = 0)
  let tr := decide (trAddr p < 2 ^ 36) && z 5 1 && srcOk (trIloc p) && z 15 1 && spanOk (trAddr p) (trBlen p)
  if t = 0 then
    decide (25 ≤ n) && decide (n ≤ 376) && decide (fieldLE p 10 2 % 4096 = f.src) && decide (fieldLE p 14 2 % 512 = n - 24) &&
    srcOk (fieldLE p 8 2 % 512)
  else if t = 1 then tunOk p
  else if t = 2 then decide (n = 16) && tr && decide (trStatus p = 0)
  else if t = 3 then decide (16 ≤ n) && tr && decide (trStatus p < 4) && decide (n = 16 + (if trStatus p = 0 then trBlen p else 0))
  else if t ≤ 5 then decide (16 ≤ n) && tr && decide (n = 16 + trBlen p) && decide (trStatus p = 0)
  else if t = 6 then decide (n = 16) && tr && decide (trStatus p < 4)
  else if t = 7 then decide (n = 32) && decide (fieldLE p 0 1 < 3) && decide (fieldLE p 1 1 < 2) && z 2 6 && z 24 8
  else if t = 8 then mgtOk p
  else decide (n = 16) && decide (fieldLE p 0 1 < 128) && z 1 7

/-! ### Neighbours -/

/-- NBR[m].VALID returns to 0 (R525). -/
def nbrClear (m : Nat) (s : State) : State :=
  let a := aRing (0x488 + 16 * m)
  if flag s a 31 then mgrSet 12 (clrBit s a 31) else s

/-! ### The end of copies on a transmitter -/

/-- A copy of this node's own leaves its cell (R28). -/
def ownDone (f : Frame) (s : State) : State :=
  match f.cell with
  | some c => releaseRef c s
  | none => s

/-- A copy ends with EOF on link m: it is counted, and its bytes are those last sent. -/
def sentEof (m : Nat) (bytes : List Byte) (s : State) : State :=
  setRing (trafInc s (aLink m 0x10)) (fun r => { r with out := tabSet (fun _ => []) r.out m bytes })

/-- A copy passed on ends on link m (R503). -/
def onwardEnd (m : Nat) (good : Bool) (bytes : List Byte) (s : State) : State :=
  if good then trafInc (sentEof m bytes s) (aLink m 0x14) else errInc s (aLink m 0x2C)

/-- A copy in transmission is ended with ABORT (R488, R503). -/
def abortCopy (m : Nat) (c : Option TxCopy) (s : State) : State :=
  match c with
  | none => s
  | some (.own f _) => errInc (ownDone f s) (aLink m 0x2C)
  | some _ => errInc s (aLink m 0x2C)

/-! ### Link errors and receptions that end badly -/

/-- Count a link error (R520): consecutive windows of WIN ms. -/
def linkErr (m cnt : Nat) (s : State) : State :=
  let s := errInc s (aLink m cnt)
  let win := s.now / (max 1 (fld s (aLink m 0x08) 23 16) * msClocks)
  let v := lnk s m
  let n := if v.errWin = win then v.errCnt + 1 else 1
  let s := setLnk m { v with errCnt := n, errWin := win } s
  if fld s (aLink m 0x08) 15 0 ≤ n then stickyRaise (aLink m 0x04) 9 (44 + m) s else s

/-- The frame of class `express` in reception on link m ends and is not passed on good: an onward copy that has started is ended
with ABORT; one that has not is never started (R503). -/
def onwardBad (m : Nat) (rx : RxFrame) (s : State) : State :=
  let p := partner m
  if rx.startAt.isNone then s
  else
    let t := txOf s p
    let isIt := fun (c : Option TxCopy) => match c with
      | some (.onward e none) => decide (e = rx.express)
      | _ => false
    if isIt t.cur then onwardEnd p false [] (setTx p { t with cur := none } s)
    else if isIt t.susp then setTx p { t with susp := some (.onward rx.express (some (false, []))) } s
    else s

/-- Remove the frame in reception at the head of link m. -/
def rxPop (m : Nat) (s : State) : State := setLnk m { lnk s m with rx := (lnk s m).rx.drop 1 } s

/-- Every frame in reception on link m ends as on an invalid symbol (R488, R503). -/
def rxAbort (m : Nat) (s : State) : State :=
  (lnk s m).rx.foldl (fun s rx => linkErr m 0x1C (onwardBad m rx (rxPop m s))) s

/-- The copies that a stopped transmitter carried are gone: no ABORT leaves (R488). -/
def dropCopy (c : Option TxCopy) (s : State) : State :=
  match c with
  | some (.own f _) => ownDone f s
  | _ => s

/-- LINK_DOWN: a link leaves UP (R488, R519, R525). The copies it sends are ended with ABORT while the transmitter still runs, which it
does not in OFF and ABSENT. -/
def linkDown (m : Nat) (s : State) : State :=
  let t := txOf s m
  let runs := decide (2 ≤ linkState s m)
  let s := setTx m {} (if runs then abortCopy m t.susp (abortCopy m t.cur s) else dropCopy t.susp (dropCopy t.cur s))
  nbrClear m (setBit (errInc s (aLink m 0x34)) (aLink m 0x04) 8)

/-- Apply a change to the ring unit and follow the state of link m (R486, R519, R524). Receptions end with the loss of synchronisation
(R488). -/
def linkChange (m : Nat) (f : State → State) (s : State) : State :=
  let old := linkState s m
  let s := f s
  let new := linkState s m
  if old = new then s
  else
    let s := if old = 5 then linkDown m s else s
    let s := if 4 ≤ old ∧ new < 4 then rxAbort m s else s
    let s := raise (40 + m) s
    if new = 5 then sendHello m s else s

/-- What a link sends between frames (R486). -/
inductive LineIdle where
  | nothing | idleNr | idleR | wake
  deriving DecidableEq, Repr

/-- The column "Sent on the link" of R486; a link in UP sends WAKE sets in place of idle sets after a write of NODE.WAKE_OUT (R682). -/
def idleSent (s : State) (m : Nat) : LineIdle :=
  let st := linkState s m
  if st ≤ 1 then .nothing else if st ≤ 3 then .idleNr
  else if st = 5 ∧ m ∈ s.power.wakeOut then .wake else .idleR

/-- The symbols that link m puts on the line from the end of one frame to the end of the next (R490): at least one idle ordered set, then
the frame. -/
def lineSyms (s : State) (m : Nat) (express good : Bool) (bs : List Byte) : List Sym :=
  match idleSent s m with
  | .nothing => []
  | .idleNr => idleNr
  | .idleR => idleR ++ frameSyms express good bs
  | .wake => wakeSet ++ frameSyms express good bs

/-- The 10-bit codes of those symbols on RNGm_TXP and RNGm_TXN, from a running disparity on; TXINV exchanges the balls (R489, R518). -/
def lineCodes (s : State) (m : Nat) (rd express good : Bool) (bs : List Byte) : List Nat :=
  swapCodes (flag s (aLink m 0x00) 2) (encSyms rd (lineSyms s m express good bs))

/-- The symbols that the codes at RNGm_RXP and RNGm_RXN are, from the receiver's running disparity on; RXINV exchanges the balls (R487,
R518). -/
def rxSyms (s : State) (m : Nat) (rd : Bool) (codes : List Nat) : List (Option Sym) :=
  decSyms rd (swapCodes (flag s (aLink m 0x00) 1) codes)

/-- LINK_SIGNAL_CHANGE: RNGm_LOS or RNGm_ABS changes (R486). Without a signal the receiver is not synchronised, and with the recovered clock
gone the ring paddock is reset (R148; DEDUCED, log entry 76). -/
def execLinkSignalChange (m : Nat) (los abs : Bool) (s : State) : Host.Outcome State Fault Refusal :=
  if m < 4 then
    let v := lnk s m
    let lost := (los || abs) && !(v.los || v.absent)
    let s := linkChange m (fun s =>
      setLnk m { v with los := los, absent := abs, sync := v.sync && !los && !abs, peer := v.peer && !los && !abs } s) s
    .next (if lost then paddockReset m s else s)
  else .next s

/-- LINK_SYNC_CHANGE: a receiver gains or loses synchronisation (R487). `codes` are the 10-bit codes last received at the balls, `rd` the
receiver's running disparity before them. -/
def execLinkSyncChange (m : Nat) (rd : Bool) (s : State) (codes : List Nat := []) : Host.Outcome State Fault Refusal :=
  let v := lnk s m
  let l := rxSyms s m rd codes
  if m < 4 ∧ 3 ≤ linkState s m ∧ (if v.sync then losesSync l else gainsSync l) then
    .next (linkChange m (fun s => setLnk m { v with sync := !v.sync, peer := false } s) s)
  else .next s

/-- LINK_UP: four consecutive IDLE_R sets arrive (R486). -/
def execLinkUp (m : Nat) (s : State) : Host.Outcome State Fault Refusal :=
  if m < 4 ∧ linkState s m = 4 then .next (linkChange m (fun s => setLnk m { lnk s m with peer := true } s) s) else .next s

/-- IDLE_NR_RECEIVE: an IDLE_NR set arrives from the peer (R486). -/
def execIdleNrReceive (m : Nat) (s : State) : Host.Outcome State Fault Refusal :=
  if m < 4 then .next (linkChange m (fun s => setLnk m { lnk s m with peer := false } s) s) else .next s

/-- A write of LINK[m].CTL (R486, R518). -/
def linkCtlWrite (m : Nat) (v : Word) (s : State) : State :=
  linkChange m (fun s =>
    let s := setReg s (aLink m 0x00) (v &&& 7)
    if bit v 0 then s else setLnk m { lnk s m with sync := false, peer := false } s) s

/-- A write of RING.CTL (R515): a pair whose rate changes leaves UP for ALIGN. -/
def ringCtlWrite (v : Word) (s : State) : State :=
  let old := getReg s (aRing 0x00)
  let pair := fun (i : Nat) => bit old i != bit v i
  let drop := fun (m : Nat) (s : State) => linkChange m (fun s => setLnk m { lnk s m with sync := false, peer := false } s) s
  let s := setReg s (aRing 0x00) (v &&& 3)
  let s := if pair 0 then drop 1 (drop 0 s) else s
  if pair 1 then drop 3 (drop 2 s) else s

/-- RING_RATE_WRITE: a write of RING.CTL (R515). -/
def execRingRateWrite (v : Word) (s : State) : Host.Outcome State Fault Refusal := .next (if awake s then ringCtlWrite v s else s)

/-- RNGm_TXDIS (R484, R664, R678). -/
def txDis (s : State) (m : Nat) : Bool :=
  !flag s (aLink m 0x00) 0 || (lnk s m).absent || (lnk s m).dark || decide (s.power.phase = .off)

/-- LINK[m].STAT with its live fields (R519). -/
def linkStatWord (s : State) (m : Nat) : Word :=
  let v := lnk s m
  setBits (getReg s (aLink m 0x04)) 6 0 (linkState s m + 16 * b2n v.los + 32 * b2n v.absent + 64 * b2n (txDis s m))

/-! ### Module access (R485, R521) -/

/-- A refused write of the ring unit (R36, R516). -/
def ringCfgErr (s : State) : State := setBit s (aRing 0x04) 4

/-- What the two-wire bus carries for the access in RING.MOD_CMD (R485): first 1 << LINK to the bus switch at SWADDR, unless that is 00h. -/
def modAccess (s : State) : ModBus :=
  let c := getReg s (aRing 0x20)
  let sw := fld s (aRing 0x28) 6 0
  { switch := if sw = 0 then none else some (sw, BitVec.ofNat 8 (2 ^ bits c 27 26)), dev := bits c 23 17, reg := bits c 15 8,
    data := if bit c 28 then some (BitVec.ofNat 8 (fld s (aRing 0x24) 7 0)) else none }

/-- A write of RING.MOD_CMD (R521); an accepted GO starts the access on the bus (R485). -/
def modCmdWrite (v : Word) (s : State) : State :=
  if bit v 31 && flag s (aRing 0x20) 31 then ringCfgErr s
  else
    let w := v &&& 0x9CFEFF00
    let keep := getReg s (aRing 0x20) &&& 0xC0000000
    let s := setReg s (aRing 0x20) (w ||| keep)
    if bit v 31 then setRing s (fun r => { r with modBus := some (modAccess s) }) else s

/-- MOD_READ: GO with WR = 0 (R521). -/
def execModRead (v : Word) (s : State) : Host.Outcome State Fault Refusal :=
  .next (if awake s then modCmdWrite ((v ||| 0x80000000) &&& 0xEFFFFFFF) s else s)

/-- MOD_WRITE: GO with WR = 1 (R521). -/
def execModWrite (v : Word) (s : State) : Host.Outcome State Fault Refusal :=
  .next (if awake s then modCmdWrite (v ||| 0x90000000) s else s)

/-- MOD_ACCESS_DONE: the access ends (R521); `ack` says whether it was acknowledged, `data` is the byte that a read returned. -/
def execModAccessDone (ack : Bool) (data : Byte) (s : State) : Host.Outcome State Fault Refusal :=
  if flag s (aRing 0x20) 31 ∧ awake s then
    let write := ((s.ring.modBus.map (fun b => b.data.isSome)).getD false)
    let s := setRing s (fun r => { r with modBus := none })
    let s := putBit (clrBit s (aRing 0x20) 31) (aRing 0x20) 30 (!ack)
    .next (if ack && !write then setReg s (aRing 0x24) (data.setWidth 32) else s)
  else .next s

/-! ### Time correction of a SYNC (R369) -/

/-- A SYNC's payload as it leaves (R369): received on link m with stamp rxAt, sent at txAt. In STABLED CORR is unchanged and NODELAY
set. -/
def syncFix (s : State) (m rxAt txAt : Nat) (p : List Byte) : List Byte :=
  let keep := decide (s.power.phase = .stabled)
  let known := delayKnown s m
  let add : Int := if keep then 0 else ((txAt : Int) - rxAt) + (if known then linkCorr s m else 0)
  let fl := if keep || !known then (p.getD 1 0) ||| 1 else p.getD 1 0
  p.take 1 ++ [fl] ++ (p.drop 2).take 14 ++ bytesLE 8 ((tpCorr p + add) % (2 ^ 64 : Int)).toNat ++ p.drop 24

/-- The bytes of an onward copy (R502): HOPS − 1, a regenerated HCRC, and for a SYNC the corrected payload with its CRC-32. -/
def onwardBytes (s : State) (m : Nat) (w0 : Word) (rxAt txAt : Nat) (bs : List Byte) : List Byte :=
  let hdr := bs.take 4 ++ bytesLE 2 (fieldLE bs 4 2 - 1) ++ (bs.drop 6).take 9
  let p := (bs.drop 16).take (hdrPlen bs)
  let p := if word0Ok w0 ∧ bits w0 3 0 = 7 ∧ bits w0 19 8 = 0xFFF ∧ tpKind p = 0 then syncFix s m rxAt txAt p else p
  hdr ++ [crc8 hdr] ++ p ++ wordBytes (crc32 p)

/-! ### Starting copies (R506–R508) -/

/-- The bytes of an own or crossed frame as it leaves on link m, with the stamps of TIME frames (R368, R369, R372). -/
def ownBytes (m : Nat) (f : Frame) (s : State) : List Byte × State :=
  let t := stampNow s
  let p := f.payload
  if f.typ = 7 then
    let k := tpKind p
    if k = 0 then
      if f.junc then (frameBytes f (syncFix s f.rxOn f.rxAt t p), s)
      else (frameBytes f (timePayload 0 0 (nsFt (t / 256)) (t % 256)), s)
    else if k = 1 then (frameBytes f p, setPd m { pdOf s m with t1 := if (pdOf s m).asked then some t else none } s)
    else (frameBytes f (timePayload 2 0 0 ((t : Int) - f.rxAt)), s)
  else (frameBytes f p, s)

/-- The length of a frame of the transmit queue, header and CRC-32 included. -/
def frameLen (s : State) (f : Frame) : Nat := 20 + framePlen s f

/-- The bytes of the whole frames that wait in the forwarding gate of link m. -/
def fwdBytes (s : State) (m : Nat) : Nat := ((fwdQ s m).map (fun w => w.bytes.length)).sum

/-- Put a copy on link m; a normal frame in progress is suspended. -/
def putCopy (m : Nat) (c : TxCopy) (s : State) : State :=
  let t := txOf s m
  match t.cur with
  | some x => setTx m { cur := some c, susp := some x } (trafInc s (aLink m 0x18))
  | none => setTx m { t with cur := some c } s

/-- The normal frame in progress on link m is suspended by a filler, which ends at once (R769). -/
def putFiller (m : Nat) (s : State) : State := setTx m { cur := none, susp := (txOf s m).cur } (trafInc s (aLink m 0x18))

/-- In Stabled a node sends frames that it passes on, and of its own only HELLO and REPORT (R523, R678). -/
def mayLeave (s : State) (f : Frame) : Bool :=
  decide (s.power.phase ≠ .stabled) || f.junc || (decide (f.typ = 8) && [0, 5].contains (fieldLE f.payload 0 1))

/-- A frame of the transmit queue is before the transmitter: it stands in gate 34 + m, or is one of the ring unit's own. -/
def ownReady (s : State) (express : Bool) (f : Frame) : Bool := !awaitsGate f && decide (f.exp = express) && mayLeave s f

/-- The switch fills gate 34 + m again, while its clock runs (R145). -/
def gateRefill (m : Nat) (s : State) : State := if awake s then gateFill m 64 s else s

/-- The clock of the ring paddocks stands still: in Stabled without RING_KEEP (R675). -/
def ringStopped (s : State) : Bool := decide (s.power.phase = .stabled) && !flag s (aNode 0x10) 31

/-- GO of RING.ADM_CMD returns to 0 when the last copy of its ASSIGN has left the transmit queues (R550). -/
def admSent (f : Frame) (s : State) : State :=
  if f.adm && !((List.range 4).any (fun m => (txQ s m).any (·.adm))) then clrBit s (aRing 0x440) 31 else s

/-- Start this node's first queued frame of a class on link m; on a link not in UP it is discarded (R488). The words it leaves in gate
34 + m are filled again. -/
def startOwn (m : Nat) (express : Bool) (s : State) : State :=
  match (txQ s m).find? (ownReady s express) with
  | none => s
  | some f =>
    let s := admSent f (setTxQ m ((txQ s m).eraseP (ownReady s express)) s)
    let s := gateRefill m s
    if !linkUp s m then errInc (ownDone f s) (aLink m 0x30)
    else if f.bad then errInc s (aLink m 0x2C)
    else
      let (bs, s) := ownBytes m f s
      putCopy m (.own f bs) s

/-- Start the first whole frame of a class that waits in the forwarding gate of link m. -/
def startFwd (m : Nat) (express : Bool) (s : State) : State :=
  match (fwdQ s m).find? (fun w => decide (w.express = express)) with
  | none => s
  | some w =>
    let s := setFwd m ((fwdQ s m).eraseP (fun w => decide (w.express = express))) s
    if !linkUp s m then errInc s (aLink m 0x30)
    else
      let w0 := wd (fieldLE w.bytes 0 4)
      putCopy m (.whole { w with bytes := onwardBytes s w.from_ w0 w.rxAt (stampNow s) w.bytes }) s

/-- The onward copy of a frame in reception has not started and still may. -/
def onwardWaits (r : RxFrame) : Bool := r.pass && r.startAt.isNone && !r.gone && !r.full

/-- A frame of a class is in reception on the partner link, is to be passed on, and its copy has not started. -/
def rxWaiting (s : State) (m : Nat) (express : Bool) : Bool :=
  (lnk s (partner m)).rx.any (fun r => onwardWaits r && decide (r.express = express))

/-- Start the onward copy of such a frame on link m (R502); on a link not in UP it is discarded (R488). -/
def startOnward (m : Nat) (express : Bool) (s : State) : State :=
  let v := lnk s (partner m)
  let up := linkUp s m
  let rx := v.rx.map (fun r =>
    if onwardWaits r && decide (r.express = express) then
      (if up then { r with startAt := some (stampNow s) } else { r with gone := true }) else r)
  let s := setLnk (partner m) { v with rx := rx } s
  if up then putCopy m (.onward express none) s else errInc s (aLink m 0x30)

/-- The express items of R506: passed-on, then own when the forwarding gate leaves room; `part` is the number of bytes in that gate that
belong to frames still in reception. The flag says that one was taken. -/
def takeExpress (m part : Nat) (s : State) : Bool × State :=
  if (fwdQ s m).any (·.express) then (true, startFwd m true s)
  else if rxWaiting s m true then (true, startOnward m true s)
  else
    match (txQ s m).find? (ownReady s true) with
    | some f => if fwdBytes s m + part + frameLen s f ≤ 512 then (true, startOwn m true s) else (false, s)
    | none => (false, s)

/-- The normal items of R506 at a frame start. `held` says that the received frame whose copy is suspended is itself suspended (R769);
`coming` that a frame whose bytes 00–03 are not decoded is arriving on the partner link. A frame to be passed on counts as arriving to its
end, whatever became of its copy. -/
def takeNormal (m part : Nat) (held coming : Bool) (s : State) : State :=
  let t := txOf s m
  if t.susp.isSome then (if held then s else setTx m { cur := t.susp, susp := none } s)
  else if (fwdQ s m).any (fun w => !w.express) then startFwd m false s
  else if rxWaiting s m false then startOnward m false s
  else if (fwdQ s m).isEmpty && decide (part = 0) && !coming && !(lnk s (partner m)).rx.any (·.pass) then startOwn m false s
  else s

/-- A copy whose last symbol has left ends: own frames, whole frames of the forwarding gate, and onward copies whose reception ended
while they were suspended. -/
def txFinish (m : Nat) (s : State) : State :=
  let t := txOf s m
  let done := fun (s : State) => setTx m { t with cur := none } s
  match t.cur with
  | some (.own f bs) => sentEof m bs (ownDone f (done s))
  | some (.whole w) => onwardEnd m true w.bytes (done s)
  | some (.onward _ (some (g, bs))) => onwardEnd m g bs (done s)
  | _ => s

/-- The onward copy carried or suspended on link m is of a normal frame whose reception an express frame suspends. -/
def rxSuspended (s : State) (m : Nat) : Bool :=
  let isIt := fun (c : Option TxCopy) => match c with
    | some (.onward false none) => true
    | _ => false
  (isIt (txOf s m).cur || isIt (txOf s m).susp) && (lnk s (partner m)).rx.any (·.express)

/-- The bytes of frames in reception in the forwarding gate of link m, with those of its whole frames, exceed its 512: the copy of the frame
in reception is ended with ABORT, and the frame counts in CNT_ABORTTX alone (R143, R503). -/
def gateOverrun (m part : Nat) (s : State) : State :=
  let v := lnk s (partner m)
  match v.rx with
  | [] => s
  | rx :: r =>
    if part ≠ 0 ∧ 512 < fwdBytes s m + part ∧ rx.pass ∧ !rx.gone ∧ !rx.full then
      let s := setLnk (partner m) { v with rx := { rx with full := true } :: r } s
      if rx.startAt.isSome then onwardBad (partner m) rx s else errInc s (aLink m 0x2C)
    else s

/-- TX_FRAME_START: the transmitter of link m ends the copy it has sent whole, and when it is free chooses the next item in the order
of R506. `part`, `held` and `coming` are those of takeExpress and takeNormal. -/
def execTxFrameStart (m : Nat) (s : State) (part : Nat := 0) (held : Bool := false) (coming : Bool := false) :
    Host.Outcome State Fault Refusal :=
  if m ≥ 4 ∨ ringStopped s then .next s
  else
    let s := gateOverrun m part (gateRefill m (txFinish m s))
    if (txOf s m).cur.isSome then .next s
    else
      let held := held || rxSuspended s m
      let (ok, s) := takeExpress m part s
      .next (if ok then s else takeNormal m part held coming s)

/-- PREEMPTION_POINT: at a 16-byte boundary of a normal frame in progress on link m (R507, R508, R769). `part` is that of takeExpress;
`held` says that SOE has suspended the received frame whose copy is in progress. -/
def execPreemptionPoint (m : Nat) (s : State) (part : Nat := 0) (held : Bool := false) : Host.Outcome State Fault Refusal :=
  if m ≥ 4 ∨ ringStopped s then .next s
  else
    let s := gateOverrun m part (gateRefill m s)
    let t := txOf s m
    let normal := match t.cur with
      | some (.own f _) => !f.exp
      | some (.onward e _) => !e
      | some (.whole w) => !w.express
      | _ => false
    let onward := match t.cur with
      | some (.onward _ none) => true
      | _ => false
    if !(normal && t.susp.isNone) then .next s
    else
      let susp := rxSuspended s m || (held && onward)
      let (ok, s) := takeExpress m part s
      .next (if ok then s else if susp then putFiller m s else s)

/-! ### Receptions (R501–R505) -/

/-- FRAME_HEADER_DECODE: bytes 00–03 of a frame on link m have been decoded, and the node decides (R494, R501, R502, R540, R665). `junc`
is the frame's JUNC bit. A free transmitter chooses by R506. -/
def execFrameHeaderDecode (m : Nat) (w : Word) (junc : Bool) (s : State) : Host.Outcome State Fault Refusal :=
  let v := lnk s m
  let exp := bit w 4
  if !(decide (m < 4) && decide (4 ≤ linkState s m) && (if exp then v.rx.all (fun r => !r.express) else v.rx.isEmpty)) then .next s
  else
    let own := s.nodeId
    let src := bits w 31 20
    let dest := bits w 19 8
    let k := bit w 5
    let ok := word0Ok w
    let stripped := (decide (src = own) && decide (own ≠ 0)) ||
      (s.ring.stripOn && decide (src = s.ring.lastId) && decide (src ≠ 0))
    let local_ := ok && !k && decide (dest = 0)
    let toOwn := ok && !k && decide (dest = own) && decide (own ≠ 0)
    let forAll := ok && (k || decide (dest = 0xFFF))
    let jstrip := flag s (aRing 0x424) 0 && junc && !stripped &&
      (if 2 ≤ m then !inJctRange s src else inJctRange s src)
    let pass := !stripped && !local_ && !toOwn && !jstrip
    let halter := decide (phaseCode s.power.phase = 1)
    let take := !stripped && (local_ || toOwn || forAll) && (!halter || decide (bits w 3 0 = 8))
    let s := if stripped then trafInc s (aRing 0x50) else s
    let s := if jstrip then trafInc s (aRing 0x468) else s
    let rx : RxFrame := { word0 := w, express := exp, pass := pass, take := take, alone := !stripped && (local_ || toOwn),
                          rxAt := stampNow s }
    let s := setLnk m { v with rx := rx :: v.rx } s
    let p := partner m
    if !pass then .next s
    else if !linkUp s p then .next (startOnward p exp s)
    else if (txOf s p).cur.isSome then .next s
    else
      let (done, s) := takeExpress p 0 s
      .next (if done then s else takeNormal p 0 (rxSuspended s p) false s)

/-- How many bytes of the frame `rx` the forwarding gate of link p takes (R143, R503): of a copy that waits there whole, as many as find
room behind the frames already in it; one that found it full earlier did so behind its header. -/
def fwdRoom (s : State) (p : Nat) (rx : RxFrame) : Nat :=
  if rx.full then 16 else if onwardWaits rx then 512 - fwdBytes s p else 1024

/-- The onward copy of a good frame on link m (R502): ended with EOF, or waiting whole in the forwarding gate. -/
def onwardGood (m : Nat) (rx : RxFrame) (bs : List Byte) (s : State) : State :=
  let p := partner m
  if !rx.pass || rx.gone then s
  else
    match rx.startAt with
    | none => setFwd p (fwdQ s p ++ [{ express := rx.express, bytes := bs, from_ := m, rxAt := rx.rxAt }]) s
    | some t0 =>
      let out := onwardBytes s m rx.word0 rx.rxAt t0 bs
      let t := txOf s p
      let isIt := fun (c : Option TxCopy) => match c with
        | some (.onward e none) => decide (e = rx.express)
        | _ => false
      if isIt t.cur then onwardEnd p true out (setTx p { t with cur := none } s)
      else if isIt t.susp then setTx p { t with susp := some (.onward rx.express (some (true, out))) } s
      else s

/-- Set OLD or JUMP of RING.STAT, with event 50 (R511). -/
def dupFlag (b : Nat) (s : State) : State := stickyRaise (aRing 0x04) b 50 s

/-- The window entry of a source. -/
def dupEntry (s : State) (src : Nat) : DupEntry := tabGet (fun _ => {}) s.ring.dup src

/-- An entry is valid at this time (R511). -/
def dupValid (s : State) (e : DupEntry) : Bool := e.valid && decide (s.now - e.last < fld s (aRing 0x08) 7 0 * msClocks)

/-- Bits a to a + n − 1 of a window, modulo 1,024. -/
def dupClear (map : BitVec 1024) (a : Nat) : Nat → BitVec 1024
  | 0 => map
  | n + 1 => dupClear (map &&& ~~~ ((1 : BitVec 1024) <<< (a % 1024))) (a + 1) n

/-- The words of a window entry that the test of a frame reads (R714): 17 words to an entry, of which the first holds VALID and HIGH. A
frame that meets an uncorrectable one is discarded (R715; log entry 21). -/
def dupEcc (src seq : Nat) (s : State) : Bool × State :=
  let (bad, s) := eccRead (aDup src 0) 8 s
  if bad || !dupValid s (dupEntry s src) then (bad, s) else eccRead (aDup src (1 + seq % 1024 / 64)) 8 s

/-- DUPLICATE_WINDOW_TEST (R511). An update writes the entry's words anew. -/
def dupTest (src seq : Nat) (s : State) : Bool × State :=
  let (bad, s) := dupEcc src seq s
  if bad then (false, s) else
  let e := dupEntry s src
  let b : BitVec 1024 := (1 : BitVec 1024) <<< (seq % 1024)
  let put := fun (ws : List Nat) (e : DupEntry) (s : State) =>
    setRing (ws.foldl (fun s w => eccClean (aDup src w) 8 s) s)
      (fun r => { r with dup := tabSet (fun _ => {}) r.dup src { e with last := s.now } })
  if !dupValid s e then (true, put (List.range 17) { valid := true, high := seq, map := b } s)
  else
    let d := sgnN 16 (seq + 65536 - e.high)
    if 1024 ≤ d then (true, put (List.range 17) { e with high := seq, map := b } (dupFlag 1 (errInc s (aRing 0x4C))))
    else if 0 < d then
      let ws := (List.range d.toNat).map (fun i => 1 + (e.high + 1 + i) % 1024 / 64)
      (true, put (0 :: ws) { e with high := seq, map := dupClear e.map (e.high + 1) (d.toNat - 1) ||| b } s)
    else if -1024 < d then
      if e.map &&& b = 0 then (true, put [0] { e with map := e.map ||| b } s) else (false, trafInc s (aRing 0x44))
    else (false, dupFlag 0 (errInc s (aRing 0x48)))

/-- JUNCTION_CROSS (R538, R539): the admitted copy goes out as one copy on each link of the other pair. -/
def crossFrame (m : Nat) (f : Frame) (s : State) : State :=
  let toBranch := decide (m < 2)
  if crosses s (gsubBit s) toBranch f then
    let g := { f with hops := f.hops - 1, junc := true, rxOn := m }
    let s := trafInc s (aRing (if toBranch then 0x45C else 0x460))
    if toBranch then queueOn 3 g (queueOn 2 g s) else queueOn 1 g (queueOn 0 g s)
  else s

/-- A taken and admitted frame enters ring-to-switch gate 38 + m, or is discarded when the gate cannot take it whole (R505). -/
def acceptFrame (m : Nat) (f : Frame) (s : State) : State :=
  if 64 < inqWords s m + frameWords s f then errInc s (aRing 0x60)
  else setRing (trafInc s (aRing 0x40)) (fun r =>
      { r with inq := tabSet (fun _ => []) r.inq m (tabGet (fun _ => []) r.inq m ++ [f]) })

/-- A frame whose header keeps the rules, behind it: the junction copy, the payload's rules and the duplicate test (R495, R505, R510). The
crossing does not depend on the state of the partner link (R538). -/
def admitFrame (m : Nat) (rx : RxFrame) (f : Frame) (s : State) : State :=
  let cross := rx.pass && crosses s (gsubBit s) (decide (m < 2)) f
  if !(rx.take || cross) then s
  else if rx.take && !payloadOk f then setBit (errInc s (aRing 0x58)) (aRing 0x04) 2
  else
    let d := if f.src = 0 ∨ (f.dest = 0 ∧ ¬ f.dkind) then (true, s) else dupTest f.src f.seq s
    if !d.1 then d.2
    else
      let s := if cross then crossFrame m f d.2 else d.2
      if rx.take then acceptFrame m f s else s

/-- A frame that passed every check of R503 (R494, R495, R505, R510, R539). One for this node alone whose header breaks a rule only behind
byte 03 goes on whole (log entry 31). -/
def goodFrame (m : Nat) (rx : RxFrame) (bs : List Byte) (s : State) : State :=
  let s := trafInc s (aLink m 0x0C)
  let s := onwardGood m rx bs s
  let f := frameOf rx.word0 bs
  if !(word0Ok rx.word0 && hdrRestOk rx.word0 bs && destFits f) then
    let s := if rx.alone then onwardGood m { rx with pass := true, startAt := none } bs s else s
    setBit (errInc s (aRing 0x5C)) (aRing 0x04) 3
  else admitFrame m rx { f with rxAt := rx.rxAt, rxOn := m } s

/-- What spoils a received frame (R503): HOPS 0, a PLEN above 384, a full forwarding gate, or a cause that counts in a counter of the link
and may be a link error of R520. -/
inductive BadCause where
  | hops | plen | full
  | link (counter : Nat) (error : Bool)
  deriving DecidableEq, Repr

/-- The cause that spoils a received frame (R503), in the order in which it is decided; a frame that goes on behind its 20 + PLEN bytes has
no EOF there, whatever ends it. The forwarding gate takes `room` of its bytes. -/
def badCause (room : Nat) (bs : List Byte) (fin : FrameEnd) : Option BadCause :=
  let n := bs.length
  let full := fun (k : Nat) => decide (room < min k n)
  if full 6 then some .full
  else if 6 ≤ n ∧ hdrHops bs = 0 then some .hops
  else if full 10 then some .full
  else if 10 ≤ n ∧ 385 ≤ hdrPlen bs then some .plen
  else if full 16 then some .full
  else if 16 ≤ n ∧ crc8 (bs.take 15) ≠ bs.getD 15 0 then some (.link 0x20 true)
  else if full n then some .full
  else if 10 ≤ n ∧ 20 + hdrPlen bs < n then some (.link 0x24 true)
  else if fin = .bad then some (.link 0x1C true)
  else if fin = .abort then some (.link 0x28 false)
  else if n ≠ 20 + hdrPlen bs ∨ wordBytes (crc32 ((bs.drop 16).take (hdrPlen bs))) ≠ (bs.drop (16 + hdrPlen bs)).take 4 then
    some (.link 0x24 true)
  else none

/-- Count the cause on link m (R503). A copy that a full gate spoiled was counted when it was ended. -/
def countCause (m : Nat) (rx : RxFrame) (c : BadCause) (s : State) : State :=
  match c with
  | .hops => errInc s (aRing 0x54)
  | .plen => setBit (errInc s (aRing 0x58)) (aRing 0x04) 2
  | .full => if rx.full then s else errInc s (aLink (partner m) 0x2C)
  | .link counter error => if error then linkErr m counter s else errInc s (aLink m counter)

/-- A frame, or a control symbol, that ends before its bytes 00–03 are decoded (R503, R508, R769): a filler, SOE directly followed by ABORT,
which is discarded whether or not the normal frame that it suspended is still in reception; an ABORT, or an unexpected symbol such as a
RESUME with no frame suspended; a frame that ends so early with EOF is too short. `soe` says that it began with SOE. -/
def shortEnd (m : Nat) (bs : List Byte) (fin : FrameEnd) (soe : Bool) (s : State) : State :=
  match fin with
  | .abort => if bs.isEmpty && (soe || !(lnk s m).rx.isEmpty) then s else errInc s (aLink m 0x28)
  | .bad => linkErr m 0x1C s
  | .eof => linkErr m (if bs.isEmpty then 0x1C else 0x24) s

/-- FRAME_END: the frame in reception on link m ends (R502, R503, R505); `bs` are the bytes received, `fin` how it ended; `soe` is that of
shortEnd. -/
def execFrameEnd (m : Nat) (bs : List Byte) (fin : FrameEnd) (s : State) (soe : Bool := false) : Host.Outcome State Fault Refusal :=
  if m ≥ 4 ∨ linkState s m < 4 then .next s
  else if bs.length < 4 then .next (shortEnd m bs fin soe s)
  else
    match (lnk s m).rx with
    | [] => .next s
    | rx :: _ =>
      match badCause (fwdRoom s (partner m) rx) bs fin with
      | none => .next (goodFrame m rx bs (rxPop m s))
      | some c => .next (countCause m rx c (if rx.full then rxPop m s else onwardBad m rx (rxPop m s)))

/-- RING.DUP_VIEW (R517). -/
def dupView (s : State) : Word :=
  let e := dupEntry s (fld s (aRing 0x10) 11 0)
  wd (b2n (dupValid s e) * 2 ^ 31 + e.high % 65536)

/-! ### Delivery to the switch (R254, R290, R291, R496, R497) -/

/-- The length of the '\'…'\' blocks at the start of a text: `pos` characters have been read, `good` of them up to the end of the
last whole block; `inside` a block. -/
def tagPrefix : List Byte → Nat → Nat → Bool → Nat
  | [], _, good, _ => good
  | b :: r, pos, good, true => if b = 0x5C then tagPrefix r (pos + 1) (pos + 1) false else tagPrefix r (pos + 1) good true
  | b :: r, pos, good, false => if b = 0x5C then tagPrefix r (pos + 1) good true else good

/-- TAGLEN of a cell built from ring text (R496). -/
def ringTagLen (txt : List Byte) : Nat := tagPrefix txt 0 0 false

/-- CKOK and CKABS of a sentence part (R496, R234): the exclusive OR runs from behind the opening character to the '*'. -/
def ringCk (part : List Byte) : Bool × Bool :=
  let body := (part.drop 1).takeWhile (fun b => decide (b ≠ 0x2A))
  let tail := (part.drop 1).dropWhile (fun b => decide (b ≠ 0x2A))
  match tail with
  | [] => (false, true)
  | _ :: a :: b :: _ =>
    let h := a.toNat
    let l := b.toNat
    (isHexChar h && isHexChar l && decide (hexVal h * 16 + hexVal l = xorBytes body), false)
  | _ => (false, false)

/-- The opening and address characters of a sentence part, for the route key (R269). -/
def partAddr (part : List Byte) : Nat × List Nat :=
  ((part.getD 0 0).toNat,
   (((part.drop 1).takeWhile (fun b => decide (b ≠ 0x2C) && decide (b ≠ 0x2A))).take 5).map (·.toNat))

/-- The consumers of GSUB[g] with RTLOOK = 0 (R290). -/
def groupTargets (s : State) (lo hi : Word) : Targets :=
  let dw := dword hi lo
  let f := fun (h l : Nat) => (dw.toNat >>> l) % 2 ^ (h + 1 - l)
  { prio := f 57 55, eng := if f 43 43 = 1 then some (f 41 38, f 42 42) else none, host := f 37 34, can := f 33 32,
    ports := if f 53 44 = 0 then []
             else ((List.range 272).filter (inPset s s.tables.active (f 53 44))).map (fun p => (p, f 59 59 = 1, f 58 58 = 1)) }

/-- The earlier of a frame's and a local deadline (R318). -/
def earlierDeadline (frame loc : Nat) : Nat :=
  if loc = 0 then frame
  else if frame ≠ 0 ∧ 2 ^ 31 ≤ (frame + 2 ^ 32 - loc) % 2 ^ 32 then frame else loc

/-- Build the cell of a received sentence (R254, R262, R496): none when the pool refuses. -/
def ringCell (f : Frame) (s : State) : Option (Nat × CellHdr) × State :=
  let p := f.payload
  let txt := p.drop 24
  match allocChain ownerRing txt.length s with
  | (none, s) => (none, s)
  | (some (c, next), s) =>
    let tl := ringTagLen txt
    let (ok, ab) := ringCk (txt.drop tl)
    let src := fieldLE p 8 2 % 512
    let eng := decide (272 ≤ src) && decide (src < 288)
    let h : CellHdr := { stamp := BitVec.ofNat 64 (fieldLE p 0 8), src := src, node := fieldLE p 10 2 % 4096, len := txt.length,
                         deadline := fieldLE p 16 4, seq := fieldLE p 20 4, next := next, tagLen := tl,
                         flags := b2n ok + 2 * b2n ab + 4 * b2n (decide (tl ≠ 0)) + 32 * b2n eng + 64 }
    (some (c, h), writeText c (next.getD 0) (chainCells txt.length) txt (writeHdr c h s))

/-- A ring sentence routed by a lookup of the local table (R291, R318). -/
def ringRouted (c : Nat) (h : CellHdr) (txt : List Byte) (s : State) : State :=
  let (op, addr) := partAddr (txt.drop h.tagLen)
  let cap := lookupRing s h.node h.src op addr
  let (drop, t, s) := routeDecide cap h.stamp s
  let t := { t with group := 0, express := false }
  let s := writeHdr c { h with unmatched := cap.unmatched, ridx := cap.ridx, prio := t.prio,
                               deadline := earlierDeadline h.deadline (deadlineOf h.stamp t.deadline) } s
  let s := markCommitted c s
  let s := if cap.unmatched then trafInc s (aSw 0x214) else s
  settle c (if drop then s else toConsumers c t [] [] s)

/-- A word of GSUB[g] of the active bank (R289); an entry bad in both copies is empty (R722). -/
def gsubWord (s : State) (g o : Nat) : Word :=
  if entryBad s s.tables.active 2 8 g then 0 else tblWord s s.tables.active 2 (8 * g + o)

/-- A received SENT frame (R254, R290, R291). -/
def deliverSent (f : Frame) (s : State) : State :=
  let txt := f.payload.drop 24
  if !f.dkind then
    match ringCell f s with
    | (none, s) => s
    | (some (c, h), s) => ringRouted c h txt s
  else
    let g := f.dest
    let s := parRead s.tables.active 2 g s
    let hi := gsubWord s g 4
    if !bit hi 31 then s
    else
      match ringCell f s with
      | (none, s) => s
      | (some (c, h), s) =>
        let hits := fun (s : State) => tblPut s s.tables.active 2 (8 * g) (gsubWord s g 0 + 1)
        if bit hi 30 then ringRouted c h txt (hits s)
        else
          let t := groupTargets s (gsubWord s g 0) hi
          let s := parRead s.tables.active 1 (bits hi 21 12) s
          let s := markCommitted c (writeHdr c { h with ridx := g, prio := t.prio } s)
          settle c (toConsumers c t [] [] (hits s))

/-- A received TUN frame (R497). -/
def deliverTun (f : Frame) (s : State) : State :=
  let p := f.payload
  tunDeliver true f.src (fieldLE p 0 1) (fieldLE p 2 2) (fieldLE p 4 2) (BitVec.ofNat 64 (fieldLE p 8 8)) (p.drop 16) s

/-- A frame of gate 38 + m is one for the switch: a sentence, a tunnel payload, or a frame of a transaction; the others are the time unit's,
the ring unit's and the event unit's. -/
def forSwitch (f : Frame) : Bool := decide (f.typ < 7)

/-- A CAN frame in a tunnel waits while gate 93 is full (R143). -/
def tunWaits (s : State) (f : Frame) : Bool := decide (f.typ = 1) && decide (fieldLE f.payload 0 1 = 0) && !canRecRoom s

/-- RING_FRAME_DELIVER: the switch takes its first frame in ring-to-switch gate 38 + m: a sentence, a tunnel payload, or a frame of a
transaction for the fabric unit (R254, R290, R497, R580). -/
def execRingFrameDeliver (m : Nat) (s : State) : Host.Outcome State Fault Refusal :=
  if m ≥ 4 ∨ ¬ awake s then .next s
  else
    let q := tabGet (fun _ => []) s.ring.inq m
    match q.find? forSwitch with
    | none => .next s
    | some f =>
      if tunWaits s f then .next s
      else
        let s := setRing s (fun x => { x with inq := tabSet (fun _ => []) x.inq m (q.eraseP forSwitch) })
        if f.typ = 0 then .next (deliverSent f s)
        else if f.typ = 1 then .next (deliverTun f s)
        else .next { s with fab := { s.fab with arrived := s.fab.arrived ++ [f] } }

end Sys2Proof.Machine
end

