-- ==== Sys2Proof/Machine/Member.lean ====
section
/-!
DEFINITION. Ring membership (14_ring_membership.md): neighbours, admission, manager election, surveys, remote events, and the event
unit's commands (18_events.md).
-/
namespace Sys2Proof.Machine

/-- Change the manager's own state. -/
def setMgr (s : State) (f : MgrSt → MgrSt) : State := setRing s (fun r => { r with mgr := f r.mgr })

/-- A waiting MGT frame of a KIND (R522). -/
def isMgt (kind : Nat) (f : Frame) : Bool := decide (f.typ = 8) && decide (fieldLE f.payload 0 1 = kind)

/-- This node is the manager (R546). -/
def isMgr (s : State) : Bool := flag s (aRing 0x404) 0

/-- An election is running at this node. -/
def electing (s : State) : Bool := flag s (aRing 0x404) 1

/-- Fields of a MGT payload (R522). -/
def mgtByte1 (f : Frame) : Nat := fieldLE f.payload 1 1
def mgtHalf2 (f : Frame) : Nat := fieldLE f.payload 2 2
def mgtHalf4 (f : Frame) : Nat := fieldLE f.payload 4 2
def mgtHalf6 (f : Frame) : Nat := fieldLE f.payload 6 2
def mgtDuid (f : Frame) : DWord := BitVec.ofNat 64 (fieldLE f.payload 8 8)

/-- Originate a MGT frame that is not link-local: only in RUNNING or FAULT (R523). -/
def sendMgt (dest : Nat) (payload : List Byte) (s : State) : State :=
  if originates s then originate { typ := 8, exp := true, dest := dest, src := s.nodeId, payload := payload } s else s

/-! ### MEMBER (R544) -/

/-- MEMBER[id]. -/
def member (s : State) (id : Nat) : DWord := dword (getReg s (aRing (0x8000 + 8 * id + 4))) (getReg s (aRing (0x8000 + 8 * id)))

/-- Write MEMBER[id]; a change sets TOPO (R530). -/
def setMember (id : Nat) (d : DWord) (s : State) : State :=
  if member s id = d then s
  else mgrSet 12 (setReg (setReg s (aRing (0x8000 + 8 * id)) (lo32 d)) (aRing (0x8000 + 8 * id + 4)) (hi32 d))

/-- The ID whose MEMBER entry holds a DUID. -/
def memberId (s : State) (d : DWord) : Option Nat :=
  (((s.regs.filter (fun e => decide (aRing 0x8000 ≤ e.1) && decide (e.1 < aRing 0x10000))).map
    (fun e => (e.1 - aRing 0x8000) / 8)).find? (fun i => decide (member s i = d)))

/-- The lowest ID in lo..hi whose MEMBER entry is 0 (R528). -/
def memberFree (s : State) (lo hi : Nat) : Option Nat :=
  ((List.range (hi + 1 - lo)).map (fun i => lo + i)).find? (fun i => decide (member s i = 0))

/-! ### ASSIGN (R530–R532) -/

/-- The node enters HALTER without a reset (R532): it has no ID. -/
def toHalter (s : State) : State :=
  nodeChanged { s with nodeId := 0, power := { s.power with phase := .halter } }

/-- The effect of an ASSIGN on this node (R530–R532). DESIGN CHOICE: a reserved RESULT changes nothing (log entry 76). -/
def assignApply (result id : Nat) (d : DWord) (s : State) : State :=
  let s := if result = 0 then setMember id d s
           else if (result = 3 ∨ result = 4) ∧ member s id = d then setMember id 0 s
           else s
  if d ≠ s.duid then s
  else if s.power.phase = .halter then
    if result = 0 then
      let s := { s with nodeId := id, power := { s.power with phase := .running },
                        ring := { s.ring with lastId := id, stripOn := false } }
      nodeChanged (trafInc s (aRing 0x450))
    else if result = 1 ∨ result = 2 then mgrSet 9 s
    else s
  else if s.power.phase = .running ∧ result = 4 ∧ id = s.nodeId then toHalter (mgrSet 10 s)
  else s

/-- The ASSIGN frame of the manager; `adm` marks one of RING.ADM_CMD (R550). -/
def sendAssign (adm : Bool) (result id : Nat) (d : DWord) (s : State) : State :=
  if originates s then
    originate { typ := 8, exp := true, dest := 0xFFF, src := s.nodeId, adm := adm, payload := mgtPayload 3 result 0 id 0 d [] } s
  else s

/-- The manager's own application of an ASSIGN (R530). The surveys that MEMBER[id] has missed are counted anew when it changes (R537). -/
def assignOwn (result id : Nat) (d : DWord) (s : State) : State :=
  let t := assignApply result id d s
  if member t id = member s id then t else setMgr t (fun g => { g with missed := tabSet (fun _ => 0) g.missed id 0 })

/-- Broadcast an ASSIGN; the manager applies its own at the moment it sends it (R530), and neither when it can send none (R523). A new
manager in HALTER that refuses itself applies that, though it cannot send it (R531, R534; log entry 76). -/
def assign (adm : Bool) (result id : Nat) (d : DWord) (s : State) : State :=
  if originates s then assignOwn result id d (sendAssign adm result id d s)
  else if s.power.phase = .halter ∧ d = s.duid ∧ (result = 1 ∨ result = 2) ∧ !adm then assignOwn result id d s
  else s

/-- The ASSIGNs of a grant, in order: a DUID held under another ID is removed first (R528, R550). -/
def grantList (id : Nat) (d : DWord) (s : State) : List (Nat × Nat) :=
  (match memberId s d with
    | some x => if x = id then [] else [(3, x)]
    | none => []) ++ [(0, id)]

/-- Grant an ID. A new manager in HALTER that admits itself enters RUNNING and then sends the ASSIGNs (R534; log entry 76). -/
def assignGranted (adm : Bool) (id : Nat) (d : DWord) (s : State) : State :=
  let as := grantList id d s
  if s.power.phase = .halter ∧ d = s.duid then
    as.foldl (fun s a => sendAssign adm a.1 a.2 d s) (as.foldl (fun s a => assignOwn a.1 a.2 d s) s)
  else as.foldl (fun s a => assign adm a.1 a.2 d s) s

/-! ### Admission (R526–R529) -/

/-- Fill of ADMQ. -/
def admqFill (s : State) : Nat := (fld s (aRing 0x430) 4 0 + 32 - fld s (aRing 0x434) 4 0) % 32

/-- A DUID waits in ADMQ. -/
def admqHolds (s : State) (d : DWord) : Bool :=
  (List.range (admqFill s)).any (fun i =>
    let a := aRing (0x500 + 16 * ((fld s (aRing 0x434) 4 0 + i) % 16))
    decide (dword (getReg s (a + 4)) (getReg s a) = d))

/-- Put an entry into ADMQ (R549); a full queue discards it. The flag says that it was put. -/
def admqPut (d : DWord) (r relay lo hi : Nat) (coll : Bool) (s : State) : Bool × State :=
  if admqFill s = 16 then (false, mgrSet 15 s)
  else
    let h := fld s (aRing 0x430) 4 0
    let a := aRing (0x500 + 16 * (h % 16))
    let known := (memberId s d).isSome
    let s := setReg (setReg s a (lo32 d)) (a + 4) (hi32 d)
    let s := setReg s (a + 8) (wd (r % 65536 + 65536 * (relay % 65536)))
    let s := setReg s (a + 12) (wd (lo % 65536 + 65536 * (hi % 4096 + 16384 * b2n known + 32768 * b2n coll)))
    (true, setReg s (aRing 0x430) (wd ((h + 1) % 32)))

/-- Note that the manager has decided a DUID now (R528). -/
def noteDecided (d : DWord) (s : State) : State :=
  setMgr s (fun g => { g with decided := (d, s.now) :: g.decided.filter (fun e => decide (s.now - e.2 < 100 * msClocks) && decide (e.1 ≠ d)) })

/-- The manager's own decision (R528). -/
def decideAdmit (d : DWord) (r lo hi relay : Nat) (s : State) : State :=
  let x := memberId s d
  let pick := if r ≠ 0 then some r else match x with
    | some i => some i
    | none => memberFree s lo hi
  let s := noteDecided d s
  match pick with
  | none => assign false 2 0 d s
  | some id =>
    if member s id = 0 ∨ member s id = d then assignGranted false id d s
    else
      let s := (admqPut d r relay lo hi true s).2
      assign false 1 id d (mgrSet 9 (errInc s (aRing 0x454)))

/-- A request reaches the manager (R528, R529). -/
def admitRequest (d : DWord) (r lo hi relay : Nat) (s : State) : State :=
  if !isMgr s then s
  else if s.ring.mgr.decided.any (fun e => decide (e.1 = d) && decide (s.now - e.2 < 100 * msClocks)) then s
  else if flag s (aRing 0x400) 4 then decideAdmit d r lo hi relay s
  else if admqHolds s d then s
  else
    let (ok, s) := admqPut d r relay lo hi false s
    if ok then mgrSet 8 s else s

/-- The relay's part (R527): at most one request per link in each HELLO_MS. -/
def relayRequest (m : Nat) (f : Frame) (s : State) : State :=
  let mid := fld s (aRing 0x408) 11 0
  let lo := fld s (aRing 0x41C) 11 0
  let hi := fld s (aRing 0x41C) 27 16
  let recent := match tabGet (fun _ => none) s.ring.mgr.reqAt m with
    | some t => decide (s.now - t < fld s (aRing 0x420) 7 0 * msClocks)
    | none => false
  if isMgr s then admitRequest (mgtDuid f) (mgtHalf6 f % 4096) lo hi s.nodeId s
  else if decide (mid = 0) || recent then s
  else
    let s := setMgr s (fun g => { g with reqAt := tabSet (fun _ => none) g.reqAt m (some s.now) })
    sendMgt mid (mgtPayload 2 (m % 4) 0 (mgtHalf6 f % 4096) lo (mgtDuid f) (bytesLE 2 hi ++ bytesLE 14 0)) s

/-- HELLO_SEND: every HELLO_MS a node sends a HELLO on each link in UP (R524). -/
def execHelloSend (s : State) : Host.Outcome State Fault Refusal := .next (helloAll s)

/-- HELLO_RECEIVE: a HELLO taken on link m sets NBR[m], and a RUNNING node relays the request of a ready node in HALTER (R525, R527). -/
def execHelloReceive (m : Nat) (s : State) : Host.Outcome State Fault Refusal :=
  if m ≥ 4 then .next s
  else
    match ringTake (isMgt 0) m s with
    | (none, s) => .next s
    | (some f, s) =>
      let a := aRing (0x480 + 16 * m)
      let st := mgtHalf2 f % 8
      let info := wd (2 ^ 31 + st * 65536 + mgtByte1 f % 4 * 4096 + mgtHalf4 f % 4096)
      let same := decide (getReg s a = lo32 (mgtDuid f)) && decide (getReg s (a + 4) = hi32 (mgtDuid f)) &&
        decide (getReg s (a + 8) = info)
      let s := setReg (setReg (setReg s a (lo32 (mgtDuid f))) (a + 4) (hi32 (mgtDuid f))) (a + 8) info
      let s := setMgr (if same then s else mgrSet 12 s) (fun g => { g with heardAt := tabSet (fun _ => none) g.heardAt m (some s.now) })
      .next (if s.power.phase = .running ∧ st = 1 ∧ (mgtByte1 f).testBit 2 then relayRequest m f s else s)

/-- NBR_EXPIRY: 3 × HELLO_MS pass on link m without a HELLO; one taken in the clock of expiry keeps VALID (R525, R32). -/
def execNbrExpiry (m : Nat) (s : State) : Host.Outcome State Fault Refusal :=
  if m < 4 ∧ tabGet (fun _ => none) s.ring.mgr.heardAt m ≠ some s.now then .next (nbrClear m s) else .next s

/-- ADMIT_REQ_RECEIVE: the manager takes an ADMIT_REQ (R528, R529). -/
def execAdmitReqReceive (m : Nat) (s : State) : Host.Outcome State Fault Refusal :=
  if m ≥ 4 then .next s
  else
    match ringTake (isMgt 2) m s with
    | (none, s) => .next s
    | (some f, s) => .next (admitRequest (mgtDuid f) (mgtHalf4 f % 4096) (mgtHalf6 f % 4096) (fieldLE f.payload 16 2 % 4096) f.src s)

/-- ASSIGN_RECEIVE: an ASSIGN is taken (R530–R532). -/
def execAssignReceive (m : Nat) (s : State) : Host.Outcome State Fault Refusal :=
  if m ≥ 4 then .next s
  else
    match ringTake (isMgt 3) m s with
    | (none, s) => .next s
    | (some f, s) => .next (assignApply (mgtByte1 f) (mgtHalf4 f % 4096) (mgtDuid f) s)

/-! ### ADM_CMD (R550) -/

/-- The DUID of ADM_DUID. -/
def admDuid (s : State) : DWord := dword (getReg s (aRing 0x43C)) (getReg s (aRing 0x438))

/-- Whether a GO is refused (R550). -/
def admRefused (s : State) (act id : Nat) : Bool :=
  let h := member s id
  !isMgr s || flag s (aRing 0x440) 31 || decide (id = 0) || decide (0xFFE < id) ||
  (decide (act = 0) && decide (h ≠ 0) && decide (h ≠ admDuid s)) || (decide (act = 2) && decide (h ≠ admDuid s))

/-- A write of RING.ADM_CMD (R550): the ASSIGN of an accepted GO is queued on its links, and GO reads 1 until its last copy has left the
queues; a refused GO sends nothing, and the fields written stand (log entry 28). The reserved ACTION refuses the write (R36). -/
def admCmdWrite (v : Word) (s : State) : State :=
  let act := bits v 29 28
  let id := bits v 11 0
  let keep := setReg s (aRing 0x440) ((v &&& 0x30000FFF) ||| (getReg s (aRing 0x440) &&& 0xC0000000))
  if act = 3 then ringCfgErr s
  else if !bit v 31 then keep
  else if admRefused s act id then setBit keep (aRing 0x440) 30
  else
    let d := admDuid s
    let s := noteDecided d (clrBit keep (aRing 0x440) 30)
    let s := if act = 0 then assignGranted true id d s else if act = 1 then assign true 2 id d s else assign true 4 id d s
    if (List.range 4).any (fun m => (txQ s m).any (·.adm)) then setBit s (aRing 0x440) 31 else s

/-- A write of ADM_CMD by the host. -/
def admWrite (v : Nat) (s : State) : State := if awake s then admCmdWrite (wd v) s else s

/-- ADM_GRANTED: GO with ACTION GRANTED for an ID (R550). -/
def execAdmGranted (id : BitVec 12) (s : State) : Host.Outcome State Fault Refusal := .next (admWrite (0x80000000 + id.toNat) s)

/-- ADM_REFUSED: GO with ACTION REFUSED (R550). -/
def execAdmRefused (id : BitVec 12) (s : State) : Host.Outcome State Fault Refusal := .next (admWrite (0x90000000 + id.toNat) s)

/-- ADM_EVICTED: GO with ACTION EVICTED (R550). -/
def execAdmEvicted (id : BitVec 12) (s : State) : Host.Outcome State Fault Refusal := .next (admWrite (0xA0000000 + id.toNat) s)

/-! ### The election (R533–R536) -/

/-- The key of this node (R533). -/
def ownKey (s : State) : Nat := (if fld s (aRing 0x400) 1 0 = 2 then 0 else 2 ^ 64) + s.duid.toNat

/-- A candidate: capable or forced, with READY = 1 (R533). -/
def candidate (s : State) : Bool := decide (fld s (aRing 0x400) 1 0 ≠ 0) && flag s (aRing 0x418) 31

/-- The key of a CLAIM or a SURVEY. -/
def mgtKey (f : Frame) : Nat := (if (mgtByte1 f).testBit 0 then 0 else 2 ^ 64) + (mgtDuid f).toNat

/-- Send a CLAIM with a key on link m (R522, R523). -/
def sendClaim (key m : Nat) (s : State) : State :=
  if linkUp s m && (decide (s.power.phase = .halter) || originates s) then
    originateLocal m { typ := 8, exp := true, dest := 0, src := s.nodeId,
                       payload := mgtPayload 1 (b2n (decide (key < 2 ^ 64))) 0 0 0 (BitVec.ofNat 64 key) [] } s
  else s

/-- Step 1 of R534. -/
def electionBegin (s : State) : State :=
  let s := setBit s (aRing 0x404) 1
  let cand := candidate s
  let s := setMgr s (fun g => { g with best := if cand then ownKey s else 2 ^ 65 - 1, bestAt := some s.now, quietOver := false })
  if cand then (List.range 4).foldl (fun s m => sendClaim (ownKey s) m s) s else s

/-- Step 2 of R534: a CLAIM that lowers BEST is sent on. -/
def claimTake (m key : Nat) (s : State) : State :=
  if s.ring.mgr.best ≤ key then s
  else
    let s := setMgr s (fun g => { g with best := key, bestAt := some s.now, quietOver := false })
    let links := if flag s (aRing 0x424) 0 then (List.range 4).filter (fun i => decide (i ≠ m)) else [partner m]
    links.foldl (fun s i => sendClaim key i s) s

/-- A SURVEY has been taken within the last 3 × SURVEY_MS (R534). -/
def surveyFresh (s : State) : Bool :=
  match s.ring.mgr.survAt with
  | some t => decide (s.now - t < 3 * s.ring.mgr.survMs * msClocks)
  | none => false

/-- A SURVEY has been taken in this clock (R535). -/
def surveyNow (s : State) : Bool := decide (s.ring.mgr.survAt = some s.now)

/-- The node takes part in elections: not while it boots, sleeps or is off (R523, R770). -/
def electsNow (s : State) : Bool := decide (s.power.phase = .halter) || originates s

/-- CLAIM_RECEIVE (R534). -/
def execClaimReceive (m : Nat) (s : State) : Host.Outcome State Fault Refusal :=
  if m ≥ 4 then .next s
  else
    match ringTake (isMgt 1) m s with
    | (none, s) => .next s
    | (some f, s) =>
      if !electsNow s then .next s
      else if electing s then .next (claimTake m (mgtKey f) s)
      else if surveyFresh s then .next s
      else .next (claimTake m (mgtKey f) (electionBegin s))

/-- Set MGR_ID and MGR_DUID; a change of MGR_ID sets MGR_CHG (R536). -/
def followMgr (id : Nat) (d : DWord) (s : State) : State :=
  let old := getReg s (aRing 0x408)
  let s := setReg (setReg (setReg s (aRing 0x408) (wd id)) (aRing 0x410) (lo32 d)) (aRing 0x414) (hi32 d)
  if old = wd id then s else mgrSet 11 s

/-- Send a SURVEY (R522, R537), which only a node in RUNNING or FAULT does (R523): members not seen in three consecutive surveys are
removed first. -/
def surveySend (s : State) : State :=
  if !originates s then s else
  let gone := s.ring.mgr.missed.filter (fun e => decide (3 ≤ e.2) && decide (e.1 ≠ s.nodeId) && decide (member s e.1 ≠ 0))
  let s := gone.foldl (fun s e => assign false 3 e.1 (member s e.1) s) s
  let ids := ((s.regs.filter (fun e => decide (aRing 0x8000 ≤ e.1) && decide (e.1 < aRing 0x10000))).map
    (fun e => (e.1 - aRing 0x8000) / 8)).eraseDups
  let n := (s.ring.mgr.survNo + 1) % 65536
  let s := setMgr s (fun g => { g with survNo := n, missed := ids.foldl (fun t i => tabSet (fun _ => 0) t i (tabGet (fun _ => 0) g.missed i + 1)) [] })
  sendMgt 0xFFF (mgtPayload 4 (b2n (decide (fld s (aRing 0x400) 1 0 = 2))) (fld s (aRing 0x400) 27 16) n 0 s.duid []) s

/-- The node becomes manager (R534): its own admission in HALTER, then a SURVEY at once. -/
def becomeMgr (s : State) : State :=
  let s := if isMgr s then s else mgrSet 11 (setBit s (aRing 0x404) 0)
  let s := setMgr (clrBit s (aRing 0x404) 1) (fun g => { g with follow := [], missed := [], quietOver := false })
  let s := if s.power.phase = .halter then
      decideAdmit s.duid (fld s (aRing 0x418) 11 0) (fld s (aRing 0x41C) 11 0) (fld s (aRing 0x41C) 27 16) s.nodeId s
    else s
  surveySend (followMgr s.nodeId s.duid s)

/-- ELECT_QUIET_EXPIRY: BEST has not changed for ELECT_QUIET (R534). A node whose BEST is not its own key runs no election while it waits
for a SURVEY (log entry 30). A CLAIM that changed BEST in the clock of expiry was handled first (R32). -/
def execElectQuietExpiry (s : State) : Host.Outcome State Fault Refusal :=
  if !(electing s && electsNow s) || s.ring.mgr.quietOver || decide (s.ring.mgr.bestAt = some s.now) then .next s
  else if candidate s && decide (s.ring.mgr.best = ownKey s) then .next (becomeMgr s)
  else .next (setMgr (clrBit s (aRing 0x404) 1) (fun g => { g with quietOver := true }))

/-- Start an election (R534, R535): counted. -/
def electionStart (s : State) : State := electionBegin (trafInc s (aRing 0x464))

/-- ELECTION_START: no SURVEY for 3 × SURVEY_MS in HALTER, a manager evicted to it included, or at a candidate in RUNNING or FAULT that is
not the manager; a SURVEY taken in the clock of expiry prevents it (R535, R32), and none starts before 60 ms after the end of a reset
(R668). -/
def execElectionStart (s : State) : Host.Outcome State Fault Refusal :=
  if !electing s && !s.ring.mgr.quietOver && !s.ring.mgr.readyHold && !surveyNow s && (decide (s.power.phase = .halter) || (!isMgr s && originates s && candidate s)) then
    .next (electionStart s)
  else .next s

/-- ELECTION_RESTART: no SURVEY within 3 × SURVEY_MS of the end of the quiet period (R534), nor before 60 ms after the end of a reset
(R668). -/
def execElectionRestart (s : State) : Host.Outcome State Fault Refusal :=
  if !electing s && s.ring.mgr.quietOver && !s.ring.mgr.readyHold && !surveyNow s &&
     (decide (s.power.phase = .halter) || (!isMgr s && originates s)) then .next (electionStart s)
  else .next s

/-! ### Surveys (R536, R537) -/

/-- SURVEY_SEND: every SURVEY_MS the manager sends a SURVEY (R537). -/
def execSurveySend (s : State) : Host.Outcome State Fault Refusal := .next (if isMgr s then surveySend s else s)

/-- The SURVEY with the lowest key of some (R536). -/
def surveyLowest : List (Nat × Nat × DWord × Nat) → Option (Nat × Nat × DWord × Nat)
  | [] => none
  | x :: r =>
    match surveyLowest r with
    | some y => if x.1 ≤ y.1 then some x else some y
    | none => some x

/-- Follow the SURVEY with the lowest key taken within the last 3 × SURVEY_MS (R536). When none is that young, MGR_ID stays (log entry
76). -/
def followLowest (s : State) : State :=
  let young := s.ring.mgr.follow.filter (fun e => decide (s.now - e.2.2.2 < 3 * s.ring.mgr.survMs * msClocks))
  let s := setMgr s (fun g => { g with follow := young })
  match surveyLowest young with
  | some (_, src, d, _) => followMgr src d s
  | none => s

/-- A SURVEY of key `key` from node `src` is taken (R536): a manager with a higher key gives up its role, and a node that is not the manager
follows the lowest key. -/
def surveyFollow (key src : Nat) (d : DWord) (s : State) : State :=
  let s := if isMgr s ∧ key < ownKey s then mgrSet 11 (clrBit s (aRing 0x404) 0) else s
  if isMgr s then s
  else followLowest (setMgr s (fun g => { g with follow := (key, src, d, s.now) :: g.follow.filter (fun e => decide (e.2.2.1 ≠ d)) }))

/-- As time passes, a SURVEY that was followed grows too old and the next lowest is followed (R536). -/
def followAge (s : State) : State :=
  if s.ring.mgr.follow.length ≤ 1 ∨ isMgr s then s else followLowest s

/-- SURVEY_RECEIVE (R535–R537): the SURVEY with the lowest key is followed, an election ends, and the node answers with a REPORT. -/
def execSurveyReceive (m : Nat) (s : State) : Host.Outcome State Fault Refusal :=
  if m ≥ 4 then .next s
  else
    match ringTake (isMgt 4) m s with
    | (none, s) => .next s
    | (some f, s) =>
      let s := setMgr (clrBit s (aRing 0x404) 1) (fun g => { g with survAt := some s.now, survMs := mgtHalf2 f, quietOver := false })
      let s := surveyFollow (mgtKey f) f.src (mgtDuid f) s
      let rep : Frame := { typ := 8, exp := true, dest := f.src, src := s.nodeId,
                           payload := mgtPayload 5 0 0 (mgtHalf4 f) 0 s.duid [] }
      .next (if originates s || (decide (s.power.phase = .stabled) && flag s (aNode 0x10) 31) then originate rep s else s)

/-- REPORT_RECEIVE (R537): the manager marks the sender seen, or grants or evicts its ID. -/
def execReportReceive (m : Nat) (s : State) : Host.Outcome State Fault Refusal :=
  if m ≥ 4 then .next s
  else
    match ringTake (isMgt 5) m s with
    | (none, s) => .next s
    | (some f, s) =>
      let d := mgtDuid f
      if !isMgr s then .next s
      else if member s f.src = d then .next (setMgr s (fun g => { g with missed := tabSet (fun _ => 0) g.missed f.src 0 }))
      else if member s f.src = 0 ∧ memberId s d = none then .next (assign false 0 f.src d s)
      else .next (assign false 4 f.src d s)

/-- HELLO_READY_HOLD_END: 60 ms after the end of a reset, HELLOs show ADM_CTL.READY (R526, R524). -/
def execHelloReadyHoldEnd (s : State) : Host.Outcome State Fault Refusal :=
  if s.power.phase = .off ∨ ¬ s.ring.mgr.readyHold then .next s
  else
    let s := setMgr s (fun g => { g with readyHold := false })
    .next (if flag s (aRing 0x418) 31 then helloAll s else s)

/-- A write of RING.ADM_CTL (R526, R547). -/
def admCtlWrite (v : Word) (s : State) : State :=
  if bits v 11 0 = 0xFFF then ringCfgErr s
  else
    let old := readyShown s
    let s := setReg s (aRing 0x418) (v &&& 0x80000FFF)
    if old = readyShown s then s else helloAll s

/-- Writes of the ring unit's registers whose values have ranges (R516, R545, R547, R549): whether a write of v at offset o is
refused. -/
def ringRefused (s : State) (o : Nat) (v : Word) : Bool :=
  let range := fun (w : Word) => decide (bits w 11 0 = 0) || decide (bits w 27 16 = 0xFFF) || decide (bits w 27 16 < bits w 11 0)
  if o = 0x08 then decide (bits v 7 0 = 0)
  else if 0x100 ≤ o ∧ o < 0x200 ∧ o % 0x40 = 0x08 then decide (bits v 15 0 = 0) || decide (bits v 23 16 = 0)
  else if o = 0x400 then decide (bits v 1 0 = 3) || decide (bits v 15 8 = 0) || decide (bits v 27 16 = 0)
  else if o = 0x41C ∨ o = 0x428 then range v
  else if o = 0x420 then decide (bits v 7 0 = 0)
  else if o = 0x424 then bit v 0 && decide (getReg s (aRing 0x428) = 0)
  else if o = 0x434 then decide (admqFill s < (bits v 4 0 + 32 - fld s (aRing 0x434) 4 0) % 32)
  else if o = 0x448 then
    decide ((fld s (aRing 0x444) 5 0 + 64 - fld s (aRing 0x448) 5 0) % 64 < (bits v 5 0 + 64 - fld s (aRing 0x448) 5 0) % 64)
  else false

/-! ### Events (R543, R646, R653) -/

/-- EVT_FRAME_RECEIVE: a RUNNING node takes an admitted EVT frame (R543). -/
def execEvtFrameReceive (m : Nat) (s : State) : Host.Outcome State Fault Refusal :=
  if m ≥ 4 then .next s
  else
    match ringTake (fun f => decide (f.typ = 9)) m s with
    | (none, s) => .next s
    | (some f, s) =>
      if s.power.phase = .running then
        let (s, new) := revtWrite f.src (fieldLE f.payload 0 1) (BitVec.ofNat 64 (fieldLE f.payload 8 8)) s
        .next (if new then raise 52 s else s)
      else .next s

/-- EVENT_SETTING: a pulse that waits in gate 128 + n reaches the event unit (R645, R646, R652, R653). `acked` says that its acknowledge
has reached the source as well; a gate that only waits for the acknowledge receives it (R139, log entry 74). -/
def execEventSetting (n : Nat) (s : State) (acked : Bool := false) : Host.Outcome State Fault Refusal :=
  if !awake s || decide (128 ≤ n) then .next s
  else
    match pulseSt s n with
    | .idle => .next s
    | .request => .next (evtSetting 3 n (pulseTaken n acked s))
    | .ack => .next (setPulse n .idle s)

/-- EVT_HOLDOFF_END: the holdoff of event n ends (R653); after a frame a new one begins unless HOLD is 0. In Stabled, and while a reset is
in force, the event unit stands still (R648). -/
def execEvtHoldoffEnd (n : Nat) (s : State) : Host.Outcome State Fault Refusal :=
  if !awake s then .next s else
  match tabGet (fun _ => none) s.evtHold n with
  | none => .next s
  | some h =>
    let put := fun (v : Option Holdoff) (s : State) => { s with evtHold := tabSet (fun _ => none) s.evtHold n v }
    if h.merged && decide (fld s (aEvtRoute n) 27 16 ≠ 0) then
      .next (put (if fld s (aNode 0x1060) 7 0 = 0 then none else some {}) (evtSend (evtSetting 3 100) n h.first s))
    else .next (put none s)

/-- A write of EVT.SWE_SET (R655). -/
def sweSetWrite (v : Word) (s : State) : State :=
  (List.range 16).foldl (fun s b => if bit v b then raise (112 + b) s else s) s

/-- SWE_SET: a write of EVT.SWE_SET (R655). `joined` names the bits whose event a `swe` of the same clock, whose command came just before,
has set: with it the write gives one setting (R656). -/
def execSweSet (v : Word) (s : State) (joined : Word := 0) : Host.Outcome State Fault Refusal :=
  .next (if awake s then sweSetWrite (v &&& ~~~(joined &&& getReg s (aEvtStat 112) >>> 16)) s else s)

end Sys2Proof.Machine
end

