-- ==== Sys2Proof/Machine/Avail.lean ====
section
/-!
DEFINITION. The availability unit (21_service.md): scrubbing, the route-table shadow, slice tests and retirement, remount rotation,
temperature and supplies, and the service log.
-/
namespace Sys2Proof.Machine

/-- A refused write of the availability unit (R36, R740). -/
def avCfgErr (s : State) : State := setBit s (aAv 0x00) 9

/-- Change the availability unit's own state. -/
def setAv (s : State) (f : AvSt → AvSt) : State := { s with av := f s.av }

/-- An open value of `n` bytes. -/
def freeBytes (n : Nat) (s : State) : List Byte × State :=
  let (f, s) := takeFree s
  (bytesLE n f, s)

/-! ### The service log (R736–R738) -/

/-- The bytes of a record (R736). -/
def logBytes (seq typ inst : Nat) (ft : DWord) (data : List Byte) : List Byte :=
  let b := bytesLE 4 seq ++ bytesLE 1 typ ++ bytesLE 1 0 ++ bytesLE 2 inst ++ bytesLE 8 ft.toNat ++ data.take 12
  b ++ wordBytes (crc32c b)

/-- Erase flash from `a` on: every byte reads FFh. -/
def flashErase (a n : Nat) (s : State) : State := { s with mem := s.mem.filter (fun e => decide (e.1 < a) || decide (a + n ≤ e.1)) }

/-- The SEQ after the previous record of a zone; a zone's first record has an open SEQ (log entry 25). -/
def nextSeq (prev : Option Nat) (s : State) : Nat × State :=
  match prev with
  | some n => ((n + 1) % 2 ^ 32, s)
  | none =>
    let (f, s) := takeFree s
    (f % 2 ^ 32, s)

/-- Write a record into the event zone (R736): a sector is erased before its first record is written. -/
def logWrite (r : LogRec) (s : State) : State :=
  let h := s.av.logHead
  let (seq, s) := nextSeq s.av.logSeq s
  let a := 0x03910000 + h
  let s := if h % 4096 = 0 then flashErase a 4096 s else s
  setAv (memWrite s a (logBytes seq r.typ r.inst r.ft r.data)) (fun v => { v with logSeq := some seq, logHead := (h + 32) % 0xF0000 })

/-- The queued records are written. -/
def logFlush (s : State) : State := s.av.logq.foldl (fun s r => logWrite r s) (setAv s (fun v => { v with logq := [] }))

/-- LOG_RECORD_WRITE: the record at the head of the queue is written (R737). -/
def execLogRecordWrite (s : State) : Host.Outcome State Fault Refusal :=
  if ¬ awake s then .next s else
  match s.av.logq with
  | [] => .next s
  | r :: q => .next (logWrite r (setAv s (fun v => { v with logq := q })))

/-- The slots of the retirement zone that hold something: an erased slot lists no byte (R736). -/
def retSlots (s : State) : List Nat :=
  ((s.mem.filter (fun e => decide (0x03900000 ≤ e.1) && decide (e.1 < 0x03910000))).map (fun e => (e.1 - 0x03900000) / 32)).eraseDups

/-- The SEQ, type, instance and FTIME of the retirement record in slot i; a record whose CRC fails is skipped (R737). -/
def retRecord (s : State) (i : Nat) : Option (Nat × Nat × Nat × Nat) :=
  let b := memBytes s (0x03900000 + 32 * i) 32
  if fieldLE b 0x1C 4 = (crc32c (b.take 0x1C)).toNat ∧ (fieldLE b 4 1 = 1 ∨ fieldLE b 4 1 = 2) then
    some (fieldLE b 0 4, fieldLE b 4 1, fieldLE b 6 2, fieldLE b 8 8)
  else none

/-- A valid retirement record marks its slice or engine retired (R72, R737). -/
def retRestore (i : Nat) (s : State) : State :=
  let s := setAv s (fun v => { v with retCount := i + 1 })
  match retRecord s i with
  | none => s
  | some (seq, typ, inst, ft) =>
    let s := setAv s (fun v => { v with retSeq := some seq, lastRetire := BitVec.ofNat 64 ft })
    if typ = 1 then (if inst < 280 then setSliceMap s inst 0x81FF else s)
    else setAv s (fun v => { v with engRetired := v.engRetired ++ [inst] })

/-- Step 4 of R668: the retirements are read from the service log (R72, R74, R76, R737, R768). -/
def restoreRetired (s : State) : State :=
  (retSlots s).foldl (fun s i => retRestore i s)
    (setAv s (fun v => { v with engRetired := [], retCount := 0, retSeq := none, lastRetire := 0 }))

/-- Write a retirement record at once (R725, R730, R737). -/
def retireRecord (typ inst : Nat) (s : State) : State :=
  if 2048 ≤ s.av.retCount then s
  else
    let (seq, s) := nextSeq s.av.retSeq s
    let a := 0x03900000 + 32 * s.av.retCount
    setAv (memWrite s a (logBytes seq typ inst s.time.ft (bytesLE 12 0)))
      (fun v => { v with retSeq := some seq, retCount := v.retCount + 1 })

/-- A write of AV.LOG_CMD (R738): GO queues a SOFTWARE record at once. -/
def logCmdWrite (v : Word) (s : State) : State :=
  if bit v 31 then
    logPut 9 0 (wordBytes (getReg s (aAv 0xC8)) ++ wordBytes (getReg s (aAv 0xCC)) ++ wordBytes (getReg s (aAv 0xD0))) s
  else s

/-- LOG_CMD (R738). -/
def execLogCmd (v : Word) (s : State) : Host.Outcome State Fault Refusal := .next (if awake s then logCmdWrite v s else s)

/-! ### Scrubbing (R717–R720) -/

/-- A word that the scrubber visits (R717), by its node-local offset divided by 8: the sentence store and the memories of the 16 logical
engines; the 69,632 words of the duplicate window and the 32,768 of the two spare engines stand under numbers of their own (log entry 21).
-/
def scrubbed (w : Nat) : Bool :=
  let a := 8 * w
  (decide (0x01000000 ≤ a) && decide (a < 0x01400000)) || (decide (0x00400000 ≤ a) && decide (a < 0x00600000)) ||
  (decide (eccOther ≤ w) && decide (w < eccOther + 69632 + 32768))

/-- The oldest entry of a FIFO of CAN controller k is discarded whole (R715): 0 of its sentence sender, 1 of its staging buffer, 2 of its
receive FIFO. -/
def canEntryDiscard (k which : Nat) (s : State) : State :=
  let v := canSt s k
  if which = 1 then setCan s k { v with stage := v.stage.drop 1 }
  else
    match if which = 0 then v.sq else v.rxq with
    | [] => s
    | c :: r => releaseRef c (setCan s k (if which = 0 then { v with sq := r } else { v with rxq := r, rxPos := 0 }))

/-- An uncorrectable gate or queue entry is discarded whole (R715); the model takes every entry as read at once. k names the oldest
character item of port k, the oldest taken frame of gate 38 + m (300 + m), CAN frame of gate 92 (310), record of gate 93 (311), the
oldest unstarted sentence of the queue of port n (400 + n), of class k of the input queue of logical engine L (700 + 2L + k), and the oldest
entries of CAN controller k (740 + k, 742 + k, 744 + k: canEntryDiscard) (log entry 21). -/
def entryDiscard (k : Nat) (s : State) : State :=
  if k < 272 then setSlice s k { slice s k with rxq := (slice s k).rxq.eraseP (fun i => !i.marker && i.mode.isNone) }
  else if 300 ≤ k ∧ k < 304 then
    { s with ring := { s.ring with inq := tabSet (fun _ => []) s.ring.inq (k - 300) ((tabGet (fun _ => []) s.ring.inq (k - 300)).drop 1) } }
  else if k = 310 then { s with canGate := s.canGate.drop 1 }
  else if k = 311 then { s with recGate := s.recGate.drop 1 }
  else if 400 ≤ k ∧ k < 672 then
    match (queue s (k - 400)).items with
    | [] => s
    | it :: r => releaseRef it.cell (setQueue s (k - 400) { queue s (k - 400) with items := r })
  else if 700 ≤ k ∧ k < 732 then
    match iq s ((k - 700) / 2) ((k - 700) % 2) with
    | [] => s
    | c :: _ => releaseRef c (iqPop ((k - 700) / 2) ((k - 700) % 2) s)
  else if 740 ≤ k ∧ k < 746 then canEntryDiscard ((k - 740) % 2) ((k - 740) / 2) s
  else s

/-- Whether gate or queue k has an entry. -/
def entryHeld (s : State) (k : Nat) : Bool :=
  if k < 272 then (slice s k).rxq.any (fun i => !i.marker && i.mode.isNone)
  else if 300 ≤ k ∧ k < 304 then !(tabGet (fun _ => []) s.ring.inq (k - 300)).isEmpty
  else if k = 310 then !s.canGate.isEmpty
  else if k = 311 then !s.recGate.isEmpty
  else if 400 ≤ k ∧ k < 672 then !(queue s (k - 400)).items.isEmpty
  else if 700 ≤ k ∧ k < 732 then !(iq s ((k - 700) / 2) ((k - 700) % 2)).isEmpty
  else if k = 740 ∨ k = 741 then !(canSt s (k - 740)).sq.isEmpty
  else if k = 742 ∨ k = 743 then !(canSt s (k - 742)).stage.isEmpty
  else if k = 744 ∨ k = 745 then !(canSt s (k - 744)).rxq.isEmpty
  else false

/-- A word of SRAM that keeps an error until it is read (R714): one that the scrubber visits, of the decimation states (R721), or of a cell
window. -/
def eccKept (w : Nat) : Bool := scrubbed w || isRtd (8 * w) || (decide (aCtxWin 0 0 ≤ 8 * w) && decide (8 * w < aCtxWin 16 0))

/-- One more bit in a word already in error makes it uncorrectable. -/
def errMark (t : Tab Nat) (w e : Nat) : Tab Nat := tabSet (fun _ => 0) t w (if tabGet (fun _ => 0) t w = 0 then e else 73)

/-- Upsets strike words (log entry 21). A gate or queue entry stands under 2 × eccOther and its number: it is corrected or discarded at
once. A word of a mailbox or message FIFO stands under eccFifo. -/
def upset (u : Nat × Nat) (s : State) : State :=
  let f := (u.1 - eccFifo 0 0) / 512
  let i := (u.1 - eccFifo 0 0) % 512
  if u.2 = 0 then s
  else if eccKept u.1 then { s with ecc := errMark s.ecc u.1 u.2 }
  else if eccFifo 0 0 ≤ u.1 ∧ i < (fifo s f).words.length then setFifo s f { fifo s f with errs := errMark (fifo s f).errs i u.2 }
  else if 2 * eccOther ≤ u.1 ∧ entryHeld s (u.1 - 2 * eccOther) then
    (if u.2 ≤ 72 then eccFix u.1 s else eccBad u.1 (entryDiscard (u.1 - 2 * eccOther) s))
  else s

/-- SCRUB_PASS_START: a pass starts (R717); `ups` are the upsets met by it, as word number and error. -/
def execScrubPassStart (ups : List (Nat × Nat)) (s : State) : Host.Outcome State Fault Refusal :=
  if ¬ awake s ∨ s.av.scrubbing then .next s
  else .next (setAv (ups.foldl (fun s u => upset u s) s) (fun v => { v with scrubbing := true }))

/-- The cell of a word of the sentence store is FREE and in the pool (R718). -/
def wordFree (s : State) (w : Nat) : Bool :=
  let a := 8 * w
  decide (0x01000000 ≤ a) && decide (a < 0x01400000) && decide (cellSt s ((a - 0x01000000) / 128) = .free) &&
  decide (poolRsv s ≤ (a - 0x01000000) / 128)

/-- The scrubber reads one word in error (R714, R715, R718, R719). -/
def scrubWord (u : Nat × Nat) (s : State) : State :=
  if u.2 ≤ 72 then
    let s := eccFix u.1 s
    if s.av.scrubbed.contains u then
      let (d, s) := freeBytes 4 s
      let (o, s) := eccOffset u.1 s
      logPut 4 0 (bytesLE 8 o ++ d) (setBit (errInc s (aAv 0x14)) (aAv 0x00) 2)
    else s
  else if wordFree s u.1 then memWrite s (8 * u.1) (bytesLE 8 0)
  else eccBad u.1 s

/-- SCRUB_PASS_END: every word has been read (R717–R720); `ms` is the length of the pass. -/
def execScrubPassEnd (ms : Nat) (s : State) : Host.Outcome State Fault Refusal :=
  if ¬ awake s ∨ ¬ s.av.scrubbing then .next s
  else
    let errs := s.ecc.filter (fun e => scrubbed e.1)
    let s := errs.foldl (fun s u => scrubWord u s) s
    let s := setAv s (fun v => { v with scrubbing := false, scrubbed := errs.filter (fun u => decide (u.2 ≤ 72)) })
    let s := trafInc (setReg s (aAv 0x18) (wd (ms % 65536))) (aAv 0x1C)
    .next (if errs.isEmpty then s else raise 90 s)

/-! ### The route-table shadow (R721–R723) -/

/-- A word of a table in error, as the walker's pass meets it: bank, table, offset, and 1 primary parity, 2 shadow parity, 3 both, 4
copies that differ. -/
def parMark (k e : Nat) (s : State) : State :=
  { s with tables := { s.tables with par := tabSet (fun _ => 0) s.tables.par k e } }

/-- The walker finds two copies that differ with good parity (R723). -/
def rtMismatch (k : Nat) (s : State) : State :=
  let tbl := k / 2 ^ 18 % 3
  let s := stickyRaise (aAv 0x00) 3 89 (errInc (parMark k 0 s) (aAv 0x24))
  let s := setReg s (aAv 0x28) (wd (tbl * 65536 + k % 2 ^ 18 / tblEntry tbl))
  if flag s (aAv 0x04) 9 then faultEnter 10 s else s

/-- RT_WALK_PASS: the walker compares every word with its shadow (R723); `errs` are the errors that have struck the words since its
last pass, by key and kind (log entry 21). -/
def execRtWalkPass (errs : List (Nat × Nat)) (s : State) : Host.Outcome State Fault Refusal :=
  if ¬ awake s then .next s
  else
    let s := errs.foldl (fun s e => if e.1 < 6 * 2 ^ 18 ∧ e.2 ≤ 4 then parMark e.1 e.2 s else s) s
    .next ((s.tables.par.filter (fun e => decide (e.2 = 4))).foldl (fun s e => rtMismatch e.1 s) s)

/-! ### Slice tests and retirement (R724–R726) -/

/-- Retire a slice (R725). -/
def sliceRetire (x : Nat) (s : State) : State :=
  let s := retireRecord 1 x s
  csChange (setSliceMap (setAv s (fun v => { v with lastRetire := s.time.ft })) x 0x81FF)

/-- A write of AV.SLICE_CMD (R724, R740). A RETIRE acts at once. -/
def sliceCmdWrite (v : Word) (s : State) : State :=
  let op := bits v 25 24
  let x := bits v 8 0
  let go := flag s (aAv 0x60) 31
  if (bit v 31 && go) || decide (op = 3) || decide (280 ≤ x) then avCfgErr s
  else
    let s := setReg s (aAv 0x60) ((v &&& 0x030001FF) ||| (getReg s (aAv 0x60) &&& 0xF0000000))
    if !bit v 31 then s
    else
      let err := decide (sliceMap s x / 0x4000 ≠ 0)
      let s := setAv (setBit s (aAv 0x60) 31) (fun a => { a with sliceCmd := some { op := op, slice := x, err := err } })
      if op = 1 ∧ ¬ err then sliceRetire x s else s

/-- SLICE_TEST: a write of AV.SLICE_CMD with GO and OP TEST (R724). -/
def execSliceTest (x : BitVec 9) (s : State) : Host.Outcome State Fault Refusal :=
  .next (if awake s then sliceCmdWrite (wd (0x80000000 + x.toNat)) s else s)

/-- SLICE_RETIRE: GO with OP RETIRE (R724, R725). -/
def execSliceRetire (x : BitVec 9) (s : State) : Host.Outcome State Fault Refusal :=
  .next (if awake s then sliceCmdWrite (wd (0x81000000 + x.toNat)) s else s)

/-- SLICE_TEST_RETIRE: GO with OP TEST_RETIRE (R724). -/
def execSliceTestRetire (x : BitVec 9) (s : State) : Host.Outcome State Fault Refusal :=
  .next (if awake s then sliceCmdWrite (wd (0x82000000 + x.toNat)) s else s)

/-- SLICE_CMD_END: the slice command ends (R724); `pass` is the outcome of its test. -/
def execSliceCmdEnd (pass : Bool) (s : State) : Host.Outcome State Fault Refusal :=
  if ¬ awake s then .next s else
  match s.av.sliceCmd with
  | none => .next s
  | some c =>
    let s := setAv (clrBit s (aAv 0x60) 31) (fun a => { a with sliceCmd := none })
    let s := putBit s (aAv 0x60) 30 c.err
    let s := if !c.err && decide (c.op = 2) && !pass then sliceRetire c.slice s else s
    let res : Nat := if c.err then 0 else if c.op = 1 then 3 else if pass then 1 else if c.op = 2 then 3 else 2
    .next (raise 93 (setFld s (aAv 0x60) 29 28 res))

/-! ### Remount rotation (R727–R733) -/

/-- The logical engine that physical engine e carries. -/
def carriedBy (s : State) (e : Nat) : Option Nat := (List.range 16).find? (fun l => decide (engPhys s l = e))

/-- The engine map (R73): STATE in bits 15:14, LOGICAL in bits 3:0. -/
def engMap (s : State) (e : Nat) : Nat :=
  if s.av.engRetired.contains e then 0xC000
  else if s.av.testing.contains e then 0x8000
  else match carriedBy s e with
    | some l => 0x4000 + l
    | none => 0

/-- Physical engine e is a spare. -/
def isSpare (s : State) (e : Nat) : Bool := decide (e < 18) && decide (engMap s e = 0)

/-- The target of R727: a spare not tested since reset, lowest first, then the one whose last test is oldest. -/
def chooseSpare (s : State) : Option Nat :=
  match (List.range 18).find? (fun e => isSpare s e && !(s.av.tested.map (·.1)).contains e) with
  | some e => some e
  | none => (s.av.tested.map (·.1)).find? (isSpare s)

/-- The logical engine due to move (R727). -/
def chooseMover (s : State) : Option Nat :=
  ((List.range 16).map (fun i => (s.av.lastMoved + 1 + i) % 16)).find? (fun l =>
    !flag s (aEng l 0x00) 2 && decide (engPhys s l ≠ 31) && !(match s.upd.live with
      | some v => v.engines.contains l
      | none => false))

/-- A move starts (R728). An engine counts as moved (R727) when its move completes (log entry 38). -/
def moveStart (l dst : Nat) (s : State) : State :=
  setAv (setBit s (aAv 0x00) 17) (fun v => { v with move := some { l := l, dst := dst } })

/-- A move ends, with the command that ordered it. -/
def moveEnd (s : State) : State := clrBit (clrBit (setAv s (fun v => { v with move := none })) (aAv 0x00) 17) (aAv 0x44) 31

/-- The node may start a move (R727, R731). -/
def mayMove (s : State) : Bool := decide (s.power.phase = .halter) || decide (s.power.phase = .running)

/-- ROTATION_DUE: PERIOD minutes have passed (R727). -/
def execRotationDue (s : State) : Host.Outcome State Fault Refusal :=
  if !(flag s (aAv 0x40) 15 && mayMove s && s.av.move.isNone) then .next s
  else
    match chooseMover s, chooseSpare s with
    | some l, some e => .next (moveStart l e (clrBit s (aAv 0x00) 16))
    | _, _ => .next (setBit s (aAv 0x00) 16)

/-- Retire a spare physical engine (R730, R732): its record is written first. -/
def engRetire (e : Nat) (s : State) : State :=
  let s := retireRecord 2 e s
  raise 92 (csChange (setAv s (fun v => { v with engRetired := v.engRetired ++ [e], lastRetire := s.time.ft })))

/-- A write of AV.ROT_CMD (R732, R740). DESIGN CHOICE: a MOVE that R731 does not let start in FAULT ends with ERR (log entry 38). -/
def rotCmdWrite (v : Word) (s : State) : State :=
  let op := bits v 29 28
  let tgt := bits v 12 8
  let l := bits v 3 0
  if (bit v 31 && flag s (aAv 0x44) 31) || decide (1 < op) then avCfgErr s
  else
    let s := setReg s (aAv 0x44) ((v &&& 0x30001F0F) ||| (getReg s (aAv 0x44) &&& 0xC0000000))
    if !bit v 31 then s
    else
      let pick := if op = 0 ∧ tgt = 31 then chooseSpare s else if isSpare s tgt then some tgt else none
      match pick with
      | none => setBit s (aAv 0x44) 30
      | some e =>
        if s.av.move.isSome ∨ engPhys s l = 31 ∨ (op = 0 ∧ ¬ mayMove s) then setBit s (aAv 0x44) 30
        else if op = 0 then moveStart l e (setBit (clrBit s (aAv 0x44) 30) (aAv 0x44) 31)
        else engRetire e (clrBit s (aAv 0x44) 30)

/-- ROT_MOVE: GO with OP MOVE (R732). -/
def execRotMove (l : BitVec 4) (target : BitVec 5) (s : State) : Host.Outcome State Fault Refusal :=
  .next (if awake s then rotCmdWrite (wd (0x80000000 + target.toNat * 256 + l.toNat)) s else s)

/-- ROT_RETIRE: GO with OP RETIRE (R732). -/
def execRotRetire (l : BitVec 4) (target : BitVec 5) (s : State) : Host.Outcome State Fault Refusal :=
  .next (if awake s then rotCmdWrite (wd (0x90000000 + target.toNat * 256 + l.toNat)) s else s)

/-- MOVE_COPY_ROUND: a background copy round ends with `dirty` lines still dirty (R728, R729, R420). -/
def execMoveCopyRound (dirty : Nat) (s : State) : Host.Outcome State Fault Refusal :=
  if ¬ awake s then .next s else
  match s.av.move with
  | none => .next s
  | some v =>
    if v.stalled then .next s
    else if dirty < 1024 then
      .next (setEng (setAv s (fun a => { a with move := some { v with stalled := true } })) v.l { eng s v.l with moving := true })
    else if 8 ≤ v.round + 1 then .next (errInc (moveEnd s) (aAv 0x4C))
    else .next (setAv s (fun a => { a with move := some { v with round := v.round + 1 } }))

/-- MOVE_COMPLETE: the stall ends (R421, R422, R75); the engine left behind goes into self-test (R728). -/
def execMoveComplete (s : State) : Host.Outcome State Fault Refusal :=
  if ¬ awake s then .next s else
  match s.av.move with
  | none => .next s
  | some v =>
    if !v.stalled then .next s
    else
      let from_ := engPhys s v.l
      let s := moveEnd (setEng s v.l { eng s v.l with moving := false })
      let s := setAv (setFld s (aEng v.l 0x04) 28 24 v.dst) (fun a =>
        { a with lastMoved := v.l, testing := a.testing ++ [from_] })
      .next (stallEnd v.l (raise 91 (engFlag v.l 15 (trafInc (csChange (setBit s (aAv 0x00) 18)) (aEng v.l 0x2C)))))

/-- SELF_TEST_END: the self-test of physical engine e ends (R730): `res` is 1 pass, 2 memory failure, 3 logic failure, `word` the first
failing word of the memory test. A pass records the FTIME as the engine's last test. -/
def execSelfTestEnd (e res word : Nat) (s : State) : Host.Outcome State Fault Refusal :=
  if ¬ awake s ∨ !s.av.testing.contains e ∨ res = 0 ∨ 3 < res then .next s
  else
    let s := setAv s (fun v => { v with testing := v.testing.filter (fun x => decide (x ≠ e)) })
    let s := if s.av.testing.isEmpty then clrBit s (aAv 0x00) 18 else s
    let s := setReg s (aAv 0x48) (wd (e * 2 ^ 24 + res * 2 ^ 22 + (if res = 2 then word % 2 ^ 17 else 0)))
    if res = 1 then .next (csChange (setAv s (fun v => { v with tested := v.tested.filter (fun x => decide (x.1 ≠ e)) ++ [(e, s.time.ft)] })))
    else .next (engRetire e (setBit (errInc s (aAv 0x50)) (aAv 0x00) 7))

/-! ### Temperature and supplies (R734, R735) -/

/-- AV.TEMP[i] in quarter degrees. -/
def tempOf (s : State) (i : Nat) : Int := sgnN 16 (fld s (aAv (0x80 + 4 * i)) 15 0)

/-- Some sensor is at or above a threshold in °C. -/
def anyTemp (s : State) (deg : Nat) : Bool := (List.range 4).any (fun i => decide (4 * (deg : Int) ≤ tempOf s i))

/-- Every sensor has fallen 5 °C below a threshold. -/
def allCool (s : State) (deg : Nat) : Bool := (List.range 4).all (fun i => decide (tempOf s i ≤ 4 * ((deg : Int) - 5)))

/-- TEMP_SAMPLE: the sensors update (R734). -/
def execTempSample (t0 t1 t2 t3 : BitVec 16) (s : State) : Host.Outcome State Fault Refusal :=
  if ¬ awake s then .next s else
  let put := fun (i : Nat) (t : BitVec 16) (s : State) => setReg s (aAv (0x80 + 4 * i)) (t.setWidth 32)
  let s := put 3 t3 (put 2 t2 (put 1 t1 (put 0 t0 s)))
  let warn := fld s (aAv 0x90) 7 0
  let crit := fld s (aAv 0x90) 15 8
  let s := putBit s (aAv 0x00) 19 (anyTemp s warn)
  let s := if allCool s warn then setAv s (fun v => { v with warnArmed := true }) else s
  let s := if allCool s crit then setAv s (fun v => { v with critArmed := true }) else s
  let isWarn := s.av.warnArmed && anyTemp s warn
  let isCrit := s.av.critArmed && anyTemp s crit
  let fresh := (isWarn && !flag s (aAv 0x00) 4) || (isCrit && !flag s (aAv 0x00) 5)
  let s := if isWarn then setBit (setAv s (fun v => { v with warnArmed := false })) (aAv 0x00) 4 else s
  let s := if isCrit then setBit (setAv s (fun v => { v with critArmed := false })) (aAv 0x00) 5 else s
  let s := if fresh then raise 94 s else s
  if isCrit then
    if flag s (aAv 0x90) 16 then
      let i := ((List.range 4).find? (fun i => decide (4 * (crit : Int) ≤ tempOf s i))).getD 0
      .next (faultEnter 10 (logPut 7 i (bytesLE 2 (fld s (aAv (0x80 + 4 * i)) 15 0) ++ bytesLE 10 0) s))
    else .next s
  else .next s

/-- The band of rail r in mV (R735). -/
def railBand (r : Nat) : Nat × Nat :=
  if r = 0 then (776, 824) else if r = 1 then (873, 927) else if r = 2 then (1710, 1890) else if r = 3 then (3135, 3465)
  else (4750, 5250)

/-- Rail r is present (R735): VLT and VCAN may have failed, and VLT is not connected in a BX2560-M0 (R2, R6). -/
def railPresent (s : State) (r : Nat) : Bool := if r = 4 then s.m4 && s.power.vltOk else if r = 5 then s.power.vcanOk else true

/-- VMON_WARN: the reading `mv` of rail r has stayed outside its band for 1 ms (R735); a rail that is not present gives no warning. -/
def execVmonWarn (r mv : Nat) (s : State) : Host.Outcome State Fault Refusal :=
  if 6 ≤ r ∨ ¬ awake s then .next s
  else
    let s := setReg s (aAv (0xA0 + 4 * r)) (wd (mv % 65536))
    if railPresent s r ∧ (mv < (railBand r).1 ∨ (railBand r).2 < mv) then .next (stickyRaise (aAv 0x00) 6 95 s) else .next s

/-- Writes of the availability unit's registers whose values have ranges (R740). -/
def avRefused (o : Nat) (v : Word) : Bool :=
  if o = 0x04 then decide (bits v 7 0 = 0)
  else if o = 0x40 then decide (bits v 10 0 = 0) || decide (1440 < bits v 10 0)
  else if o = 0x90 then decide (bits v 15 8 ≤ bits v 7 0) || decide (125 < bits v 15 8)
  else false

end Sys2Proof.Machine
end

