-- ==== Sys2Proof/Machine/Sign.lean ====
section
/-!
DEFINITION. The image signature (R694): SHA-256 and ECDSA over the curve P-256, as FIPS 180-4 and FIPS 186-4 define them. The specification
names the standards; their arithmetic is PRESUMED from them (log entry 5).
-/
namespace Sys2Proof.Machine

/-! ### SHA-256 -/

/-- The round constants. -/
def shaK : List Word :=
  [0x428A2F98, 0x71374491, 0xB5C0FBCF, 0xE9B5DBA5, 0x3956C25B, 0x59F111F1, 0x923F82A4, 0xAB1C5ED5] ++
  [0xD807AA98, 0x12835B01, 0x243185BE, 0x550C7DC3, 0x72BE5D74, 0x80DEB1FE, 0x9BDC06A7, 0xC19BF174] ++
  [0xE49B69C1, 0xEFBE4786, 0x0FC19DC6, 0x240CA1CC, 0x2DE92C6F, 0x4A7484AA, 0x5CB0A9DC, 0x76F988DA] ++
  [0x983E5152, 0xA831C66D, 0xB00327C8, 0xBF597FC7, 0xC6E00BF3, 0xD5A79147, 0x06CA6351, 0x14292967] ++
  [0x27B70A85, 0x2E1B2138, 0x4D2C6DFC, 0x53380D13, 0x650A7354, 0x766A0ABB, 0x81C2C92E, 0x92722C85] ++
  [0xA2BFE8A1, 0xA81A664B, 0xC24B8B70, 0xC76C51A3, 0xD192E819, 0xD6990624, 0xF40E3585, 0x106AA070] ++
  [0x19A4C116, 0x1E376C08, 0x2748774C, 0x34B0BCB5, 0x391C0CB3, 0x4ED8AA4A, 0x5B9CCA4F, 0x682E6FF3] ++
  [0x748F82EE, 0x78A5636F, 0x84C87814, 0x8CC70208, 0x90BEFFFA, 0xA4506CEB, 0xBEF9A3F7, 0xC67178F2]

/-- The eight working variables, and their first values. -/
structure Sha where
  a : Word := 0x6A09E667
  b : Word := 0xBB67AE85
  c : Word := 0x3C6EF372
  d : Word := 0xA54FF53A
  e : Word := 0x510E527F
  f : Word := 0x9B05688C
  g : Word := 0x1F83D9AB
  h : Word := 0x5BE0CD19
  deriving DecidableEq, Repr

/-- A value of bytes, most significant first. -/
def ofBytesBE (bs : List Byte) : Nat := bs.foldl (fun n b => n * 256 + b.toNat) 0

/-- The message schedule, newest word first, from the sixteen words of a block. -/
def shaSchedule : Nat → List Word → List Word
  | 0, w => w
  | n + 1, w =>
    let x := w.getD 14 0
    let y := w.getD 1 0
    let s0 := x.rotateRight 7 ^^^ x.rotateRight 18 ^^^ (x >>> (3 : Nat))
    let s1 := y.rotateRight 17 ^^^ y.rotateRight 19 ^^^ (y >>> (10 : Nat))
    shaSchedule n ((w.getD 15 0 + s0 + w.getD 6 0 + s1) :: w)

/-- One round. -/
def shaRound (v : Sha) (kw : Word × Word) : Sha :=
  let s1 := v.e.rotateRight 6 ^^^ v.e.rotateRight 11 ^^^ v.e.rotateRight 25
  let t1 := v.h + s1 + ((v.e &&& v.f) ^^^ (~~~ v.e &&& v.g)) + kw.1 + kw.2
  let s0 := v.a.rotateRight 2 ^^^ v.a.rotateRight 13 ^^^ v.a.rotateRight 22
  let t2 := s0 + ((v.a &&& v.b) ^^^ (v.a &&& v.c) ^^^ (v.b &&& v.c))
  { a := t1 + t2, b := v.a, c := v.b, d := v.c, e := v.d + t1, f := v.e, g := v.f, h := v.g }

/-- The working variables after the rounds added to the hash before them. -/
def shaSum (v r : Sha) : Sha :=
  { a := v.a + r.a, b := v.b + r.b, c := v.c + r.c, d := v.d + r.d, e := v.e + r.e, f := v.f + r.f, g := v.g + r.g, h := v.h + r.h }

/-- The sixteen words of a block, newest first. -/
def shaWords (b : List Byte) : List Word := ((List.range 16).map (fun i => wd (ofBytesBE ((b.drop (4 * i)).take 4)))).reverse

/-- The hash of one 64-byte block onto the hash so far. -/
def shaBlock (v : Sha) (b : List Byte) : Sha := shaSum v ((shaK.zip (shaSchedule 48 (shaWords b)).reverse).foldl shaRound v)

/-- The padded message: a bit 1, zeros, and the length in bits as 64 bits. -/
def shaPad (m : List Byte) : List Byte :=
  m ++ [0x80] ++ List.replicate ((119 - m.length % 64) % 64) 0 ++ (bytesLE 8 (8 * m.length)).reverse

/-- The hash of the blocks of a message with these numbers. -/
def shaBlocks (m : List Byte) (is : List Nat) (v : Sha) : Sha := is.foldl (fun v i => shaBlock v ((m.drop (64 * i)).take 64)) v

/-- SHA-256 as a number, most significant byte first. -/
def sha256 (m : List Byte) : Nat :=
  let p := shaPad m
  let v := shaBlocks p (List.range (p.length / 64)) {}
  [v.a, v.b, v.c, v.d, v.e, v.f, v.g, v.h].foldl (fun n w => n * 2 ^ 32 + w.toNat) 0

/-! ### ECDSA over P-256 -/

/-- The prime of the field, the coefficient b of the curve y² = x³ − 3x + b, the order of its base point, and the base point. -/
def p256P : Nat := 2 ^ 256 - 2 ^ 224 + 2 ^ 192 + 2 ^ 96 - 1
def p256B : Nat := 0x5AC635D8AA3A93E7B3EBBD55769886BC651D06B0CC53B0F63BCE3C3E27D2604B
def p256N : Nat := 0xFFFFFFFF00000000FFFFFFFFFFFFFFFFBCE6FAADA7179E84F3B9CAC2FC632551
def p256G : Nat × Nat :=
  (0x6B17D1F2E12C4247F8BCE6E563A440F277037D812DEB33A0F4A13945D898C296,
   0x4FE342E2FE1A7F9B8EE7EB4A7C0F9E162BCE33576B315ECECBB6406837BF51F5)

/-- The inverse modulo a prime m, as the power m − 2. -/
def invMod (m a : Nat) : Nat :=
  ((List.range 256).foldl (fun (r : Nat × Nat) i => (if (m - 2).testBit i then r.1 * r.2 % m else r.1, r.2 * r.2 % m)) (1, a % m)).1

/-- A point of the curve; none is the point at infinity. -/
abbrev CurvePoint := Option (Nat × Nat)

/-- The third point of a line with slope l through (x1, y1) and a point with abscissa x2, mirrored. -/
def chord (l x1 y1 x2 : Nat) : Nat × Nat :=
  let x := (l * l + 2 * p256P - x1 - x2) % p256P
  (x, (l * (x1 + p256P - x) + p256P - y1) % p256P)

/-- The sum of two points. -/
def ptAdd : CurvePoint → CurvePoint → CurvePoint
  | none, q => q
  | some a, none => some a
  | some (x1, y1), some (x2, y2) =>
    if x1 = x2 then
      (if (y1 + y2) % p256P = 0 then none
       else some (chord ((3 * x1 * x1 + p256P - 3) * invMod p256P (2 * y1) % p256P) x1 y1 x2))
    else some (chord ((y2 + p256P - y1) * invMod p256P (x2 + p256P - x1) % p256P) x1 y1 x2)

/-- The multiple of a point. -/
def ptMul (k : Nat) (q : CurvePoint) : CurvePoint :=
  ((List.range 256).foldl (fun (r : CurvePoint × CurvePoint) i => (if k.testBit i then ptAdd r.1 r.2 else r.1, ptAdd r.2 r.2)) (none, q)).1

/-- A point lies on the curve. -/
def onCurve (x y : Nat) : Bool :=
  decide (x < p256P) && decide (y < p256P) && decide ((y * y) % p256P = (x * x * x + 3 * (p256P - x) + p256B) % p256P)

/-- ECDSA: (r, s) is a signature on the hash `e` under the public key (x, y). -/
def ecdsaOk (x y e r s : Nat) : Bool :=
  onCurve x y && decide (0 < r) && decide (r < p256N) && decide (0 < s) && decide (s < p256N) &&
  (let w := invMod p256N s
   match ptAdd (ptMul (e * w % p256N) (some p256G)) (ptMul (r * w % p256N) (some (x, y))) with
   | some (v, _) => decide (v % p256N = r)
   | none => false)

/-- Check of a signature (R690, R692, R694): the 64 bytes of a key, the signed bytes, and SIG_R and SIG_S, integers little-endian. -/
def signatureOk (key msg sig : List Byte) : Bool :=
  ecdsaOk (ofBytesLE (key.take 32)) (ofBytesLE (key.drop 32)) (sha256 msg) (ofBytesLE (sig.take 32)) (ofBytesLE ((sig.drop 32).take 32))

end Sys2Proof.Machine
end

