-- ==== Sys2Proof/Machine/Flash.lean ====
section
/-!
DEFINITION. The flash: images, the activation journal and the choice of the slot at boot (R688–R696, R700, R705).
-/
namespace Sys2Proof.Machine

/-! ### Images (R692–R694) -/

/-- The base of Slot A (0) or Slot B (1). -/
def slotBase (slot : Nat) : Nat := 0x02000000 + slot % 2 * 0xC00000

/-- The 512 header bytes of a slot. -/
def slotHdr (s : State) (slot : Nat) : List Byte := memBytes s (slotBase slot) 512

/-- Fields of a header (R692). -/
def hNblk (h : List Byte) : Nat := fieldLE h 0x14 2
def hVersion (h : List Byte) : Nat := fieldLE h 0x0C 4
def hSetmin (h : List Byte) : Nat := fieldLE h 0x10 4
def hLive (h : List Byte) : Bool := (h.getD 8 0).getLsbD 0
def hKeyId (h : List Byte) : Nat := fieldLE h 0x16 1 % 4
def hRevoke (h : List Byte) : BitVec 4 := (h.getD 0x17 0).truncate 4
def hHcrc (h : List Byte) : Nat := fieldLE h 0x1BC 4
def hEntry (h : List Byte) : Nat := fieldLE h 0x1C 2

/-- A section descriptor (R693). -/
structure Sect where
  kind : Nat
  engine : Nat
  lentry : Nat
  dest : Nat
  src : Nat
  len : Nat
  deriving DecidableEq, Repr

/-- Section i of a header. -/
def hSect (h : List Byte) (i : Nat) : Sect :=
  let o := 0x40 + 16 * i
  { kind := fieldLE h o 1, engine := fieldLE h (o + 1) 1, lentry := fieldLE h (o + 2) 2, dest := fieldLE h (o + 4) 4,
    src := fieldLE h (o + 8) 4, len := fieldLE h (o + 12) 4 }

/-- The sections in use. -/
def hSects (h : List Byte) : List Sect := ((List.range 23).map (hSect h)).filter (fun x => decide (x.kind ≠ 0))

/-- A run of header bytes is zero. -/
def hZero (h : List Byte) (o n : Nat) : Bool := ((h.drop o).take n).all (fun b => decide (b = 0))

/-- The reserved bits of the header and of its descriptors are zero (R692, R693). -/
def hReservedOk (h : List Byte) : Bool :=
  decide (fieldLE h 0x08 4 < 2) && decide (fieldLE h 0x16 1 < 4) && decide (fieldLE h 0x17 1 < 16) && decide (fieldLE h 0x18 1 < 4) &&
  hZero h 0x19 1 && decide (hEntry h % 4 = 0) && hZero h 0x1E 0x22 && hZero h 0x1B0 12 &&
  (List.range 23).all (fun i =>
    let x := hSect h i
    if x.kind = 0 then hZero h (0x40 + 16 * i) 16
    else if x.kind = 1 then decide (x.engine < 16) && decide (x.lentry % 4 = 0)
    else true)

/-- Check 1 of R700. -/
def check1 (h : List Byte) : Bool :=
  decide (fieldLE h 0 4 = 0x4D495842) && decide (fieldLE h 5 1 = 1) && decide (fieldLE h 6 2 = 0x200) &&
  decide (hHcrc h = (crc32c (h.take 0x1BC)).toNat) && decide (1 ≤ hNblk h) && decide (hNblk h ≤ 3071) &&
  decide (hSetmin h ≤ hVersion h) && hReservedOk h

/-- Check 2 of R700. -/
def check2 (s : State) (h : List Byte) : Bool :=
  (h.getD 0x18 0).getLsbD (b2n s.m4) && decide (fieldLE h 0x1A 2 ≤ s.srev.toNat)

/-- The address of block k of a slot. -/
def blockAddr (slot k : Nat) : Nat := slotBase slot + 0x1000 + 0x1000 * k

/-- The CRC-32C of a block is right. -/
def blockOk (s : State) (a : Nat) : Bool := decide (memNat s (a + 4092) 4 = (crc32c (memBytes s a 4092)).toNat)

/-- Byte p of the payload of a slot's image. -/
def payloadByte (s : State) (slot p : Nat) : Byte := memByte s (blockAddr slot (p / 4092) + p % 4092)

/-- The size of the region that a section is written into (R693). -/
def sectRegion (kind : Nat) : Nat := if kind = 1 ∨ kind = 2 then 0x20000 else if kind = 3 then 0x10000 else 0x8000

/-- A section's ranges (R700, check 3). -/
def sectFits (h : List Byte) (x : Sect) : Bool :=
  decide (x.kind ≤ 4) && decide (1 ≤ x.len) && decide (x.src + x.len ≤ hNblk h * 4092) && decide (x.dest + x.len ≤ sectRegion x.kind)

/-- The words of table entry i as a section writes them; bytes it does not write count as zero. -/
def sectImage (s : State) (slot : Nat) (x : Sect) (i : Nat) : List Word :=
  let n := tblEntry (x.kind - 2)
  (List.range (n / 4)).map (fun w => wd (ofBytesLE ((List.range 4).map (fun b =>
    let o := i * n + 4 * w + b
    if x.dest ≤ o ∧ o < x.dest + x.len then payloadByte s slot (x.src + (o - x.dest)) else 0))))

/-- A table section passes the field rules of its table. -/
def sectTableOk (s : State) (slot : Nat) (x : Sect) : Bool :=
  if x.kind = 1 then true
  else
    let n := tblEntry (x.kind - 2)
    let lo := x.dest / n
    (List.range ((x.dest + x.len - 1) / n + 1 - lo)).all (fun j => !imageRefused s (x.kind - 2) (lo + j) (sectImage s slot x (lo + j)))

/-- Check 3 of R700. -/
def check3 (s : State) (slot : Nat) (h : List Byte) : Bool := (hSects h).all (fun x => sectFits h x && sectTableOk s slot x)

/-- Check 4 of R700. -/
def check4 (s : State) (slot : Nat) (h : List Byte) : Bool := (List.range (hNblk h)).all (fun k => blockOk s (blockAddr slot k))

/-- The 64 bytes of key k (R690). -/
def keyAddr (k : Nat) : Nat := 0x03802000 + 0x80 * k
def keyBytes (s : State) (k : Nat) : List Byte := memBytes s (keyAddr k) 64

/-- Key k is programmed (R690). -/
def keyProgrammed (s : State) (k : Nat) : Bool := (keyBytes s k).any (fun b => decide (b ≠ 0xFF))

/-- Check 5 of R700. -/
def check5 (s : State) (h : List Byte) : Bool :=
  keyProgrammed s (hKeyId h) && !s.upd.revoked.getLsbD (hKeyId h) && !(hRevoke h).getLsbD (hKeyId h)

/-- Check 6 of R700 (R694). -/
def check6 (s : State) (slot : Nat) (h : List Byte) : Bool :=
  signatureOk (keyBytes s (hKeyId h))
    (h.take 0x1C0 ++ (List.range (hNblk h)).flatMap (fun k => memBytes s (blockAddr slot k) 4096)) ((h.drop 0x1C0).take 64)

/-- Check 7 of R700. -/
def check7 (s : State) (h : List Byte) : Bool := decide (s.upd.minver ≤ hVersion h)

/-- The CODE with which VERIFY ends for a slot (R697, R700). -/
def verifyCode (s : State) (slot : Nat) : Nat :=
  let h := slotHdr s slot
  if !check1 h then 3 else if !check2 s h then 6 else if !check3 s slot h then 7 else if !check4 s slot h then 8
  else if !check5 s h then 9 else if !check6 s slot h then 10 else if !check7 s h then 11 else 0

/-! ### Loading (R416, R693, R705) -/

/-- The payload bytes of a section. -/
def sectBytes (s : State) (slot : Nat) (x : Sect) : List Byte := (List.range x.len).map (fun i => payloadByte s slot (x.src + i))

/-- Write one byte of a table of a bank. -/
def tblPutByte (bank : Bool) (tbl o : Nat) (b : Byte) (s : State) : State :=
  let w := tblWord s bank tbl (o - o % 4)
  let v := setBits w (8 * (o % 4) + 7) (8 * (o % 4)) b.toNat
  tblPut s bank tbl (o - o % 4) (v &&& imageMask tbl (o % tblEntry tbl / 4))

/-- Write a table section into a bank. -/
def loadTable (slot : Nat) (bank : Bool) (x : Sect) (s : State) : State :=
  ((sectBytes s slot x).foldl (fun (st : Nat × State) b => (st.1 + 1, tblPutByte bank (x.kind - 2) st.1 b st.2)) (x.dest, s)).2

/-- Write every table section of an image into a bank. -/
def loadTables (slot : Nat) (bank : Bool) (s : State) : State :=
  let h := slotHdr s slot
  ((hSects h).filter (fun x => decide (x.kind ≠ 1) && sectFits h x)).foldl (fun s x => loadTable slot bank x s) s

/-- Write the engine sections of an image; the sections of unplaced engines are skipped (R733). -/
def loadEngines (slot : Nat) (s : State) : State :=
  let h := slotHdr s slot
  ((hSects h).filter (fun x => decide (x.kind = 1) && sectFits h x && decide (engPhys s x.engine ≠ 31))).foldl
    (fun s x => memWrite s (0x00400000 + x.engine % 16 * 0x20000 + x.dest) (sectBytes s slot x)) s

/-! ### The activation journal (R695, R696) -/

/-- A journal record beside its SEQ. -/
structure JRec where
  seq : Nat := 0
  print : Nat := 0
  state : Nat := 0
  tries : Nat := 0
  prev : Nat := 0
  proof : Nat := 0
  rflags : Nat := 0
  hcrc : Nat := 0
  deriving DecidableEq, Repr

/-- The address of a journal copy. -/
def jAddr (c : Nat) : Nat := 0x03800000 + 0x1000 * c

/-- The record of a copy, when it is valid. -/
def jRead (s : State) (c : Nat) : Option JRec :=
  let b := memBytes s (jAddr c) 64
  if fieldLE b 0 4 = 0x4C4E524A ∧ fieldLE b 0x3C 4 = (crc32c (b.take 0x3C)).toNat then
    some { seq := fieldLE b 4 4, print := fieldLE b 8 1, state := fieldLE b 9 1, tries := fieldLE b 10 1, prev := fieldLE b 11 1,
           proof := fieldLE b 12 1, rflags := fieldLE b 13 1, hcrc := fieldLE b 16 4 }
  else none

/-- The copy that holds the prevailing record. -/
def jCopy (s : State) : Option Nat :=
  match jRead s 0, jRead s 1 with
  | some a, some b => some (if a.seq < b.seq then 1 else 0)
  | some _, none => some 0
  | none, some _ => some 1
  | none, none => none

/-- The prevailing record; without one the node has Slot A STABLE and Slot B EMPTY (R695). -/
def jRec (s : State) : JRec :=
  match jCopy s with
  | some c => (jRead s c).getD {}
  | none => {}

/-- The slot that is not the print slot. -/
def proofSlot (s : State) : Nat := 1 - (jRec s).print % 2

/-- The 64 bytes of a record. -/
def jBytes (r : JRec) : List Byte :=
  let b := bytesLE 4 0x4C4E524A ++ bytesLE 4 r.seq ++ bytesLE 1 r.print ++ bytesLE 1 r.state ++ bytesLE 1 r.tries ++ bytesLE 1 r.prev ++
    bytesLE 1 r.proof ++ bytesLE 1 r.rflags ++ bytesLE 2 0 ++ bytesLE 4 r.hcrc ++ bytesLE 40 0
  b ++ wordBytes (crc32c b)

/-- Write a record into the copy that does not hold the prevailing one (R696). With no prevailing record its SEQ is open (log entry
25). -/
def jWrite (r : JRec) (s : State) : State :=
  let c := match jCopy s with
    | some c => 1 - c
    | none => 0
  let bitmap := memBytes s (jAddr (1 - c) + 0x200) 384
  let (seq, s) := match jCopy s with
    | some _ => (((jRec s).seq + 1) % 2 ^ 32, s)
    | none =>
      let (f, s) := takeFree s
      (f % 2 ^ 32, s)
  let s := memWrite (flashErase (jAddr c) 4096 s) (jAddr c) (jBytes { r with seq := seq })
  if r.proof = 1 then s else memWrite s (jAddr c + 0x200) bitmap

/-- The BITMAP bit of block k in the prevailing copy (R695). -/
def bitmapBit (s : State) (k : Nat) : Bool :=
  match jCopy s with
  | some c => (memByte s (jAddr c + 0x200 + k / 8)).getLsbD (k % 8)
  | none => true

/-- Clear the BITMAP bit of block k (R696). -/
def bitmapClear (k : Nat) (s : State) : State :=
  match jCopy s with
  | some c =>
    let a := jAddr c + 0x200 + k / 8
    memPut s a (memByte s a &&& ~~~ ((1 : Byte) <<< (k % 8)))
  | none => s

/-- UPD.RXCOUNT (R701). -/
def rxCount (s : State) : Nat := ((List.range 3072).filter (fun k => !bitmapBit s k)).length

/-- A record whose print slot becomes p: PROOF_HCRC is then the HCRC of the header in the slot that p is not (R695). -/
def jPrint (s : State) (p : Nat) (r : JRec) : JRec := { r with print := p, hcrc := hHcrc (slotHdr s (1 - p % 2)) }

/-- The record that a revert writes (R705, R709). -/
def jRevert (s : State) : State :=
  let r := jRec s
  jWrite (jPrint s r.prev { r with state := 0, proof := 2, rflags := 1 }) s

/-! ### Registers of the update unit read from the flash (R712, R713) -/

/-- Change the update unit's own state. -/
def setUpd (s : State) (f : UpdSt → UpdSt) : State := { s with upd := f s.upd }

/-- UPD.STAT (R713). -/
def updStatWord (s : State) : Word :=
  let r := jRec s
  getReg s (aUpd 0x08) ||| wd (r.print % 2 * 64 + r.state % 2 * 128 + r.tries % 4 * 256 + r.proof % 4 * 1024 + b2n s.upd.runTrial * 65536 +
    b2n (decide (r.rflags % 2 = 1)) * 2 ^ 17 + b2n s.upd.bootErr * 2 ^ 18)

/-- UPD.PROOF_VER; 0 when EMPTY (R712). -/
def proofVer (s : State) : Nat := if (jRec s).proof = 0 then 0 else hVersion (slotHdr s (proofSlot s))

/-- UPD.KEYSTAT (R712). -/
def keyStat (s : State) : Nat :=
  (List.range 4).foldl (fun a k => a + b2n (keyProgrammed s k) * 2 ^ k + b2n (s.upd.revoked.getLsbD k) * 2 ^ (4 + k)) 0

/-- An UPDATE record of the service log (R736, R737). -/
def logUpdate (s : State) : State :=
  logPut 8 0 (wordBytes (updStatWord s) ++ bytesLE 4 (hVersion (slotHdr s (jRec s).print)) ++ bytesLE 4 0) s

/-- The rule of R705 for MINVER and REVOKE on the print image. -/
def raiseMinver (s : State) : State :=
  let h := slotHdr s (jRec s).print
  if check1 h ∧ s.upd.minver < hSetmin h then
    setUpd s (fun u => { u with minver := hSetmin h, revoked := u.revoked ||| hRevoke h })
  else s

/-! ### The boot loader (R705) -/

/-- BOOT_SLOT_CHOICE with MODE1:0 = 00b: the slot is chosen and loaded. The flag says that a failed trial begins a core restart. -/
def bootTry (s : State) : Bool × State :=
  let r := jRec s
  let trial := decide (r.state = 1) && decide (r.tries ≠ 0)
  let s := if r.state ≠ 1 then s
           else if r.tries = 0 then setUpd (jRevert s) (fun u => { u with reverted := true })
           else jWrite { r with tries := r.tries - 1 } s
  let slot := (jRec s).print
  let h := slotHdr s slot
  let ok := check1 h && check4 s slot h
  let s := if check1 h then loadTables slot true (loadEngines slot s) else s
  if !ok && trial then (true, setUpd (jRevert s) (fun u => { u with reverted := true }))
  else
    let s := if ok then s else setReg (setUpd s (fun u => { u with bootErr := true })) (aRing 0x418) 0x80000000
    let s := setUpd s (fun u => { u with trialBoot := trial })
    (false, if trial then s else raiseMinver s)

end Sys2Proof.Machine
end

