-- ==== Sys2Proof/Machine/Power.lean ====
section
/-!
DEFINITION. Power, resets, boot, node states, watchdogs and sleep (19_power_reset_sleep.md).
-/
namespace Sys2Proof.Machine

/-- Change power's own state. -/
def setPower (s : State) (f : Power → Power) : State := { s with power := f s.power }

/-! ### What a node reset keeps (R15, R153, R416, R663, R676, R767) -/

/-- The ring unit after a reset other than a core restart: only the levels of its pins stay. -/
def ringCleared (r : RingSt) : RingSt :=
  { links := tabMap (fun _ => {}) (fun l => { absent := l.absent, los := l.los }) r.links }

/-- A copy that is being sent keeps its bytes when the sentence store's cells are initialised. -/
def txUncell : TxCopy → TxCopy
  | .own f bs => .own { f with cell := none } bs
  | c => c

/-- The ring unit through a core restart (R663, R665): gates 34–41 are reset on both sides, so that of the frames to transmit only crossed
ones that do not pass through gates 34–37 stay (R153); frames passed on stay, an election ends, and stripping of the former ID begins. -/
def ringRestarted (r : RingSt) : RingSt :=
  { r with txq := tabMap (fun _ => []) (fun q => q.filter (fun f => f.junc && (decide (f.typ = 7) || decide (f.typ = 8)))) r.txq,
           tx := tabMap (fun _ => {}) (fun t => { cur := t.cur.map txUncell, susp := t.susp.map txUncell }) r.tx,
           inq := [], stripOn := decide (r.lastId ≠ 0),
           mgr := { r.mgr with best := 2 ^ 65 - 1, quietOver := false, readyHold := true, reqAt := [], decided := [], missed := [] } }

/-- What the availability unit keeps of the service log's event zone in the flash. Retirements are read back at the boot (R668). -/
def avKept (a : AvSt) : AvSt := { logSeq := a.logSeq, logHead := a.logHead }

/-- What the update unit keeps: MINVER and the revocations in the flash; a revert that ends in a core restart is still to be
reported (R705, R709). -/
def updKept (core : Bool) (u : UpdSt) : UpdSt := { minver := u.minver, revoked := u.revoked, reverted := core && u.reverted }

/-- A byte of memory stays through a reset: not the engine memories, and after a power-on reset not the sentence store. -/
def memKept (por : Bool) (a : Nat) : Bool :=
  !(decide (0x00400000 ≤ a) && decide (a < 0x00600000)) && !(por && decide (0x01000000 ≤ a) && decide (a < 0x01400000))

/-- A register stays through a reset: RST_CAUSE (RWS) but for a power-on reset, and the ring unit's in a core restart. -/
def regKept (core por : Bool) (a : Nat) : Bool :=
  (!por && decide (a = aNode 0x04)) || (core && decide (0x00040000 ≤ a) && decide (a < 0x00050000))

/-- A node reset (R663). `core` marks a core restart, `por` a power-on reset. The levels at the balls of the discrete lines are no state of
the device and stay; gates 42–45 keep their epochs through a core restart (R153). DESIGN CHOICE: a tile leaves thermal shutdown with the
reset of its registers, a core restart included (R215; log entry 79). -/
def nodeReset (core por : Bool) (s : State) : State :=
  let n : State :=
    { m4 := s.m4, duid := s.duid, srev := s.srev, pending := s.pending, now := s.now, free := s.free,
      regs := s.regs.filter (fun e => regKept core por e.1),
      mem := s.mem.filter (fun e => memKept por e.1),
      ecc := s.ecc.filter (fun e => if eccOther ≤ e.1 then core && decide (e.1 < eccOther + 69632) else memKept por (8 * e.1) && !isRtd (8 * e.1)),
      power := { phase := if core then .booting else .off, bootMode := if core then s.power.bootMode else 0,
                 modeErr := core && s.power.modeErr, vio := s.power.vio, vhb := s.power.vhb, vcanOk := s.power.vcanOk,
                 vltOk := s.power.vltOk, refB := s.power.refB },
      ring := if core then ringRestarted s.ring else ringCleared s.ring,
      epochs := if core then s.epochs.filter (fun e => decide (84 ≤ e.1) && decide (e.1 < 92)) else [],
      dl := tabMap (fun _ => {}) (fun d => { ball := d.ball }) s.dl,
      av := avKept s.av, upd := updKept core s.upd }
  if s.power.vltOk || !s.m4 then n else (List.range 4).foldl (fun s k => setBit s (aTile k 0x04) 4) n

/-- A cause bit of RST_CAUSE (R666). -/
def resetCause (b : Nat) (s : State) : State := setBit s (aNode 0x04) b

/-! ### The boot (R667, R668, R72, R74, R705) -/

/-- The physical engines that are not retired. -/
def goodEngines (s : State) : List Nat := (List.range 18).filter (fun e => !s.av.engRetired.contains e)

/-- L0–L15 are placed in order on the engines that are not retired (R74, R733). -/
def placeEngines (s : State) : State :=
  (List.range 16).foldl (fun s l => setFld s (aEng l 0x04) 28 24 ((goodEngines s).getD l 31)) s

/-- A port whose own slice is retired is served by the lowest spare (R726). -/
def placeSlice (s : State) (n : Nat) : State :=
  if sliceMap s n / 0x4000 ≠ 2 then s
  else
    match (List.range 8).find? (fun i => decide (sliceMap s (272 + i) / 0x4000 = 0)) with
    | some i => setFld (setSliceMap s (272 + i) (0x4000 + n)) (aPort n 0x20) 8 0 (272 + i)
    | none => setFld s (aPort n 0x20) 8 0 0x1FF

/-- The slices that the service log retires (R72). -/
def retiredSlices (s : State) : List Nat := (s.sliceMap.filter (fun e => decide (e.2 / 0x4000 = 2))).map (·.1)

/-- The debounced level of every discrete line starts from its ball (log entry 20). -/
def dlStart (s : State) : State := { s with dl := tabMap (fun _ => {}) (fun d => { d with deb := d.ball, run := none }) s.dl }

/-- Retirements are restored from the service log, and ports and engines are placed around them (R668, step 4; R72, R74, R726). -/
def place (s : State) : State :=
  let s := dlStart (restoreRetired s)
  ((retiredSlices s).filter (fun x => decide (x < portCount s))).foldl placeSlice (placeEngines s)

/-- The PLLs return to REFA at a node reset whose end finds it good (R751). The end of a core restart is its start (R668), and whether REFA
is good then is an open value. -/
def refaAgain (s : State) : State :=
  if s.power.refB then
    let (f, s) := takeFree s
    setPower s (fun p => { p with refB := decide (f % 2 = 0) })
  else s

/-- The start of a core restart (R663): a manager gives up its role, and the ASSIGN of a pending ADM_CMD is gone with its frames. -/
def coreBegin (cause : Nat) (s : State) : State :=
  let was := isMgr s
  let s := resetCause cause (refaAgain (nodeReset true false s))
  let s := clrBit (setReg s (aRing 0x404) (getReg s (aRing 0x404) &&& 0xFFFFFFFC)) (aRing 0x440) 31
  if was then setBit s (aRing 0x404) 11 else s

/-- The boot loader (R668, R705): a trial that fails reverts and restarts once. -/
def boot (s : State) : State :=
  let s := place s
  let s := if s.power.bootMode = 0 then
      let (again, s) := bootTry s
      if again then (bootTry (place (coreBegin 6 s))).2 else s
    else s
  setPower s (fun p => { p with loaded := true })

/-- CORE_RESTART (R663): `cause` is its bit of RST_CAUSE. -/
def coreRestart (cause : Nat) (s : State) : State := boot (coreBegin cause s)

/-- A store write in progress when a reset begins (R767): the word of the store, numbered from 0, that it leaves uncorrectable (`none`) or
with its new value. One that leaves the old value is none. -/
def tornWrite (torn : Option (Nat × Option Nat)) (s : State) : State :=
  match torn with
  | none => s
  | some (w, some v) => memPutNat s (0x01000000 + 8 * (w % 524288)) 8 v
  | some (w, none) => { s with ecc := tabSet (fun _ => 0) s.ecc (0x00200000 + w % 524288) 73 }

/-- POWER_ON_RESET (R661). -/
def execPowerOnReset (s : State) : Host.Outcome State Fault Refusal := .next (nodeReset false true s)

/-- PIN_RESET (R664). A store write may be in progress (tornWrite). -/
def execPinReset (s : State) (torn : Option (Nat × Option Nat) := none) : Host.Outcome State Fault Refusal :=
  .next (resetCause 1 (nodeReset false false (tornWrite torn s)))

/-- A write of NODE.RST_CMD (R663, R684). -/
def rstCmdWrite (v : Word) (s : State) : State :=
  if bits v 31 16 ≠ 0x5A5A then nodeCfgErr s
  else if bit v 0 then resetCause 2 (nodeReset false false s)
  else coreRestart 3 s

/-- RST_CMD_FULL_SOFT: a write of NODE.RST_CMD with KIND 1 (R663). A store write may be in progress (tornWrite). -/
def execRstCmdFullSoft (key : BitVec 16) (s : State) (torn : Option (Nat × Option Nat) := none) : Host.Outcome State Fault Refusal :=
  .next (if awake s then rstCmdWrite (wd (key.toNat * 65536 + 1)) (if key = 0x5A5A#16 then tornWrite torn s else s) else s)

/-- RST_CMD_CORE_RESTART: a write of NODE.RST_CMD with KIND 0 (R663). A store write may be in progress (tornWrite). -/
def execRstCmdCoreRestart (key : BitVec 16) (s : State) (torn : Option (Nat × Option Nat) := none) : Host.Outcome State Fault Refusal :=
  .next (if awake s then rstCmdWrite (wd (key.toNat * 65536)) (if key = 0x5A5A#16 then tornWrite torn s else s) else s)

/-- The links that run leave OFF when the reset ends: event 40 + m at each change of state (R486, R519, R770). -/
def linksLeaveOff (s : State) : State :=
  ((List.range 4).filter (fun m => decide (linkState s m ≠ 0))).foldl (fun s m => raise (40 + m) s) s

/-- RESET_END: the end of a reset other than a core restart samples MODE1:0 and TESTEN, the PLLs lock to REFA when it is good, and the
boot loader runs (R667, R668, R751, R526). -/
def execResetEnd (mode : BitVec 2) (testen refaGood : Bool) (s : State) : Host.Outcome State Fault Refusal :=
  if !(decide (s.power.phase = .off) || (decide (s.power.phase = .booting) && !s.power.loaded)) then .next s
  else
    let err := decide (mode = 3) && !testen
    let m : BitVec 2 := if err then 2 else mode
    let s := linksLeaveOff (setPower s (fun p => { p with phase := .booting, bootMode := m, modeErr := err, refB := !refaGood }))
    let s := if err then resetCause 7 s else s
    .next (boot (if m = 0 then s else setReg s (aRing 0x418) 0x80000000))

/-- SETUP_PROGRAM_START (R416): with MODE1:0 = 00b and a good print slot, L0 C0 starts at the image's entry address. -/
def setupStart (s : State) : State :=
  if s.power.bootMode ≠ 0 ∨ s.upd.bootErr ∨ engPhys s 0 = 31 then s
  else
    let entry := hEntry (slotHdr s (jRec s).print)
    let s := setCtx 0 0 { ctx s 0 0 with pc := BitVec.ofNat 16 (entry / 4 * 4) } s
    let s := ctxStart 0 0 (setBit s (aCtx 0 0 0x00) 0)
    clrBit s (aEng 0 0x00) 0

/-- HALTER_ENTRY: the boot completes (R668, R666, R669, R705, R707, R737). -/
def execHalterEntry (s : State) : Host.Outcome State Fault Refusal :=
  if !(decide (s.power.phase = .booting) && s.power.loaded) then .next s
  else
    let s := setPower s (fun p => { p with phase := .halter })
    let s := logPut 6 0 (wordBytes (getReg s (aNode 0x04)) ++ bytesLE 8 0) (raise 99 (raise 97 s))
    let s := setupStart s
    let s := if s.upd.trialBoot then
        raise 83 (setUpd s (fun u => { u with trialBoot := false, runTrial := true, winAt := s.now }))
      else s
    let s := if s.upd.reverted then raise 85 (logUpdate (setUpd s (fun u => { u with reverted := false }))) else s
    .next (helloAll s)

/-! ### Supplies and the reference (R18, R662, R751) -/

/-- Set the sensed code of a rail. -/
def railSet (r : Rail) (code : Nat) (s : State) : State :=
  match r with
  | .vio j => setPower s (fun p => { p with vio := tabSet (fun _ => 3) p.vio j code })
  | .vhb => setPower s (fun p => { p with vhb := code })
  | .vcan => setPower s (fun p => { p with vcanOk := decide (code ≠ 0) })

/-- The rail exists. -/
def railOk : Rail → Bool
  | .vio j => decide (j < 16)
  | _ => true

/-- A rail fails or returns: its level is sensed, and event 95 is set (R662). While a reset is in force there is no event; in Stabled the
event unit stands still (R648), and the event follows at the end of the wake (DESIGN CHOICE, log entry 77). -/
def railChange (r : Rail) (code : Nat) (s : State) : State :=
  let s := railSet r code s
  if awake s then raise 95 s
  else if s.power.phase = .stabled then setPower s (fun p => { p with supplyPend := true })
  else s

/-- A voltage code that the rail can have (R662, R687): a VIO bank 1 1.8 V, 2 2.5 V, 3 3.3 V; VHB 1 or 3. -/
def railCode (r : Rail) (code : BitVec 2) : Bool :=
  match r with
  | .vhb => decide (code = 1) || decide (code = 3)
  | _ => decide (code ≠ 0)

/-- IO_RAIL_FAIL (R662). -/
def execIoRailFail (r : Rail) (s : State) : Host.Outcome State Fault Refusal :=
  .next (if railOk r then railChange r 0 s else s)

/-- IO_RAIL_GOOD: the rail becomes good and its voltage is sensed (R662). -/
def execIoRailGood (r : Rail) (code : BitVec 2) (s : State) : Host.Outcome State Fault Refusal :=
  .next (if railOk r ∧ railCode r code then railChange r code.toNat s else s)

/-- REFA_FAIL: the PLLs continue from REFB (R18, R751). -/
def execRefaFail (s : State) : Host.Outcome State Fault Refusal := .next (setPower s (fun p => { p with refB := true }))

/-- NODE.SUPPLY (R687) and NODE.VIO_SENSE (R684), whose codes show from the end of the reset on; until then it reads its reset value. -/
def supplyWord (s : State) : Word := wd (b2n s.power.vltOk * 4 + b2n s.power.vcanOk * 8 + s.power.vhb % 4 * 16)
def vioSenseWord (s : State) : Word :=
  if s.power.loaded then wd ((List.range 16).foldl (fun a j => a + tabGet (fun _ => 3) s.power.vio j % 4 * 4 ^ j) 0) else 0

/-- NODE.STAT with its live fields (R685). -/
def nodeStatWord (s : State) : Word :=
  let w := setBits (getReg s (aNode 0x00)) 5 0
    (phaseCode s.power.phase + 8 * b2n s.power.entering + 16 * s.power.bootMode.toNat)
  w

/-! ### FAULT and the watchdogs (R670–R674) -/

/-- A write of NODE.FAULT_CMD (R670, R684). -/
def faultCmdWrite (v : Word) (s : State) : State := if bits v 31 16 = 0x5A5A then faultEnter 8 s else nodeCfgErr s

/-- FAULT_CMD (R670). -/
def execFaultCmd (key : BitVec 16) (s : State) : Host.Outcome State Fault Refusal :=
  .next (if awake s then faultCmdWrite (wd (key.toNat * 65536)) s else s)

/-- WDOG[i].CTL and WDOG[i].KICK. -/
def aWdog (i : Nat) : Nat := aNode (0x30 + 8 * i)

/-- The count of watchdog i restarts. -/
def wdogRestart (i : Nat) (s : State) : State := setPower s (fun p => { p with wdogAt := tabSet (fun _ => 0) p.wdogAt i s.now })

/-- A watchdog expires (R673). -/
def wdogExpire (i : Nat) (s : State) : State :=
  let s := raise 98 (setBit s (aWdog i) 28)
  let act := fld s (aWdog i) 30 29
  if act = 2 then coreRestart (4 + i) s
  else
    let s := wdogRestart i s
    if act = 1 then faultEnter 9 s else s

/-- A write of WDOG[i].KICK (R672). -/
def wdogKickWrite (i : Nat) (v : Word) (s : State) : State :=
  if !flag s (aWdog i) 31 then s else if v = 0x5A5A then wdogRestart i s else wdogExpire i s

/-- A write of WDOG[i].CTL (R674, R687). -/
def wdogCtlWrite (i : Nat) (v : Word) (s : State) : State :=
  let old := getReg s (aWdog i)
  let en := bit old 31
  if bits v 15 0 = 0 ∨ bits v 30 29 = 3 ∨ (en ∧ (bits v 15 0 ≠ bits old 15 0 ∨ bits v 30 29 ≠ bits old 30 29)) then nodeCfgErr s
  else
    let exp := bit old 28 && !bit v 28
    let s := putBit (setReg s (aWdog i) (v &&& 0xE000FFFF)) (aWdog i) 28 exp
    if en then setBit s (aWdog i) 31 else if bit v 31 then wdogRestart i s else s

/-- WDOG_KICK (R672). -/
def execWdogKick (i : Nat) (v : Word) (s : State) : Host.Outcome State Fault Refusal :=
  if i < 2 ∧ awake s then .next (wdogKickWrite i v s) else .next s

/-- WDOG_EXPIRY: TIMEOUT ms have passed without a service (R672, R673). With `served` a service reaches the always-on paddock in the clock
of expiry: it is taken, and the watchdog does not expire (R32, R672). A store write may be in progress at a core restart (tornWrite). -/
def execWdogExpiry (i : Nat) (s : State) (served : Bool := false) (torn : Option (Nat × Option Nat) := none) :
    Host.Outcome State Fault Refusal :=
  if i < 2 ∧ flag s (aWdog i) 31 ∧ awake s then
    .next (if served then wdogRestart i s else wdogExpire i (if fld s (aWdog i) 30 29 = 2 then tornWrite torn s else s))
  else .next s

/-- WDOG_CTL_WRITE (R674). -/
def execWdogCtlWrite (i : Nat) (v : Word) (s : State) : Host.Outcome State Fault Refusal :=
  if i < 2 ∧ awake s then .next (wdogCtlWrite i v s) else .next s

/-- The ms left of watchdog i (R684), by the nominal rate of its oscillator (log entry 26). -/
def wdogLeft (s : State) (i : Nat) : Nat :=
  if flag s (aWdog i) 31 then fld s (aWdog i) 15 0 - (s.now - tabGet (fun _ => 0) s.power.wdogAt i) / msClocks else 0

/-! ### Sleep (R675–R682) -/

/-- A write of NODE.SLEEP_CMD (R675, R684). -/
def sleepCmdWrite (v : Word) (s : State) : State :=
  if bits v 31 16 ≠ 0x5A5A then nodeCfgErr s
  else if !bit v 0 then s
  else if (s.power.phase = .halter ∨ s.power.phase = .running) ∧ ¬ s.power.entering then
    setPower s (fun p => { p with entering := true, drained := false })
  else nodeCfgErr s

/-- SLEEP_CMD (R675). -/
def execSleepCmd (v : Word) (s : State) : Host.Outcome State Fault Refusal :=
  .next (if awake s then sleepCmdWrite v s else s)

/-- The sentences that wait in the sender of CAN controller k are removed (R675). DESIGN CHOICE: they count in its own CNT_SQDROP, since the
CNT_TAILDROP of R675 is a counter of a port (log entry 81). -/
def canSendFlush (k : Nat) (s : State) : State :=
  let v := canSt s k
  v.sq.foldl (fun s c => canFlag k 11 (errInc (releaseRef c s) (aCan k 0x7C))) (setCan s k { v with sq := [] })

/-- SLEEP_DRAIN_END: the drain wait ends (R675, step 3). -/
def execSleepDrainEnd (s : State) : Host.Outcome State Fault Refusal :=
  if s.power.entering ∧ ¬ s.power.drained then
    let s := (List.range (portCount s)).foldl (fun s n =>
      let s := match (parser s n).cur with
        | some _ => rejectUnit n 7 false s
        | none => s
      flushUnstarted n s) s
    let s := (List.range 2).foldl (fun s k => canSendFlush k s) s
    .next (setPower s (fun p => { p with drained := true }))
  else .next s

/-- A link goes dark or comes back (R678). -/
def linkDark (dark : Bool) (m : Nat) (s : State) : State :=
  linkChange m (fun s => setLnk m { lnk s m with dark := dark, sync := (lnk s m).sync && !dark, peer := (lnk s m).peer && !dark } s) s

/-- Step 3 of R675 is over: every started sentence has been sent, on the CAN controllers too, every outstanding request of a context has
completed, and no move is in progress (R731). -/
def entryReady (s : State) : Bool :=
  s.power.entering && s.power.drained && s.av.move.isNone &&
  (List.range (portCount s)).all (fun n => (queue s n).started.isNone && (queue s n).ending.isNone) &&
  (List.range 2).all (fun k => (canSt s k).series.isNone) &&
  (List.range 16).all (fun l => !engBusy s l)

/-- STABLED_ENTRY: the paddock clocks stop (R675, R678, R731, R162, R200). Tiles that no port can wake are stopped, self-tests end, the
links go dark without RING_KEEP, and no refresh sent before can pair with a count latched after the wake. -/
def execStabledEntry (s : State) : Host.Outcome State Fault Refusal :=
  if !entryReady s then .next s
  else
    let s := if s.m4 then tilesSleep s else s
    let s := if s.av.testing.isEmpty then s else csChange (clrBit (setAv s (fun a => { a with testing := [] })) (aAv 0x00) 18)
    let s := if flag s (aNode 0x10) 31 then s else (List.range 4).foldl (fun s m => linkDark true m s) s
    let s := setTime s (fun t => { t with pairs := [], launches := [] })
    let s := trafInc s (aNode 0x2C)
    .next (nodeChanged (setPower s (fun p => { p with phase := .stabled, sleepFrom := p.phase, entering := false, drained := false,
                                                      waking := false, sleptAt := s.now })))

/-- A wake frame satisfies R618. -/
def wakeFrame (s : State) (k : Nat) (ide : Bool) (id dlc : Nat) (data : List Byte) : Bool :=
  let ctl := getReg s (aCan k 0x38)
  decide (bit ctl 5 = ide) && decide ((wd id ^^^ getReg s (aCan k 0x30)) &&& getReg s (aCan k 0x34) = 0) &&
  (!bit ctl 4 || decide (bits ctl 3 0 = dlc)) &&
  (List.range 8).all (fun i =>
    let sel := fun (o : Nat) => bits (getReg s (aCan k (o + 4 * (i / 4)))) (8 * (i % 4) + 7) (8 * (i % 4))
    decide (sel 0x48 = 0) || (decide (i < data.length) && decide (((data.getD i 0).toNat ^^^ sel 0x40) &&& sel 0x48 = 0)))

/-- The WAKE_EN bit of a source (R679). -/
def wakeBit : WakeSrc → Nat
  | .port _ _ => 0
  | .canPattern _ => 1
  | .canFrame _ _ _ _ _ => 1
  | .dl _ => 2
  | .pps b => if b then 4 else 3
  | .hwake => 5
  | .host => 6
  | .ring m => 8 + m

/-- The source's own condition of R679: R129, R617, R618, R639, R678. The detector of a single-wire port watches the transmit pin (R129). -/
def wakeSees (s : State) : WakeSrc → Bool
  | .port n tx => decide (n < portCount s) && flag s (aPort n 0x0C) 7 && decide (flag s (aPort n 0x0C) 6 = tx) && decide (fld s (aPort n 0x00) 1 0 ≠ 0) &&
      (if n < 256 then vioOk s n else flag s (aTile ((n - 256) / 4) 0x04) 0)
  | .canPattern k => decide (k < 2) && s.power.vcanOk && decide (fld s (aCan k 0x00) 9 8 = 1)
  | .canFrame k ide id dlc data => decide (k < 2) && s.power.vcanOk && decide (fld s (aCan k 0x00) 9 8 = 2) && wakeFrame s k ide id dlc data
  | .dl k => decide (k < 32) && flag s (aTime 0x1020) k
  | .ring m => decide (m < 4)
  | .host => decide (s.power.vhb ≠ 0)
  | _ => true

/-- What a source leaves behind for the end of the wake: the low level that a port's detector saw (R131), and STAT.WAKE of the controller
that wakes the device (R619). -/
def wakeMark (w : WakeSrc) (s : State) : State :=
  match w with
  | .port n _ => setSlice s n { slice s n with wakeLow := true }
  | .canPattern k => setBit s (aCan k 0x04) 17
  | .canFrame k _ _ _ _ => setBit s (aCan k 0x04) 17
  | _ => s

/-- WAKE_DETECT: sources detected in one clock (R679): they start the wake time, or add to WAKE_SRC during a wake and have no further
effect. -/
def execWakeDetect (ws : List WakeSrc) (s : State) : Host.Outcome State Fault Refusal :=
  if s.power.phase ≠ .stabled then .next s
  else
    let seen := ws.filter (wakeSees s)
    let s := seen.foldl (fun s w => match w with
      | .port _ _ => wakeMark w s
      | _ => s) s
    let act := seen.filter (fun w => flag s (aNode 0x18) (wakeBit w))
    if act.isEmpty then .next s
    else
      let first := !s.power.waking
      let s := if first then setReg (setPower s (fun p => { p with waking := true })) (aNode 0x1C) 0 else s
      .next (act.foldl (fun s w => setBit (if first then wakeMark w s else s) (aNode 0x1C) (wakeBit w)) s)

/-- A slice at the end of a wake (R130, R131, R241): it waits as if the line had been low at s9, and the first LOST item is a WAKE_LOST. A
character in reception is lost, so a MODE written meanwhile takes effect (R90). -/
def wakeSlice (s : State) (n : Nat) : State :=
  let v := slice s n
  let s := clrBit (clrBit s (aPort n 0x18) 0) (aPort n 0x18) 2
  let s := if v.rxMode ≠ 0 then setBit s (aPort n 0x18) 3 else s
  let v' := { v with rx := none, idleRun := false, tmoRun := false, lost := v.lost || v.wakeLow, wakeLow := false }
  let s := setSlice s n { v' with wakeLost := true }
  if v.rx.isSome then rxBoundary n s else s

/-- The event unit and the surviving sides of gates take up what came in Stabled (R145, R648), and the causes of FAULT act (R670). -/
def wakeCatchUp (s : State) : State :=
  let es := s.evtDue
  let ds := s.peerDue
  let fs := s.power.faultDue
  let s := setPower { s with evtDue := [], peerDue := [] } (fun p => { p with faultDue := [] })
  let s := ds.foldl (fun s d => peerNote d s) (es.foldl (fun s n => evtSetting 3 n s) s)
  fs.foldl (fun s b => faultEnter b s) s

/-- WAKE_END: the wake time ends (R680, R681, R677); `slept` is the time in ns that the always-on paddock counted. -/
def execWakeEnd (slept : Nat) (s : State) : Host.Outcome State Fault Refusal :=
  if !(decide (s.power.phase = .stabled) && s.power.waking) then .next s
  else
    let gone := s.now - s.power.sleptAt
    let later := fun (w : Tab Nat) (i : Nat) => tabSet (fun _ => 0) w i (tabGet (fun _ => 0) w i + gone)
    let s := setPower s (fun p => { p with phase := p.sleepFrom, waking := false, wdogAt := [0, 1].foldl later p.wdogAt })
    let s := setUpd s (fun u => { u with winAt := u.winAt + gone })
    let s := setTime s (fun t => { t with pSleep := some ((t.pSleep.getD 0) + slept) })
    let s := if timeSrc s ≠ 0 then enterAcq s else s
    let s := (List.range (portCount s)).foldl wakeSlice s
    let s := (List.range 2).foldl (fun s k => setCan s k { canSt s k with stageLost := true }) s
    let s := dlAgreeAll (dlShutApply { s with dl := tabMap (fun _ => {}) (fun d => { d with grp := none }) s.dl })
    let s := if s.power.supplyPend then raise 95 (setPower s (fun p => { p with supplyPend := false })) else s
    let s := if s.m4 then (List.range 4).foldl (fun s k =>
        if flag s (aTile k 0x00) 0 && !flag s (aTile k 0x04) 4 && !flag s (aTile k 0x04) 0 then
          setTile s k { tile s k with run := true } else s) s
      else s
    let s := (List.range 4).foldl (fun s m => if (lnk s m).dark then linkDark false m s else s) s
    .next (wakeCatchUp (nodeChanged (raise 96 s)))

/-- A write of NODE.WAKE_OUT (R682, R684). DESIGN CHOICE: a second write before the 1 ms of the first has ended adds its links, and one
WAKE_OUT_END ends both (log entry 77). -/
def wakeOutWrite (v : Word) (s : State) : State :=
  if bits v 31 16 ≠ 0x5A5A then nodeCfgErr s
  else
    let ls := (List.range 4).filter (fun m => bit v m && linkUp s m)
    setPower s (fun p => { p with wakeOut := (p.wakeOut ++ ls).eraseDups })

/-- WAKE_OUT (R682). -/
def execWakeOut (v : Word) (s : State) : Host.Outcome State Fault Refusal := .next (if awake s then wakeOutWrite v s else s)

/-- WAKE_OUT_END: the 1 ms ends (R682). -/
def execWakeOutEnd (s : State) : Host.Outcome State Fault Refusal := .next (setPower s (fun p => { p with wakeOut := [] }))

/-- STRIP_WINDOW_END: 100 ms after a core restart began (R665). -/
def execStripWindowEnd (s : State) : Host.Outcome State Fault Refusal := .next (setRing s (fun r => { r with stripOn := false }))

/-- Writes of node control whose values have ranges (R687). -/
def nodeRefused (o : Nat) (v : Word) : Bool := decide (o = 0x10) && decide (bits v 15 0 = 0)

end Sys2Proof.Machine
end

