-- ==== Sys2Proof/Machine/Update.lean ====
section
/-!
DEFINITION. The update unit (20_program_images.md): commands, download, verification, activation, confirmation and revert.
-/
namespace Sys2Proof.Machine

/-- A refused or ignored write of the update unit (R712, R713). -/
def updCfgErr (s : State) : State := setBit s (aUpd 0x08) 19

/-- UPD.BUF (R712). -/
def updBuf (s : State) (n : Nat) : List Byte := memBytes s 0x00061000 n

/-- The source tag (node, local source ID) belongs to the own node (R698, R699). -/
def ownTag (s : State) (src : Nat × Nat) : Bool := decide (src.1 = s.nodeId)

/-- Another initiator owns the unit (R698). -/
def ownedByOther (s : State) (src : Nat × Nat) : Bool :=
  match s.upd.owner with
  | some o => decide (o ≠ src)
  | none => false

/-- UPD.OWNER (R712). -/
def ownerWord (s : State) : Word :=
  match s.upd.owner with
  | some (n, l) => wd (2 ^ 31 + n % 4096 * 512 + l % 512)
  | none => 0

/-- UPD.CONFIRM_LEFT (R707). -/
def confirmLeft (s : State) : Nat :=
  if s.upd.runTrial then fld s (aUpd 0x20) 15 0 - (s.now - s.upd.winAt) / (1000 * msClocks) else 0

/-! ### The commands: the CODE of each, and the state it leaves (R697). `fl` says that the flash completes. -/

/-- BEGIN (R701). -/
def cmdBegin (src : Nat × Nat) (fl : Bool) (s : State) : Nat × State :=
  let h := updBuf s 512
  let r := jRec s
  let slot := proofSlot s
  if r.state = 1 then (2, s)
  else if !check1 h then (3, s)
  else if r.proof = 1 ∧ h = slotHdr s slot then (0, setUpd s (fun u => { u with owner := some src }))
  else if !fl then (14, s)
  else
    let s := jWrite { r with proof := 1, hcrc := hHcrc h } s
    let s := memWrite (flashErase (slotBase slot) 4096 s) (slotBase slot) h
    (0, setUpd s (fun u => { u with owner := some src }))

/-- BLOCK (R702). -/
def cmdBlock (k : Nat) (fl : Bool) (s : State) : Nat × State :=
  let slot := proofSlot s
  if (jRec s).proof ≠ 1 then (2, s)
  else if hNblk (slotHdr s slot) ≤ k then (4, s)
  else if !blockOk s 0x00061000 then (5, raise 80 (errInc s (aUpd 0x44)))
  else if !bitmapBit s k then (0, s)
  else if !fl then (14, raise 80 s)
  else
    let s := memWrite (flashErase (blockAddr slot k) 4096 s) (blockAddr slot k) (updBuf s 4096)
    (0, trafInc (bitmapClear k s) (aUpd 0x40))

/-- Every block of the proof slot has been received. -/
def downloadWhole (s : State) : Bool := (List.range (hNblk (slotHdr s (proofSlot s)))).all (fun k => !bitmapBit s k)

/-- VERIFY (R703). -/
def cmdVerify (fl : Bool) (s : State) : Nat × State :=
  let r := jRec s
  if !(decide (r.proof = 2) || (decide (r.proof = 1) && downloadWhole s)) then (2, s)
  else
    let c := verifyCode s (proofSlot s)
    if c ≠ 0 then (c, raise 82 (errInc s (aUpd 0x48)))
    else if r.proof = 2 then (0, raise 81 s)
    else if !fl then (14, s)
    else (0, raise 81 (jWrite { r with proof := 2 } s))

/-- The engines named by an image's ENGINE sections. -/
def namedEngines (h : List Byte) : List Nat := (((hSects h).filter (fun x => decide (x.kind = 1))).map (fun x => x.engine % 16)).eraseDups

/-- The record of an activation (R704, R706). -/
def actRecord (rflags : Nat) (s : State) : State :=
  let r := jRec s
  let s := jWrite (jPrint s (1 - r.print % 2) { r with state := 1, tries := 3, prev := r.print, proof := 2, rflags := rflags }) s
  logUpdate (trafInc (setUpd s (fun u => { u with owner := none })) (aUpd 0x4C))

/-- ACTIVATE (R704, R706): a live activation copies the banks, writes its tables into the inactive bank and stops dispatch. -/
def cmdActivate (now : Bool) (fl : Bool) (s : State) : Nat × State :=
  let r := jRec s
  let h := slotHdr s (proofSlot s)
  if r.proof ≠ 2 ∨ r.state ≠ 0 then (2, s)
  else if !check7 s h then (11, s)
  else if !hLive h then
    if !fl then (14, s) else (0, setUpd (actRecord 0 s) (fun u => { u with restart := now }))
  else if s.tables.busy then (13, s)
  else if s.power.phase ≠ .halter ∧ s.power.phase ≠ .running then (2, s)
  else if !fl then (14, s)
  else
    let slot := proofSlot s
    let s := loadTables slot (!s.tables.active) (copyBanks (actRecord 2 s))
    (0, setUpd s (fun u => { u with live := some { slot := slot, engines := (namedEngines h).filter (fun l => decide (engPhys s l ≠ 31)) } }))

/-- CONFIRM (R708): its record. MINVER and RUNTRIAL follow at the end of the command (confirmEnd), so that a reset may fall between (R711).
-/
def cmdConfirm (fl : Bool) (s : State) : Nat × State :=
  if !s.upd.runTrial then (2, s)
  else if !fl then (14, s)
  else (0, jWrite { jRec s with state := 0, proof := 2, rflags := 0 } s)

/-- A CONFIRM whose record is written is in progress. -/
def confirming (s : State) : Bool := decide (s.upd.run = some (5, 0))

/-- The end of a CONFIRM (R708): the rule of R705 for MINVER and REVOKE, and RUNTRIAL. -/
def confirmEnd (s : State) : State := setUpd (raiseMinver s) (fun u => { u with runTrial := false })

/-- ABANDON (R710). It cancels a live activation that still drains (R697; log entry 78). -/
def cmdAbandon (fl : Bool) (s : State) : Nat × State :=
  let r := jRec s
  let release := fun (s : State) => setUpd s (fun u => { u with owner := none })
  if r.proof = 1 then (if fl then (0, release (jWrite { r with proof := 0 } s)) else (14, s))
  else if r.state = 1 ∧ ¬ s.upd.runTrial then
    if fl then
      (0, setUpd (release (jWrite (jPrint s r.prev { r with state := 0, proof := 2 }) s)) (fun u => { u with live := none }))
    else (14, s)
  else (2, s)

/-- KEYPROG (R690, R697, R699): a key slot is written once. -/
def cmdKeyprog (k : Nat) (fl : Bool) (s : State) : Nat × State :=
  if s.power.bootMode ≠ 3 then (12, s)
  else if keyProgrammed s (k % 4) then (2, s)
  else if !fl then (14, s)
  else (0, memWrite s (keyAddr (k % 4)) (updBuf s 64))

/-- A command of an initiator (R697–R699): its CODE and what it leaves. -/
def updCommand (src : Nat × Nat) (v : Word) (fl : Bool) (s : State) : Nat × State :=
  let op := bits v 3 0
  let k := bits v 27 16
  if s.power.bootMode = 2 ∧ ownTag s src then (12, s)
  else if op ≠ 6 ∧ ownedByOther s src then (1, s)
  else if op = 1 then cmdBegin src fl s
  else if op = 2 then cmdBlock k fl s
  else if op = 3 then cmdVerify fl s
  else if op = 4 then cmdActivate (bit v 4) fl s
  else if op = 5 then cmdConfirm fl s
  else if op = 6 then cmdAbandon fl s
  else if op = 7 then cmdKeyprog k fl s
  else (2, s)

/-- A write of UPD.CMD (R697): while GO is 1 it is refused; GO starts the command, which ends with UPD_COMMAND_END. -/
def updCmdWrite (src : Nat × Nat) (v : Word) (fl : Bool) (s : State) : State :=
  if flag s (aUpd 0x00) 31 then updCfgErr s
  else
    let s := setReg s (aUpd 0x00) (v &&& 0x8FFF001F)
    if !bit v 31 then s
    else
      let (code, s) := updCommand src v fl s
      setUpd s (fun u => { u with run := some (bits v 3 0, code) })

/-- The word of UPD.CMD that starts OP for block or key k. -/
def updWord (op k : Nat) : Word := wd (2 ^ 31 + k % 4096 * 65536 + op)

/-- The source tag of a command's operands. -/
def tagOf (node : BitVec 12) (loc : BitVec 9) : Nat × Nat := (node.toNat, loc.toNat)

/-- A command of an initiator: a write of UPD.CMD, while the unit's clock runs. -/
def updExec (src : Nat × Nat) (v : Word) (fl : Bool) (s : State) : State := if awake s then updCmdWrite src v fl s else s

/-- UPD_BEGIN (R701). -/
def execUpdBegin (node : BitVec 12) (loc : BitVec 9) (flash : Bool) (s : State) : Host.Outcome State Fault Refusal :=
  .next (updExec (tagOf node loc) (updWord 1 0) flash s)

/-- UPD_BLOCK (R702). -/
def execUpdBlock (node : BitVec 12) (loc : BitVec 9) (blk : BitVec 12) (flash : Bool) (s : State) : Host.Outcome State Fault Refusal :=
  .next (updExec (tagOf node loc) (updWord 2 blk.toNat) flash s)

/-- UPD_VERIFY (R703). -/
def execUpdVerify (node : BitVec 12) (loc : BitVec 9) (flash : Bool) (s : State) : Host.Outcome State Fault Refusal :=
  .next (updExec (tagOf node loc) (updWord 3 0) flash s)

/-- UPD_ACTIVATE (R704, R706). -/
def execUpdActivate (node : BitVec 12) (loc : BitVec 9) (now flash : Bool) (s : State) : Host.Outcome State Fault Refusal :=
  .next (updExec (tagOf node loc) (updWord (4 + 16 * b2n now) 0) flash s)

/-- UPD_CONFIRM (R708). -/
def execUpdConfirm (node : BitVec 12) (loc : BitVec 9) (flash : Bool) (s : State) : Host.Outcome State Fault Refusal :=
  .next (updExec (tagOf node loc) (updWord 5 0) flash s)

/-- UPD_ABANDON (R710). -/
def execUpdAbandon (node : BitVec 12) (loc : BitVec 9) (flash : Bool) (s : State) : Host.Outcome State Fault Refusal :=
  .next (updExec (tagOf node loc) (updWord 6 0) flash s)

/-- UPD_KEYPROG (R690, R697). -/
def execUpdKeyprog (node : BitVec 12) (loc : BitVec 9) (key : BitVec 2) (flash : Bool) (s : State) : Host.Outcome State Fault Refusal :=
  .next (updExec (tagOf node loc) (updWord 7 key.toNat) flash s)

/-- UPD_UNLISTED_OP: a command whose OP is 0 or 8–15 (R697). -/
def execUpdUnlistedOp (node : BitVec 12) (loc : BitVec 9) (op : BitVec 4) (s : State) : Host.Outcome State Fault Refusal :=
  if op = 0 ∨ 8 ≤ op.toNat then .next (updExec (tagOf node loc) (updWord op.toNat 0) true s) else .next s

/-- UPD_COMMAND_END: the command ends and RESULT holds its outcome (R697); a CONFIRM raises MINVER (R708), and the core restart of an
ACTIVATE with NOW then begins (R704), once the log's queue, which holds its UPDATE record, is written (R737; log entry 42). -/
def execUpdCommandEnd (s : State) : Host.Outcome State Fault Refusal :=
  if ¬ awake s then .next s else
  match s.upd.run with
  | none => .next s
  | some (op, code) =>
    let s := if confirming s then confirmEnd s else s
    let s := setReg (clrBit s (aUpd 0x00) 31) (aUpd 0x04) (wd (op * 256 + code))
    let go := s.upd.restart
    let s := setUpd s (fun u => { u with run := none, restart := false })
    .next (if go then coreRestart 6 (logFlush s) else s)

/-- A context of a named engine becomes IDLE; one that still holds a sentence is stopped under R388 (R706, steps 3 and 4). -/
def liveIdle (l c : Nat) (s : State) : State := ctxStop l c s

/-- Steps 3 and 4 of R706 for one named engine: held, drained, its memories rewritten as zero with correct codes. -/
def liveClear (s : State) (l : Nat) : State :=
  let s := (List.range 8).foldl (fun s c => liveIdle l c s) (setBit s (aEng l 0x00) 0)
  let s := flashErase (0x00400000 + l * 0x20000) 0x20000 s
  { s with ecc := s.ecc.filter (fun e => decide (8 * e.1 < 0x00400000 + l * 0x20000) || decide (0x00420000 + l * 0x20000 ≤ 8 * e.1)) }

/-- The LENTRY of an engine (R693): that of its first section. -/
def lentryOf (h : List Byte) (l : Nat) : Nat :=
  (((hSects h).find? (fun x => decide (x.kind = 1) && decide (x.engine % 16 = l))).map (·.lentry)).getD 0

/-- Step 6 of R706 for one named engine. -/
def liveStart (h : List Byte) (s : State) (l : Nat) : State :=
  let s := setCtx l 0 { ctx s l 0 with pc := BitVec.ofNat 16 (lentryOf h l / 4 * 4) } s
  clrBit (ctxStart l 0 (setBit s (aCtx l 0 0x00) 0)) (aEng l 0x00) 0

/-- LIVE_DRAIN_END: the named engines have drained, or LIVE_DRAIN has passed: steps 3–8 of R706. -/
def execLiveDrainEnd (s : State) : Host.Outcome State Fault Refusal :=
  if ¬ awake s then .next s else
  match s.upd.live with
  | none => .next s
  | some v =>
    let s := swapBanks (loadEngines v.slot (v.engines.foldl liveClear s))
    let s := copyBanks (v.engines.foldl (liveStart (slotHdr s v.slot)) s)
    .next (raise 83 (setUpd s (fun u => { u with live := none, runTrial := true, winAt := s.now })))

/-- UPD_OWNER_TIMEOUT: 60 s pass without a command of the owner (R698). With `taken` a command of the owner is taken in the clock in which
they end: it keeps the owner (R32, R698). -/
def execUpdOwnerTimeout (s : State) (taken : Bool := false) : Host.Outcome State Fault Refusal :=
  .next (if awake s ∧ ¬ taken then setUpd s (fun u => { u with owner := none }) else s)

/-- CONFIRM_DUE: CONFIRM_LEFT falls to CONFIRM_WARN (R707, R712). -/
def execConfirmDue (s : State) : Host.Outcome State Fault Refusal :=
  if s.upd.runTrial ∧ fld s (aUpd 0x24) 15 0 ≠ 0 ∧ awake s then .next (raise 84 s) else .next s

/-- CONFIRM_WINDOW_EXPIRY: the window expires; the revert record is written and a core restart begins (R709). A CONFIRM that has been
taken is performed (R32, R708). -/
def execConfirmWindowExpiry (s : State) : Host.Outcome State Fault Refusal :=
  if s.upd.runTrial ∧ ¬ confirming s ∧ awake s then
    .next (coreRestart 6 (setUpd (jRevert s) (fun u => { u with reverted := true })))
  else .next s

/-- Writes of the update unit's registers whose values have ranges (R712). -/
def updRefused (o : Nat) (v : Word) : Bool := (decide (o = 0x20) || decide (o = 0x2C)) && decide (bits v 15 0 = 0)

end Sys2Proof.Machine
end

