-- ==== Sys2Proof/Machine/Sheet.lean ====
section
/-!
DEFINITION. The Contact Sheet (R55–R76): what a read of each of its words gives.
-/
namespace Sys2Proof.Machine

/-- The words with a read effect (R70, R347, R379, R585, R173, R176, R620). -/
def rcMarked (a : Nat) : Bool :=
  decide (a = 0x00020010) || decide (a = 0x00020118) || decide (a = 0x00030014) || decide (a = 0x00030210) ||
  (decide (0x00030800 ≤ a) && decide (a < 0x00030900) && decide (a % 0x40 = 0x04)) ||
  decide (a = 0x00050050) || decide (a = 0x00058050) ||
  (decide (0x00601000 ≤ a) && decide (a < 0x00601200) && decide (a % 0x20 = 0))

/-- An entry of the entry table (R62): TYPE, INSTANCE, BASE, SIZE, FIRST_EVT, EVT_COUNT, CAPS, SEMAP. -/
structure SheetEntry where
  typ : Nat
  inst : Nat
  base : Nat
  size : Nat
  evt : Nat := 0xFFFF
  evts : Nat := 0
  caps : Nat := 0
  semap : Nat := 0
  deriving DecidableEq, Repr

/-- The entries of the eight block units (R64, R65, R70). -/
def sheetBlocks : List SheetEntry := [
  ⟨0x00, 0, 0x00000000, 0x10000, 0xFFFF, 0, 0, 0⟩, ⟨0x01, 0, 0x00010000, 0x10000, 96, 32, 0, 0⟩,
  ⟨0x02, 0, 0x00020000, 0x10000, 72, 8, 0x2007, 0x1000⟩, ⟨0x03, 0, 0x00030000, 0x10000, 53, 11, 0xFF8, 0x1200⟩,
  ⟨0x04, 0, 0x00040000, 0x10000, 40, 13, 0xF, 0⟩, ⟨0x05, 0, 0x00050000, 0x10000, 64, 8, 7, 0x1400⟩,
  ⟨0x06, 0, 0x00060000, 0x10000, 80, 6, 0, 0⟩, ⟨0x07, 0, 0x00070000, 0x10000, 88, 8, 0, 0⟩]

/-- The entries of the switch and its tables. -/
def sheetSwitch : List SheetEntry := [
  ⟨0x20, 0, 0x00200000, 0x10000, 17, 7, 0, 0⟩, ⟨0x21, 0, 0x00210000, 0x20000, 0xFFFF, 0, 0, 0⟩,
  ⟨0x22, 0, 0x00230000, 0x10000, 0xFFFF, 0, 0, 0⟩, ⟨0x23, 0, 0x00240000, 0x8000, 0xFFFF, 0, 0, 0⟩]

/-- The last three entries. -/
def sheetLast : List SheetEntry := [
  ⟨0x31, 0, 0x00600000, 0x10000, 0xFFFF, 0, 0, 0x1600⟩, ⟨0x40, 0, 0x01000000, 0x400000, 0xFFFF, 0, 0x8000, 0⟩,
  ⟨0x41, 0, 0x02000000, 0x2000000, 0xFFFF, 0, 0, 0⟩]

/-- CS.ENT_COUNT (R56, R64). -/
def sheetCount (s : State) : Nat := if s.m4 then 307 else 287

/-- Entry i of the entry table (R63, R64). -/
def sheetEntry (s : State) (i : Nat) : Option SheetEntry :=
  let p := portCount s
  let t := if s.m4 then 4 else 0
  if i < 8 then sheetBlocks[i]?
  else if i < 8 + p then
    let n := i - 8
    some { typ := 0x10, inst := n, base := 0x00100000 + n * 0x100, size := 0x100, evt := n / 16, evts := 1, caps := b2n (decide (256 ≤ n)) }
  else if i < 8 + p + t then
    let k := i - 8 - p
    some { typ := 0x11, inst := k, base := 0x00120000 + k * 0x1000, size := 0x1000, evt := 104 + k, evts := 1 }
  else if i < 12 + p + t then sheetSwitch[i - 8 - p - t]?
  else if i < 28 + p + t then
    let l := i - 12 - p - t
    some { typ := 0x30, inst := l, base := 0x00400000 + l * 0x20000, size := 0x20000, evt := 24 + l, evts := 1, caps := 8 }
  else sheetLast[i - 28 - p - t]?

/-- Word w of an entry (R62). -/
def entryWord (e : SheetEntry) (w : Nat) : Nat :=
  match w with
  | 0 => e.typ + e.inst * 65536
  | 1 => 0x0100 + 0x0001 * 65536
  | 2 => e.base
  | 3 => 0
  | 4 => e.size
  | 5 => e.caps
  | 6 => e.evt + e.evts * 65536
  | _ => e.semap + (if e.semap = 0 then 0 else 0x0200) * 65536

/-- The slices and the physical engines in a state of their maps. -/
def slicesIn (s : State) (st : Nat) : Nat := ((List.range 280).filter (fun x => decide (sliceMap s x / 0x4000 = st))).length
def enginesIn (s : State) (st : Nat) : Nat := ((List.range 18).filter (fun e => decide (engMap s e / 0x4000 = st))).length

/-- Word j of the side-effect map of the block at `base` (R68). -/
def semapWord (base j : Nat) : Nat := (List.range 32).foldl (fun w b => w + b2n (rcMarked (base + 4 * (32 * j + b))) * 2 ^ b) 0

/-- The header (R56, R57). -/
def sheetHeader (s : State) (a : Nat) : Nat :=
  if a = 0x00 then 0x48534354
  else if a = 0x04 then 0x0100 + 0x0040 * 65536
  else if a = 0x08 then (lo32 s.duid).toNat
  else if a = 0x0C then (hi32 s.duid).toNat
  else if a = 0x10 then phaseCode s.power.phase * 4096 + s.nodeId % 4096 + s.srev.toNat * 65536
  else if a = 0x14 then 4 * b2n s.m4 + portCount s * 65536
  else if a = 0x18 then sheetCount s + 0x0020 * 65536
  else if a = 0x1C then 0x40
  else if a = 0x20 then 0x3000
  else if a = 0x24 then 0x3400
  else if a = 0x28 then 0x3500
  else if a = 0x2C then s.csGen
  else 0

/-- The service summary (R76). -/
def sheetSummary (s : State) (a : Nat) : Nat :=
  if a = 0 then slicesIn s 2 + slicesIn s 0 * 65536
  else if a = 4 then enginesIn s 3 + enginesIn s 0 * 256
  else if a = 8 then (lo32 s.av.lastRetire).toNat
  else (hi32 s.av.lastRetire).toNat

/-- The word of the Contact Sheet at offset a; unused offsets read as zero (R53). -/
def sheetWord (s : State) (a : Nat) : Word :=
  wd (if a < 0x40 then sheetHeader s a
    else if a < 0x3000 then
      match sheetEntry s ((a - 0x40) / 32) with
      | some e => entryWord e ((a - 0x40) % 32 / 4)
      | none => 0
    else if a < 0x3230 then sliceMap s ((a - 0x3000) / 2) + sliceMap s ((a - 0x3000) / 2 + 1) * 65536
    else if 0x3400 ≤ a ∧ a < 0x3424 then engMap s ((a - 0x3400) / 2) + engMap s ((a - 0x3400) / 2 + 1) * 65536
    else if 0x3500 ≤ a ∧ a < 0x3510 then sheetSummary s (a - 0x3500)
    else if 0x4000 ≤ a ∧ a < 0x6000 then
      let base := if a < 0x4800 then 0x00020000 else if a < 0x5000 then 0x00030000 else if a < 0x5800 then 0x00050000 else 0x00600000
      semapWord base (a % 0x800 / 4)
    else 0)

end Sys2Proof.Machine
end

