-- ==== Sys2Proof/Machine/Bridge.lean ====
section
/-!
DEFINITION. Fabric transactions of this node (R557, R560, R566–R589): windows, the error log, launch and order of requests, their
completion and failure, read tags, and retransmission.
-/
namespace Sys2Proof.Machine

/-- Change the fabric unit's own state. -/
def setFab (s : State) (f : FabSt → FabSt) : State := { s with fab := f s.fab }

/-- Set a flag of HB.STAT, with its event (R586). -/
def hbFlag (b : Nat) (s : State) : State := if b < 5 then stickyRaise (aHb 0) b (53 + b) s else setBit s (aHb 0) b

/-- A refused write of the host bridge (R36, R586). -/
def hbCfgErr (s : State) : State := setBit s (aHb 0) 8

/-! ### The error log (R584, R589) -/

/-- Write an ERRLOG entry. -/
def errlogPut (addr node src cause : Nat) (s : State) : State :=
  if 32 ≤ s.fab.errlog.length then setFab (errInc (hbFlag 5 s) (aHb 0x4C)) (fun f => { f with errLost := true })
  else setFab s (fun f => { f with
    errlog := f.errlog ++ [{ addr := addr, ft := s.time.ft,
                             desc := wd (b2n f.errLost * 2 ^ 31 + node % 4096 * 65536 + src % 256 * 256 + cause % 16) }],
    errLost := false })

/-- The entry that ERRLOG0–3 show: the head, or the one read last. -/
def errShown (s : State) : Option ErrEntry :=
  match s.fab.errlog with
  | e :: _ => some e
  | [] => s.fab.errLast

/-- ERRLOG0–3 and ERRLOG_STAT. -/
def errlogWord (s : State) (o : Nat) : Word :=
  if o = 0x214 then wd s.fab.errlog.length
  else
    match errShown s with
    | none => 0
    | some e => if o = 0x200 then wd e.addr else if o = 0x204 then wd (e.addr / 2 ^ 32 % 65536)
                else if o = 0x208 then lo32 e.ft else hi32 e.ft

/-- A read of ERRLOG4 (R584). -/
def errlogRead (s : State) : Word × State :=
  match s.fab.errlog with
  | [] => (0, s)
  | e :: r => (e.desc, setFab s (fun f => { f with errlog := r, errLast := some e }))

/-- ERRLOG_READ (R584). -/
def execErrlogRead (s : State) : Host.Outcome State Fault Refusal := if awake s then .next (errlogRead s).2 else .next s

/-! ### Windows (R557, R560) -/

/-- A register of window w. -/
def aWin (w o : Nat) : Nat := aHb (0x100 + 0x10 * w + o)

/-- The size of window w. -/
def winSize (s : State) (w : Nat) : Nat := 2 ^ (16 + fld s (aWin w 0x0C) 3 0)

/-- The host base and the fabric base in force. -/
def winBases (s : State) (w : Nat) : Nat × Nat := tabGet (fun _ => (0, 0)) s.fab.wins w

/-- The window of a host address, and its fabric address (R557). -/
def hostWin (s : State) (a : Nat) : Option (Nat × Nat) :=
  if 2 ^ 32 ≤ a then none
  else
    ((List.range 8).find? (fun w => flag s (aWin w 0x0C) 31 && decide (a / winSize s w * winSize s w = (winBases s w).1))).map
      (fun w => (w, (winBases s w).2 + (a - (winBases s w).1)))

/-- An address in no window (R557). -/
def winFault (a : Nat) (s : State) : State := errlogPut a 0 0xFF 7 (errInc (hbFlag 4 s) (aHb 0x40))

/-! ### Transactions (R575, R576) -/

/-- The ITAG of a transaction. -/
def itagOf : TrOwner → Nat
  | .tag t p => t + 64 * p
  | .np i _ => 0x4000 + i
  | .slot i => 0x8000 + i
  | .eng l c _ => 0xC000 + l * 1024 + c * 128
  | .engPost l c i => 0xC000 + l * 1024 + c * 128 + i

/-- The ILOC of a transaction. -/
def ilocOf : TrOwner → Nat
  | .eng l _ _ => 272 + l
  | .engPost l _ _ => 272 + l
  | _ => 288

/-- The bridge's transactions, and its posted writes. -/
def isBridge : TrOwner → Bool
  | .eng _ _ _ => false
  | .engPost _ _ _ => false
  | _ => true
def isSlot : TrOwner → Bool
  | .slot _ => true
  | _ => false

/-- Posted writes of bridge and engines. -/
def isPosted : TrOwner → Bool
  | .slot _ => true
  | .engPost _ _ _ => true
  | _ => false

/-- A transaction header (R498). -/
def txHdr (addr blen itag tseq iloc status : Nat) : List Byte :=
  bytesLE 5 (addr % 2 ^ 36) ++ bytesLE 1 0 ++ bytesLE 2 (blen % 512) ++ bytesLE 2 itag ++ bytesLE 2 tseq ++ bytesLE 2 (iloc % 512) ++
  bytesLE 1 status ++ bytesLE 1 0

/-- Send a request frame, first or again (R576). -/
def sendTrans (t : Trans) (s : State) : State :=
  originate { typ := t.typ, dest := t.node, src := s.nodeId, spec := t.spec, retx := decide (t.retx ≠ 0),
              payload := txHdr t.addr t.blen (itagOf t.owner) t.tseq (ilocOf t.owner) 0 ++ t.data } s

/-- Launch a request: it takes the next transaction number and is counted (R576, R585). -/
def launchTrans (t : Trans) (s : State) : Trans × State :=
  let t := { t with tseq := s.fab.tseq, sent := true }
  let s := setFab s (fun f => { f with tseq := (f.tseq + 1) % 65536 })
  (t, sendTrans t (trafInc s (aHb (if t.typ = 2 then 0x20 else if t.typ = 4 then 0x24 else 0x28))))

/-- A posted fabric write of logical engine L. -/
def isEngPost (l : Nat) : TrOwner → Bool
  | .engPost l' _ _ => decide (l' = l)
  | _ => false

/-- A transaction may be launched behind those before it: the bridge's under R575; a posted write of an engine takes one of eight slots,
in order (R576). -/
def mayLaunch (before : List Trans) (t : Trans) : Bool :=
  match t.owner with
  | .eng _ _ _ => true
  | .engPost l _ _ =>
    !before.any (fun b => isEngPost l b.owner && !b.sent) && decide ((before.filter (fun b => isEngPost l b.owner)).length < 8)
  | _ =>
    !(t.ord && before.any (fun b => isBridge b.owner && decide (b.node = t.node))) &&
    !(isSlot t.owner && before.any (fun b => isSlot b.owner && !b.sent))

/-- The slot of an engine, 0–7, that none of the transactions before holds. -/
def slotted (before : List Trans) (t : Trans) : Trans :=
  match t.owner with
  | .engPost l c _ =>
    let used := fun (i : Nat) => before.any (fun b => match b.owner with
      | .engPost l' _ i' => decide (l' = l) && decide (i' = i)
      | _ => false)
    { t with owner := .engPost l c (((List.range 8).find? (fun i => !used i)).getD 0) }
  | _ => t

/-- Launch what may be launched, in order. -/
def pumpFrom : List Trans → List Trans → State → State
  | done, [], s => setFab s (fun f => { f with trans := done })
  | done, t :: r, s =>
    if !t.sent && mayLaunch done t then
      let (t, s) := launchTrans (slotted done t) s
      pumpFrom (done ++ [t]) r s
    else pumpFrom (done ++ [t]) r s

/-- A frame is a copy of a broadcast write. -/
def isCopyOf (s : State) (t : Trans) (f : Frame) : Bool :=
  decide (f.typ = 4) && decide (f.dest = 0xFFF) && decide (f.src = s.nodeId) && !f.junc &&
  decide (fieldLE f.payload 8 4 = itagOf t.owner + 65536 * t.tseq)

/-- A transmitter holds a copy of a broadcast write. -/
def txHolds (s : State) (t : Trans) : Option TxCopy → Bool
  | some (.own f _) => isCopyOf s t f
  | _ => false

/-- Every copy of a broadcast write has left the node or been discarded (R571). -/
def bcastGone (s : State) (t : Trans) : Bool :=
  (List.range 4).all (fun m => !(txQ s m).any (isCopyOf s t) && !txHolds s t (txOf s m).cur && !txHolds s t (txOf s m).susp)

/-- The incomplete transactions: broadcast writes whose copies have left are complete. -/
def incomplete (s : State) : List Trans := s.fab.trans.filter (fun t => !(decide (t.node = 0xFFF) && t.sent && bcastGone s t))

/-- Launch the transactions that wait and may go. -/
def pump (s : State) : State :=
  let ts := incomplete s
  if originates s then pumpFrom [] ts s else setFab s (fun f => { f with trans := ts })

/-- Add transactions and launch what may be launched. -/
def addTrans (ts : List Trans) (s : State) : State := pump (setFab s (fun f => { f with trans := f.trans ++ ts }))

/-- Posted-write slots in use, and the free ones (R569). -/
def slotsUsed (s : State) : Nat := ((incomplete s).filter (fun t => isSlot t.owner)).length
def slotsFree (s : State) : List Nat :=
  let ts := incomplete s
  (List.range 64).filter (fun i => !ts.any (fun t => decide (t.owner = .slot i)))

/-- HB.USE (R587). -/
def useWord (s : State) : Word :=
  wd (b2n s.fab.np.isSome * 65536 + slotsUsed s * 256 + (s.fab.tags.filter (fun e => e.2.isSome)).length)

/-! ### Read tags (R566–R568) -/

/-- A read tag, and setting it. -/
def tagGet (s : State) (t : Nat) : Option Tag := tabGet (fun _ => none) s.fab.tags t
def setTag (t : Nat) (v : Option Tag) (s : State) : State := setFab s (fun f => { f with tags := tabSet (fun _ => none) f.tags t v })

/-- Discard a tag (R566, R568): what was still asked for is abandoned. -/
def tagDiscard (t : Nat) (s : State) : State :=
  match tagGet s t with
  | none => s
  | some g =>
    let s := setFab (setTag t none s) (fun f => { f with trans := f.trans.filter (fun x => match x.owner with
      | .tag n _ => decide (n ≠ t)
      | _ => true) })
    if g.life = .held then trafInc s (aHb 0x48)
    else if g.fail then s
    else errlogPut g.fab (g.fab / 2 ^ 36) g.win (if g.se then 6 else 5) (errInc (hbFlag (if g.se then 2 else 1) s) (aHb 0x38))

/-- A host write of bytes at a fabric address discards read-ahead that it covers (R566); a broadcast write covers every node's. -/
def heldCover (fab : Nat) (s : State) : State :=
  let hit := fun (h : Nat) => decide (h / 4 = fab / 4) || (decide (fab / 2 ^ 36 = 0xFFF) && decide (h % 2 ^ 36 / 4 = fab % 2 ^ 36 / 4))
  (s.fab.tags.filterMap (fun e => match e.2 with
    | some g => if g.life = .held ∧ g.held.any hit then some e.1 else none
    | none => none)).foldl (fun s t => tagDiscard t s) s

/-- READ_HOLD_EXPIRY: READ_HOLD passes for tag t: a READY tag's from its becoming READY, a HELD tag's from the arrival of its bytes (R566,
R568). -/
def execReadHoldExpiry (t : Nat) (s : State) : Host.Outcome State Fault Refusal :=
  match tagGet s t with
  | some g => if g.life = .fetch ∨ ¬ awake s then .next s else .next (pump (tagDiscard t s))
  | none => .next s

/-- A write of HWIN[w].ATTR (R560): the window's four registers come into force, or the write is refused. -/
def hwinAttrWrite (w : Nat) (v : Word) (s : State) : State :=
  let size := 2 ^ (16 + bits v 3 0)
  let hb := (getReg s (aWin w 0)).toNat
  let fb := fld s (aWin w 8) 15 0 * 2 ^ 32 + (getReg s (aWin w 4)).toNat
  if bits v 3 0 = 15 ∨ bits v 11 10 = 3 ∨ hb % size ≠ 0 ∨ fb % size ≠ 0 then hbCfgErr s
  else
    let ts := s.fab.tags.filterMap (fun e => match e.2 with
      | some g => if g.win = w then some e.1 else none
      | none => none)
    let s := ts.foldl (fun s t => tagDiscard t s) s
    let s := setReg s (aWin w 0x0C) (v &&& 0x80003F0F)
    pump (setFab s (fun f => { f with wins := tabSet (fun _ => (0, 0)) f.wins w (hb, fb) }))

/-- HWIN_ATTR_WRITE (R560). -/
def execHwinAttrWrite (w : BitVec 3) (v : Word) (s : State) : Host.Outcome State Fault Refusal :=
  if awake s then .next (hwinAttrWrite w.toNat v s) else .next s

/-! ### Completion and failure (R571–R578) -/

/-- Remove a transaction. -/
def dropTrans (t : Trans) (s : State) : State := setFab s (fun f => { f with trans := f.trans.filter (fun x => decide (x ≠ t)) })

/-- The end of the last data phase of a non-posted write (R574). -/
def npAnswer (ok : Bool) (s : State) : State :=
  setFab s (fun f => { f with np := none, bus := f.bus.map (fun b => if b = .wait then (if ok then .ready 0 else .error) else b) })

/-- A request of the non-posted write on the bus has been answered. -/
def npOne (failed : Bool) (s : State) : State :=
  match s.fab.np with
  | none => s
  | some n =>
    let n := { n with open_ := n.open_ - 1, failed := n.failed || failed }
    if n.open_ = 0 then npAnswer (!n.failed) s else setFab s (fun f => { f with np := some n })

/-- A failed posted write of the bridge (R572). -/
def postFail (fab src cause : Nat) (s : State) : State :=
  let f := fld s (aHb 0x14) 15 0
  let s := setReg s (aHb 0x14) (wd (min 65535 (f + 1)))
  errlogPut fab (fab / 2 ^ 36) src cause (errInc (hbFlag 0 s) (aHb 0x34))

/-- A failed posted write of logical engine L: counted for ffence, not for HB.FENCE (R577). -/
def engPostFail (l fab cause : Nat) (s : State) : State :=
  errlogPut fab (fab / 2 ^ 36) (0x10 + l) cause (hbFlag 0 (setEng s l { eng s l with fails := (eng s l).fails + 1 }))

/-- A failed host read or non-posted write request (R577). -/
def hostFail (fab src cause : Nat) (s : State) : State := errlogPut fab (fab / 2 ^ 36) src cause (errInc s (aHb 0x50))

/-- A transaction fails with a cause of R584. -/
def transFail (t : Trans) (cause : Nat) (s : State) : State :=
  let s := dropTrans t s
  let fab := t.node * 2 ^ 36 + t.addr
  let s := match t.owner with
    | .tag n _ =>
      let s := hostFail fab t.src cause s
      match tagGet s n with
      | some g => setTag n (some { g with life := .ready, fail := true }) s
      | none => s
    | .np _ bus => (if bus then npOne true else id) (hostFail fab t.src cause s)
    | .slot _ => postFail fab t.src cause s
    | .eng l c id => respond l c id { exc := some 3 } s
    | .engPost l _ _ => engPostFail l fab cause s
  pump s

/-- A transaction completes with its data. -/
def transOk (t : Trans) (data : List Byte) (s : State) : State :=
  let s := dropTrans t s
  let data := (data ++ List.replicate t.blen 0).take t.blen
  let s := match t.owner with
    | .tag n _ =>
      match tagGet s n with
      | some g => setTag n (some { g with life := .ready, data := data }) s
      | none => s
    | .np _ bus => if bus then npOne false s else s
    | .slot _ => s
    | .eng l c id =>
      respond l c id (if t.typ ≠ 2 then { regs := [(t.reg, 0)] } else match t.dmem with
        | some a => { regs := [(t.reg, 0)], mem := [(a, data)] }
        | none => { regs := [(t.reg, wd (ofBytesLE data))] }) s
    | .engPost _ _ _ => s
  pump s

/-- A speculative read was refused (R565, R566): the demand request takes its place. -/
def transDemand (t : Trans) (s : State) : State :=
  match t.owner with
  | .tag n _ =>
    match tagGet s n with
    | some g =>
      let t' := { t with spec := false, blen := g.bytes, retx := 0 }
      let s := setTag n (some { g with se := true, ahead := 0 }) s
      if originates s then
        let (t', s) := launchTrans t' s
        setFab s (fun f => { f with trans := f.trans.map (fun x => if x = t then t' else x) })
      else transFail t 9 s
    | none => dropTrans t s
  | _ => s

/-- The transaction that a response names (R578). -/
def transOf (s : State) (f : Frame) : Option Trans :=
  (incomplete s).find? (fun t => t.sent && decide (t.node = f.src) && decide (itagOf t.owner = fieldLE f.payload 8 2) &&
    decide (t.tseq = fieldLE f.payload 10 2))

/-- A response is taken (R577, R578). STATUS 2 answers a speculative request only; to another request it is discarded. -/
def takeResponse (f : Frame) (s : State) : State :=
  match transOf s f with
  | none => errInc s (aHb 0x44)
  | some t =>
    let st := fieldLE f.payload 14 1
    if st = 0 then transOk t (f.payload.drop 16) s
    else if st = 2 then (if t.spec then transDemand t s else errInc s (aHb 0x44))
    else transFail t (if st = 3 then 2 else 1) s

/-- Take the first arrived frame that satisfies `p`. -/
def arrivedTake (p : Frame → Bool) (s : State) : Option (Frame × State) :=
  (s.fab.arrived.find? p).map (fun f => (f, setFab s (fun x => { x with arrived := x.arrived.eraseP p })))

/-- A response frame: RDP or WRA. -/
def isResponse (f : Frame) : Bool := decide (f.typ = 3) || decide (f.typ = 6)

/-- TRANSACTION_RESPONSE: the first response that has reached the switch (R578). -/
def execTransactionResponse (s : State) : Host.Outcome State Fault Refusal :=
  if ¬ awake s then .next s
  else
    match arrivedTake isResponse s with
    | some (f, s) => .next (takeResponse f s)
    | none => .next s

/-- The incomplete transaction with a TSEQ that has been sent. -/
def transBySeq (s : State) (tseq : Nat) : Option Trans := (incomplete s).find? (fun t => t.sent && decide (t.tseq = tseq))

/-- RETX_TIMER_EXPIRY: RETX_TIME has passed since the last send of transaction `tseq`, a read or non-posted write (R577). A node that
has returned to HALTER sends nothing (R523). -/
def execRetxTimerExpiry (tseq : BitVec 16) (s : State) : Host.Outcome State Fault Refusal :=
  match transBySeq s tseq.toNat with
  | none => .next s
  | some t =>
    if isPosted t.owner || !awake s then .next s
    else if t.retx < fld s (aHb 0x0C) 17 16 then
      let t' := { t with retx := t.retx + 1 }
      let s := setFab (errInc s (aHb 0x2C)) (fun f => { f with trans := f.trans.map (fun x => if x = t then t' else x) })
      .next (if originates s then sendTrans t' s else s)
    else .next (transFail t 3 s)

/-- PW_TIMEOUT_EXPIRY: PW_TIMEOUT has passed since the launch of posted write `tseq` (R571). -/
def execPwTimeoutExpiry (tseq : BitVec 16) (s : State) : Host.Outcome State Fault Refusal :=
  match transBySeq s tseq.toNat with
  | none => .next s
  | some t => if isPosted t.owner && awake s then .next (transFail t 3 s) else .next s

/-- NP_TIMEOUT_EXPIRY: NP_TIMEOUT passes from the first edge of the last data phase of a non-posted write (R574). -/
def execNpTimeoutExpiry (s : State) : Host.Outcome State Fault Refusal :=
  match s.fab.np with
  | none => .next s
  | some n =>
    if ¬ awake s then .next s
    else
      let s := setFab s (fun f => { f with trans := f.trans.filter (fun t => match t.owner with
        | .np _ bus => !bus
        | _ => true) })
      .next (pump (npAnswer false (hostFail n.addr n.win 4 (errInc (hbFlag 3 s) (aHb 0x3C)))))

/-- The open HB.FENCE read waits for no slot (R573). -/
def fenceClear (s : State) : Bool := !(incomplete s).any (fun t => t.fence && isSlot t.owner)

/-- An attempt to read HB.FENCE marks the posted writes taken before its first attempt (R573). -/
def fenceMark (s : State) : State :=
  if s.fab.fenceOpen then s
  else setFab s (fun f => { f with fenceOpen := true, trans := f.trans.map (fun t => if isSlot t.owner then { t with fence := true } else t) })

/-- A read of HB.FENCE returns the count and sets it to 0 (R573). -/
def fenceRead (s : State) : Word × State :=
  (getReg s (aHb 0x14), setReg s (aHb 0x14) 0)

end Sys2Proof.Machine
end

