-- ==== Sys2Proof/Machine/Bus.lean ====
section
/-!
DEFINITION. Reads and writes of node-local space (R12, R36–R41, R53): which words are mapped, what a read returns and does, and what a
write does, whoever the initiator is.
-/
namespace Sys2Proof.Machine

/-! ### The node-local map (R53) -/

/-- The word lies in a region of the flash window (R688). -/
def flashMapped (a : Nat) : Bool :=
  (decide (0x02000000 ≤ a) && decide (a < 0x03800000)) || (decide (0x03800000 ≤ a) && decide (a < 0x03804000)) ||
  (decide (0x03900000 ≤ a) && decide (a < 0x03A00000))

/-- The word is memory: UPD.BUF, the engine memories, the sentence store, the flash. -/
def isMem (a : Nat) : Bool :=
  (decide (0x00061000 ≤ a) && decide (a < 0x00062000)) || (decide (0x00400000 ≤ a) && decide (a < 0x00600000)) ||
  (decide (0x01000000 ≤ a) && decide (a < 0x01400000)) || flashMapped a

/-- The word lies in a table window. -/
def isTbl (a : Nat) : Bool := decide (0x00210000 ≤ a) && decide (a < 0x00248000)

/-- The word is mapped (R53); the ports and tiles of a BX2560-M0 end sooner (R2, R4). -/
def mapped (s : State) (a : Nat) : Bool :=
  decide (a < 0x00010000) || isMem a || isTbl a ||
  ((regRow a).isSome && !(decide (0x00100000 ≤ a) && decide (a < 0x00111000) && decide (portCount s ≤ (a - 0x00100000) / 0x100)) &&
   !(!s.m4 && decide (0x00120000 ≤ a) && decide (a < 0x00124000)))

/-! ### What a word reads as, without any read effect -/

/-- Node control, the event unit and the gates (R154, R655, R684). -/
def nodeRead (s : State) (o : Nat) : Word :=
  let sum := fun (i b : Nat) => dlWord (fun k => flag s (aGateStat (32 * i + k)) b)
  if o = 0x00 then nodeStatWord s
  else if o = 0x24 then supplyWord s
  else if o = 0x28 then vioSenseWord s
  else if o = 0x40 then wd (wdogLeft s 0 + 65536 * wdogLeft s 1)
  else if 0x1030 ≤ o ∧ o < 0x1050 then evtPendWord s ((o - 0x1030) / 0x10) (o % 0x10 / 4)
  else if o = 0x1054 then evtHvec s 0
  else if o = 0x1058 then evtHvec s 1
  else if 0x3C00 ≤ o ∧ o < 0x3C40 then sum ((o - 0x3C00) / 4) 0
  else if 0x3C40 ≤ o ∧ o < 0x3C80 then sum ((o - 0x3C40) / 4) 1
  else if 0x4000 ≤ o ∧ o < 0x5000 then
    let k := gateKind s ((o - 0x4000) / 8)
    if k = 3 then (if o % 8 = 0 then 0xC0 else 0)
    else if o % 8 = 0 then setBits (getReg s (aNode o)) 7 6 k
    else getReg s (aNode o)
  else getReg s (aNode o)

/-- The host bridge and the mailboxes (R172, R585). -/
def hbRead (s : State) (o : Nat) : Word :=
  if o = 0x18 then useWord s
  else if 0x200 ≤ o ∧ o < 0x218 then (if o = 0x210 then (s.fab.errlog.head?.map (·.desc)).getD 0 else errlogWord s o)
  else if 0x800 ≤ o ∧ o < 0x900 ∧ o % 0x40 = 0x0C then fifoStatWord s (fIn ((o - 0x800) / 0x40))
  else if 0x800 ≤ o ∧ o < 0x900 ∧ o % 0x40 = 0x14 then fifoStatWord s (fOut ((o - 0x800) / 0x40))
  else getReg s (aHb o)

/-- The ring unit (R514, R519). -/
def ringRead (s : State) (o : Nat) : Word :=
  if o = 0x14 then dupView s
  else if 0x100 ≤ o ∧ o < 0x200 ∧ o % 0x40 = 0x04 then linkStatWord s ((o - 0x100) / 0x40)
  else getReg s (aRing o)

/-- The CAN controllers (R603, R620). -/
def canRead (s : State) (k o : Nat) : Word :=
  if o = 0x2C then wd (canSt s k).sq.length
  else if o = 0x50 then (canRxTake k s).1
  else if o = 0x58 then
    let n := (canSt s k).rxq.length
    setBits (setBits (getReg s (aCan k 0x58)) 25 16 n) 1 0 ((if n = 0 then 1 else 0) + (if 128 ≤ n then 2 else 0))
  else getReg s (aCan k o)

/-- The update unit (R712). -/
def updRead (s : State) (o : Nat) : Word :=
  if o = 0x08 then updStatWord s
  else if o = 0x0C then ownerWord s
  else if o = 0x10 then wd (rxCount s)
  else if o = 0x14 then wd s.upd.minver
  else if o = 0x18 then wd (hVersion (slotHdr s (jRec s).print))
  else if o = 0x1C then wd (proofVer s)
  else if o = 0x28 then wd (confirmLeft s)
  else if o = 0x30 then wd (keyStat s)
  else getReg s (aUpd o)

/-- A port record (R77, R247, R338, R339). -/
def portRead (s : State) (n o : Nat) : Word :=
  let q := queue s n
  if o = 0x44 then putWordBit (getReg s (aPort n o)) 16 (parser s n).cur.isSome
  else if o = 0x70 then
    setBits (getReg s (aPort n o)) 1 0 (match q.started, q.ending with
      | some t, _ => 1 + 2 * b2n t.item.cut
      | none, some i => 1 + 2 * b2n i.cut
      | none, none => 0)
  else if o = 0x74 then
    wd (heldOf q * 65536 + (List.range 8).foldl (fun a c => if q.items.any (fun i => decide (i.cls = c)) then a + 2 ^ c else a) 0)
  else getReg s (aPort n o)
where
  /-- A word with one bit set to a value. -/
  putWordBit (w : Word) (i : Nat) (b : Bool) : Word := setBits w i i (b2n b)

/-- The line tiles (R219). -/
def tileRead (s : State) (k o : Nat) : Word :=
  if 0x100 ≤ o ∧ o < 0x200 ∧ o % 0x40 = 0x04 then setBits (getReg s (aTile k o)) 0 0 (b2n (drvOn s (4 * k + (o - 0x100) / 0x40)))
  else getReg s (aTile k o)

/-- The switch (R248, R264, R303, R340, R341). -/
def swRead (s : State) (o : Nat) : Word :=
  let sum := fun (i : Nat) (en st sh mask : Nat) =>
    dlWord (fun b => decide (32 * i + b < portCount s) &&
      decide ((getReg s (aPort (32 * i + b) st) >>> sh) &&& (getReg s (aPort (32 * i + b) en) >>> (if sh = 0 then 0 else 16)) &&& wd mask ≠ 0))
  if o = 0x0C then wd (poolFree s)
  else if o = 0x10 then wd (poolPairs s)
  else if 0x20 ≤ o ∧ o < 0x44 then sum ((o - 0x20) / 4) 0x48 0x44 0 0x7FF
  else if o = 0x290 then s.time.dnow
  else if 0x2A0 ≤ o ∧ o < 0x2C4 then sum ((o - 0x2A0) / 4) 0x60 0x70 8 0x1F
  else getReg s (aSw o)

/-- The table and the offset within it of a word of the table windows. -/
def tblPos (a : Nat) : Nat × Nat :=
  if a < 0x00230000 then (0, a - 0x00210000) else if a < 0x00240000 then (1, a - 0x00230000) else (2, a - 0x00240000)

/-- The bank that the windows show (R294). -/
def winBank (s : State) : Bool := if flag s (aSw 0x200) 1 then !s.tables.active else s.tables.active

/-- The message FIFOs (R175). -/
def emqRead (s : State) (l o : Nat) : Word := if o = 0x08 then fifoStatWord s (fEmq l) else getReg s (aEmq l o)

/-- The value of a mapped word. -/
def regRead (s : State) (a : Nat) : Word :=
  if a < 0x00010000 then sheetWord s a
  else if isMem a then wd (memNat s a 4)
  else if isTbl a then tblWord s (winBank s) (tblPos a).1 (tblPos a).2
  else if a < 0x00020000 then nodeRead s (a - 0x00010000)
  else if a < 0x00021000 then timeRead s (a - 0x00020000)
  else if a < 0x00030000 then dlRead s (a - 0x00021000)
  else if a < 0x00040000 then hbRead s (a - 0x00030000)
  else if a < 0x00050000 then ringRead s (a - 0x00040000)
  else if a < 0x00060000 then canRead s ((a - 0x00050000) / 0x8000) (a % 0x8000)
  else if a < 0x00070000 then updRead s (a - 0x00060000)
  else if a < 0x00080000 then (if a = aAv 0xC0 then wd s.av.logHead
    else if a = aAv 0x00 then setBits (getReg s a) 19 19 (b2n (anyTemp s (fld s (aAv 0x90) 7 0))) else getReg s a)
  else if a < 0x00120000 then portRead s ((a - 0x00100000) / 0x100) (a % 0x100)
  else if a < 0x00200000 then tileRead s ((a - 0x00120000) / 0x1000) (a % 0x1000)
  else if a < 0x00210000 then swRead s (a - 0x00200000)
  else if a < 0x00601000 then engRead s ((a - 0x00600000) / 0x100) (a % 0x100)
  else emqRead s ((a - 0x00601000) / 0x20) (a % 0x20)

/-! ### Reads -/

/-- A read of a mapped word with a read effect (R14, R70). -/
def markedRead (a : Nat) (s : State) : Word × State :=
  if a = 0x00020010 then nowLoRead s
  else if a = 0x00020118 then shutRead s
  else if a = 0x00030014 then fenceRead s
  else if a = 0x00030210 then errlogRead s
  else if a < 0x00040000 then fifoRead (fOut ((a - 0x00030800) / 0x40)) s
  else if a < 0x00060000 then canRxTake ((a - 0x00050000) / 0x8000) s
  else fifoRead (fEmq ((a - 0x00601000) / 0x20)) s

/-- The pages of the journal, the key store and the minimum-version counter hold what the specification gives them; the counter's
own coding is open (R691). -/
def minverPage (a : Nat) : Bool := decide (0x03803000 ≤ a) && decide (a < 0x03804000)

/-- A read of a FIFO's data register meets an uncorrectable word at the head (R715). -/
def markedBad (a : Nat) (s : State) : Bool × State :=
  if a < 0x00030800 then (false, s)
  else if a < 0x00040000 then fifoEcc (fOut ((a - 0x00030800) / 0x40)) 1 s
  else if a < 0x00060000 then (false, s)
  else fifoEcc (fEmq ((a - 0x00601000) / 0x20)) 1 s

/-- A read of one aligned word by any initiator: none is the error response (R38, R715). -/
def busRead (a : Nat) (s : State) : Option Word × State :=
  if !mapped s a then (none, s)
  else if rcMarked a then
    let (bad, s) := markedBad a s
    if bad then (none, s)
    else
      let (w, s) := markedRead a s
      (some w, s)
  else if minverPage a then
    let (f, s) := takeFree s
    (some (wd f), s)
  else if isMem a then
    let (bad, s) := eccRead a 4 s
    (if bad then none else some (wd (memNat s a 4)), s)
  else if isRtd a then
    let (bad, s) := eccRead a 4 s
    (if bad then none else some (regRead s a), s)
  else (some (regRead s a), s)

/-! ### Writes -/

/-- A plain register write (R12, R37): RW fields take the value, W1C bits written 1 are cleared, the rest stays. -/
def plainWrite (a : Nat) (v : Word) (s : State) : State :=
  match regRow a with
  | some (r, _) => setReg s a ((getReg s a &&& ~~~ wd r.rw &&& ~~~ (v &&& wd r.w1c)) ||| (v &&& wd r.rw))
  | none => s

/-- The written word with the disabled lanes filled from the stored RW bits; W1C bits and actions of those lanes see 0. -/
def laneMerge (s : State) (a : Nat) (v : Word) (be : BitVec 4) : Word :=
  match regRow a with
  | some (r, _) => mergeBytes (regRead s a &&& wd r.rw) v be
  | none => mergeBytes 0 v be

/-- Node control, events and gates. -/
def nodeWrite (o : Nat) (v : Word) (s : State) : State :=
  if o = 0x08 then rstCmdWrite v s
  else if o = 0x0C then faultCmdWrite v s
  else if o = 0x14 then sleepCmdWrite v s
  else if o = 0x20 then wakeOutWrite v s
  else if o = 0x30 ∨ o = 0x38 then wdogCtlWrite ((o - 0x30) / 8) v s
  else if o = 0x34 ∨ o = 0x3C then wdogKickWrite ((o - 0x34) / 8) v s
  else if o = 0x105C then sweSetWrite v s
  else if nodeRefused o v then nodeCfgErr s
  else if 0x1100 ≤ o ∧ o < 0x1300 ∧ bits v 27 16 = 0xFFF then setBit s (aNode 0x1070) 0
  else if 0x4000 ≤ o ∧ o < 0x5000 ∧ gateKind s ((o - 0x4000) / 8) = 3 then s
  else plainWrite (aNode o) v s

/-- The time unit and the Shutter (R36, R382). -/
def timeWrite (o : Nat) (v : Word) (s : State) : State :=
  if o = 0x00 then timeCtlWrite v s
  else if o = 0x20 then setCmdWrite v s
  else if o = 0x34 then timeRateWrite v s
  else if o = 0x54 then leapCtlWrite v s
  else if o = 0x100 then shutCtlWrite v s
  else if timeRefused o v then timeCfgErr s
  else plainWrite (aTime o) v s

/-- The host bridge and the mailboxes (R173, R585–R588). -/
def hbWrite (o : Nat) (v : Word) (s : State) : State :=
  if 0x800 ≤ o then
    let m := (o - 0x800) / 0x40
    let r := o % 0x40
    if r = 0 then
      (if fifoDepth (fIn m) ≤ (fifo s (fIn m)).words.length then setBit s (fifoStat (fIn m)) 2 else fifoAppend (fIn m) [v] none s)
    else if r = 0x08 then fifoCtlWrite (fIn m) v hbCfgErr s
    else if r = 0x10 then fifoCtlWrite (fOut m) v hbCfgErr s
    else plainWrite (aHb o) v s
  else if 0x100 ≤ o ∧ o < 0x180 ∧ o % 0x10 = 0x0C then hwinAttrWrite ((o - 0x100) / 0x10) v s
  else if ((o = 0x04 ∨ o = 0x08) ∧ bits v 15 0 = 0) ∨ (o = 0x0C ∧ (bits v 9 0 < 50 ∨ 1000 < bits v 9 0)) ∨
      (o = 0x10 ∧ bits v 15 0 < 100) then hbCfgErr s
  else plainWrite (aHb o) v s

/-- The ring unit (R514–R521, R544–R550). -/
def ringWrite (o : Nat) (v : Word) (s : State) : State :=
  if o = 0x00 then ringCtlWrite v s
  else if o = 0x20 then modCmdWrite v s
  else if 0x100 ≤ o ∧ o < 0x200 ∧ o % 0x40 = 0 then linkCtlWrite ((o - 0x100) / 0x40) v s
  else if o = 0x418 then admCtlWrite v s
  else if o = 0x440 then admCmdWrite v s
  else if ringRefused s o v then ringCfgErr s
  else plainWrite (aRing o) v s

/-- The outcome of a meaning that always answers a next state. -/
def nextOf (s : State) : Host.Outcome State Fault Refusal → State
  | .next t => t
  | _ => s

/-- A CAN transmit buffer (R604, R624). -/
def txbWrite (k b r : Nat) (v : Word) (s : State) : State :=
  if r < 0x50 then (if txbState s k b = 0 then plainWrite (aTxb k b r) v s else canCfgErr k s)
  else if r = 0x7C then
    if bit v 31 ∧ bit v 30 then canCfgErr k s
    else if bit v 31 then nextOf s (execCanTxRequest k b v s)
    else if bit v 30 then nextOf s (execCanTxAbort k b v s)
    else plainWrite (aTxb k b r) v s
  else s

/-- A write of FILT.ACT that R624 or R36 refuses. -/
def filtRefused (v : Word) : Bool :=
  let tk := bits v 19 18
  decide (tk = 3) || decide (bits v 11 0 = 0xFFF) || (decide (tk = 0) && decide (1 < bits v 15 12)) ||
  (decide (tk = 2) && decide (3 < bits v 15 12))

/-- The CAN controllers (R592, R593, R603, R620–R624). Whether a frame is being received when CTL is written is open. -/
def canWrite (k o : Nat) (v : Word) (s : State) : State :=
  if o = 0x00 then
    let (f, s) := takeFree s
    canCtlWrite k v (decide (f % 2 = 1)) s
  else if o = 0x0C then if canState s k ≠ 0 ∨ nbtRefused v then canCfgErr k s else plainWrite (aCan k o) v s
  else if o = 0x10 then if canState s k ≠ 0 ∨ dbtRefused v then canCfgErr k s else plainWrite (aCan k o) v s
  else if o = 0x1C then if bits v 31 16 = 0 ∨ bits v 7 0 = 0 then canCfgErr k s else plainWrite (aCan k o) v s
  else if o = 0x28 then if bits v 5 0 < fld s (aCan k 0x20) 5 0 then canCfgErr k s else plainWrite (aCan k o) v s
  else if o = 0x54 then canRxCtlWrite k v s
  else if 0x400 ≤ o ∧ o < 0x800 ∧ o % 0x10 = 8 ∧ filtRefused v then canCfgErr k s
  else if 0x1000 ≤ o then txbWrite k ((o - 0x1000) / 0x80) (o % 0x80) v s
  else plainWrite (aCan k o) v s

/-- The update unit's registers (R697, R712). Whether the flash completes a command is open. -/
def updWrite (src : Nat × Nat) (o : Nat) (v : Word) (s : State) : State :=
  if o = 0x00 then
    let (f, s) := takeFree s
    updCmdWrite src v (decide (f % 2 = 1)) s
  else if updRefused o v then updCfgErr s
  else plainWrite (aUpd o) v s

/-- The availability unit (R724, R732, R738, R740). -/
def avWrite (o : Nat) (v : Word) (s : State) : State :=
  if o = 0x44 then rotCmdWrite v s
  else if o = 0x60 then sliceCmdWrite v s
  else if o = 0xC4 then logCmdWrite v s
  else if avRefused o v then avCfgErr s
  else plainWrite (aAv o) v s

/-- A value of a port record's register that is refused (R36, R78–R90, R179, R191, R246, R335–R337). -/
def portRefused (s : State) (n o : Nat) (v : Word) : Bool :=
  let rawing := decide (fld s (aPort n 0x00) 1 0 = 2) || decide (fld s (aPort n 0x00) 1 0 = 3)
  let caps := (List.range 4).any (fun c => decide (bits v (8 * c + 7) (8 * c) = 1) || decide (bits v (8 * c + 7) (8 * c) = 2))
  if o = 0x04 then
    decide (bits v 27 8 < (if n < 256 then 16 else if flag s (aLine (n - 256) 0x00) 9 then 1736 else 200))
  else if o = 0x08 then decide (bits v 3 0 < 5) || decide (9 < bits v 3 0) || decide (4 < bits v 6 4) || decide (2 < bits v 9 8)
  else if o = 0x0C then decide (256 ≤ n) && bit v 5
  else if o = 0x24 then decide (bits v 15 0 = 0)
  else if o = 0x40 then
    decide (bits v 7 0 < 11) || decide (192 < bits v 7 0) || decide (160 < bits v 15 8) || decide (bits v 17 16 = 3)
  else if o = 0x60 then decide (bits v 11 0 < 3) || bit v 14
  else if o = 0x64 ∨ o = 0x68 then caps
  else if o = 0x6C then decide (bits v 7 0 = 0) || decide (bits v 15 8 = 0)
  else if o = 0x80 then
    decide (8 < bits v 3 0) || (rawing && decide (bits v 6 4 ≠ fld s (aPort n 0x80) 6 4))
  else if o = 0x84 then rawing
  else if o = 0x98 then decide (bits v 27 16 = 0xFFF) || decide (271 < bits v 8 0)
  else false

/-- A port record (R78–R90, R117, R118, R132, R178, R245, R334). -/
def portWrite (n o : Nat) (v : Word) (s : State) : State :=
  if o = 0x00 then nextOf s (execPortModeWrite n v s)
  else if o = 0x20 then nextOf s (execSwapRequest n v s)
  else if o = 0x28 then measWrite n v s
  else if portRefused s n o v then portFlag n 18 s
  else
    let old := fld s (aPort n 0x6C) 7 0
    let s := plainWrite (aPort n o) v s
    if o = 0x04 ∨ o = 0x08 then ratePend n s else if o = 0x6C then cutRescan n old s else s

/-- A line tile (R196, R203, R220–R225): SLOW is refused while a rate below its limit is in force or pending, and a write of LINE[p].CTL
resets the count of reversal candidates (R217). DESIGN CHOICE: a refused write does not reset the count, and BIAS written 0 leaves
RXOPEN_LIVE as it is until a sample outside the band (R211; log entry 79). -/
def tileWrite (k o : Nat) (v : Word) (s : State) : State :=
  if o = 0x00 then nextOf s (execTilePwrEn k v s)
  else
    let n := 256 + 4 * k + (o - 0x100) / 0x40
    if 0x100 ≤ o ∧ o < 0x200 ∧ o % 0x40 = 0 ∧ bit v 9 ∧ (fld s (aPort n 0x04) 27 8 < 1736 ∨ bits (slice s n).rxBaud 27 8 < 1736 ∨
        bits (slice s n).txBaud 27 8 < 1736) then tileFlag k 8 s
    else if 0x100 ≤ o ∧ o < 0x200 ∧ o % 0x40 = 0x0C ∧ (bits v 23 16 = 0 ∨ 15000 < bits v 13 0) then tileFlag k 8 s
    else
      let s := plainWrite (aTile k o) v s
      if 0x100 ≤ o ∧ o < 0x200 ∧ o % 0x40 = 0 then setLine s (n - 256) { line s (n - 256) with cand := 0 } else s

/-- The switch (R265–R268, R303–R305, R342). POOL_MIN takes POOL_FREE in the clock after a write of a greater value (R268). -/
def swWrite (o : Nat) (v : Word) (s : State) : State :=
  if o = 0x04 then if 32768 < bits v 31 16 ∨ 32768 < bits v 15 0 then swCfgErr s else plainWrite (aSw o) v s
  else if o = 0x08 then nextOf s (execPoolRsvWrite v s)
  else if o = 0x14 then setReg s (aSw 0x14) (wd (min (bits v 15 0) (poolFree s)))
  else if o = 0x200 then tblCtlWrite v s
  else if o = 0x204 then stgCmdWrite v s
  else if o = 0x280 then if bits v 15 0 < 200 then swCfgErr s else plainWrite (aSw o) v s
  else plainWrite (aSw o) v s

/-- A word of the table windows (R279, R285, R286, R289, R295). -/
def tblWrite (a : Nat) (v : Word) (be : BitVec 4) (s : State) : State :=
  let (tbl, o) := tblPos a
  let bank := winBank s
  let i := o / tblEntry tbl
  let w := o % tblEntry tbl / 4
  let v := mergeBytes (tblWord s bank tbl o) v be
  let hits := decide (tblHits tbl = some (4 * w))
  if imageRefused s tbl i (listSet (tblImage s bank tbl i) w v) then swCfgErr s
  else if bank = s.tables.active then (if hits then tblPut s bank tbl o v else swCfgErr s)
  else if s.tables.busy then swCfgErr s
  else tblPut s bank tbl o (if hits then v else v &&& imageMask tbl w)

/-- The bytes of a memory word that a write enables. -/
def memLanes (a : Nat) (v : Word) (be : BitVec 4) (s : State) : State :=
  (List.range 4).foldl (fun s i => if be.getLsbD i then memPut s (a + i) ((wordBytes v).getD i 0) else s) s

/-- A write of UPD.BUF (R698, R699): an ignored one sets CFG_ERR (R713). -/
def updBufWrite (src : Nat × Nat) (a : Nat) (v : Word) (be : BitVec 4) (s : State) : State :=
  if s.power.bootMode = 2 ∧ ownTag s src then updCfgErr s
  else if ownedByOther s src then updCfgErr s
  else memLanes a v be s

/-- The logical engine of a word of the engine memories, and whether the word is instruction memory. -/
def memEng (a : Nat) : Nat := (a - 0x00400000) / 0x20000
def isImem (a : Nat) : Bool := decide (0x00400000 ≤ a) && decide (a < 0x00600000) && decide ((a - 0x00400000) % 0x20000 < 0x10000)

/-- A write of the register at a mapped word; `v` has its lanes merged. -/
def regWrite (src : Nat × Nat) (a : Nat) (v : Word) (s : State) : State :=
  if a < 0x00010000 then s
  else if a < 0x00020000 then nodeWrite (a - 0x00010000) v s
  else if a < 0x00021000 then timeWrite (a - 0x00020000) v s
  else if a < 0x00030000 then (dlWrite (a - 0x00021000) v s).getD (plainWrite a v s)
  else if a < 0x00040000 then hbWrite (a - 0x00030000) v s
  else if a < 0x00050000 then ringWrite (a - 0x00040000) v s
  else if a < 0x00060000 then canWrite ((a - 0x00050000) / 0x8000) (a % 0x8000) v s
  else if a < 0x00070000 then updWrite src (a - 0x00060000) v s
  else if a < 0x00080000 then avWrite (a - 0x00070000) v s
  else if a < 0x00120000 then portWrite ((a - 0x00100000) / 0x100) (a % 0x100) v s
  else if a < 0x00200000 then tileWrite ((a - 0x00120000) / 0x1000) (a % 0x1000) v s
  else if a < 0x00210000 then swWrite (a - 0x00200000) v s
  else if a < 0x00601000 then
    let l := (a - 0x00600000) / 0x100
    (engWrite l (a % 0x100) v s).getD (plainWrite a v s)
  else
    let l := (a - 0x00601000) / 0x20
    if a % 0x20 = 4 then fifoCtlWrite (fEmq l) v (engCfgErr l) s else plainWrite a v s

/-- A write of the enabled bytes of one aligned word by the initiator with source tag `src` (node, local source ID): none is the error
response (R38, R404). -/
def busWrite (src : Nat × Nat) (a : Nat) (v : Word) (be : BitVec 4) (s : State) : Option State :=
  if !mapped s a then none
  else if isImem a && !flagged (engStatWord s (memEng a)) then none
  else if be = 0 ∨ 0x02000000 ≤ a then some s
  else if decide (0x00061000 ≤ a) && decide (a < 0x00062000) then some (updBufWrite src a v be s)
  else if isMem a then some (memLanes a v be s)
  else if isTbl a then some (tblWrite a v be s)
  else some (regWrite src a (laneMerge s a v be) (if isRtd a then eccClean a 4 s else s))
where
  /-- ENG[L].STAT.HELD. -/
  flagged (w : Word) : Bool := bit w 0

/-- REGISTER_WRITE: a host write of one word of the own node to a register or table entry without a row of its own (R12, R36, R37); an
unmapped word changes nothing. -/
def execRegisterWrite (a : Nat) (v : Word) (be : BitVec 4) (s : State) : Host.Outcome State Fault Refusal :=
  if ¬ awake s ∨ s.power.vhb = 0 then .next s else .next ((busWrite (s.nodeId, 288) (a / 4 * 4) v be s).getD s)

/-- FIFO_FLUSH: a write of a FIFO's CTL with FLUSH = 1 (R163, R168). -/
def execFifoFlush (f : FifoId) (v : Word) (s : State) : Host.Outcome State Fault Refusal :=
  if ¬ awake s then .next s
  else
    let v := v ||| 0x80000000
    match f with
    | .hmbIn m => if m < 4 then .next (fifoCtlWrite (fIn m) v hbCfgErr s) else .next s
    | .hmbOut m => if m < 4 then .next (fifoCtlWrite (fOut m) v hbCfgErr s) else .next s
    | .emq l => if l < 16 then .next (fifoCtlWrite (fEmq l) v (engCfgErr l) s) else .next s
    | .canRx k => if k < 2 then .next (canRxCtlWrite k v s) else .next s
    | .shut => .next (shutCtlWrite v s)

end Sys2Proof.Machine
end

