-- ==== Sys2Proof/Machine/HostBus.lean ====
section
/-!
DEFINITION. Accesses of the host bus (R552–R574): own-node accesses, remote reads by retry, posted and non-posted remote writes, and
reads of HB.FENCE. An access is one command; `fab.bus` holds what the bridge drives phase by phase.
-/
namespace Sys2Proof.Machine

/-- An access as its address phase and data phases give it (R552, R553): the word address, LEN, and the phases. A phase that is not
given is one with every lane enabled and a right HBLAST_N. -/
structure Access where
  a : Nat
  len : Nat
  phs : List HostPhase
  deriving DecidableEq, Repr

/-- The access of a command's operands: LEN − 1 as HBE_N carries it. -/
def accessOf (a : Word) (len1 : BitVec 4) (phs : List HostPhase) : Access := { a := a.toNat / 4 * 4, len := len1.toNat + 1, phs := phs }

/-- Data phase i. -/
def phaseOf (x : Access) (i : Nat) : HostPhase := x.phs.getD i { last := decide (i + 1 = x.len) }

/-- HBLAST_N disagrees with LEN in phase i (R556). -/
def blastBad (x : Access) (i : Nat) : Bool := (phaseOf x i).last != decide (i + 1 = x.len)

/-- Where a host address leads (R557, R558). -/
inductive WordAt where
  | nowhere
  | own (off : Nat)
  | remote (w fab : Nat)
  deriving DecidableEq, Repr

/-- The word at a host address. -/
def wordAt (s : State) (a : Nat) : WordAt :=
  match hostWin s a with
  | none => .nowhere
  | some (w, fab) => if fab / 2 ^ 36 = 0 ∨ fab / 2 ^ 36 = s.nodeId then .own (fab % 2 ^ 36) else .remote w fab

/-- Drive the answers of an access. -/
def setBus (r : List BusAns) (s : State) : State := setFab s (fun f => { f with bus := r })

/-- The kinds of access (R557–R574). -/
inductive HostKind where
  | dead | asleep | fault | own | first | again | posted | nonposted
  deriving DecidableEq, Repr

/-- The tags of the read that an attempt matches (R564): that of piece 0, and that of piece 1. -/
def matchTags (s : State) (x : Access) : Option (Nat × Option Nat) :=
  let live := fun (t : Nat) => match tagGet s t with
    | some g => if g.life ≠ TagLife.held ∧ g.host = x.a ∧ g.len = x.len ∧ g.be = (phaseOf x 0).be then some g else none
    | none => none
  ((s.fab.tags.map (·.1)).filterMap (fun t => match live t with
    | some g =>
      if g.piece ≠ 0 then none
      else match g.mate with
        | none => some (t, none)
        | some m => match live m with
          | some h => if h.mate = some t then some (t, some m) else none
          | none => none
    | none => none)).head?

/-- The kind of an access; nothing begins while the bus waits for a non-posted write (R555, R574). -/
def hostKind (s : State) (x : Access) (wr : Bool) : HostKind :=
  if s.power.phase = .off ∨ s.power.vhb = 0 ∨ s.fab.np.isSome then .dead
  else if s.power.phase = .stabled then .asleep
  else
    match wordAt s x.a with
    | .nowhere => .fault
    | .own _ => .own
    | .remote w _ =>
      if wr then (if flag s (aWin w 0x0C) 8 then .nonposted else .posted)
      else if (matchTags s x).isSome then .again else .first

/-- The meaning of a row of host accesses: it acts on accesses of its kind; in Stabled every access is answered with HRTY_N, and one in
no window with HERR_N (R557, R558). `full` says that gate 90 has no room when the first data phase is decided: the answer is HRTY_N, and
nothing is performed (R143, R554, R558). -/
def hostRow (want : HostKind) (x : Access) (wr full : Bool) (act : State → State) (s : State) : Host.Outcome State Fault Refusal :=
  match hostKind s x wr with
  | .dead => .next s
  | .asleep => .next (setBus [.retry] s)
  | .fault => .next (setBus [.error] (winFault x.a s))
  | k => if k = want then .next (if full then setBus [.retry] s else act s) else .next s

/-! ### Own-node reads (R556, R558, R559, R573) -/

/-- The words of an own-node read from phase i on. -/
def ownRead (x : Access) : Nat → Nat → List BusAns → State → State
  | 0, _, acc, s => setBus acc s
  | k + 1, i, acc, s =>
    let a := x.a + 4 * i
    if blastBad x i || decide (2 ^ 32 ≤ a) then setBus (acc ++ [.error]) s
    else
      match wordAt s a with
      | .nowhere => setBus (acc ++ [.error]) (winFault a s)
      | .remote _ _ => setBus (acc ++ [.error]) s
      | .own off =>
        match busRead off s with
        | (none, s) => setBus (acc ++ [.error]) s
        | (some v, s) => ownRead x k (i + 1) (acc ++ [.ready v]) s

/-- An own-node read covers HB.FENCE. -/
def coversFence (s : State) (x : Access) : Bool := (List.range x.len).any (fun i => decide (wordAt s (x.a + 4 * i) = .own 0x00030014))

/-- The fence read that ends is no longer open. -/
def fenceShut (s : State) : State := setFab s (fun f => { f with fenceOpen := false })

/-- An own-node read; one that covers HB.FENCE waits for the posted writes before it (R573). -/
def ownReadAll (x : Access) (s : State) : State :=
  if coversFence s x then
    let s := fenceMark s
    if fenceClear s then ownRead x x.len 0 [] (fenceShut s) else setBus [.retry] s
  else ownRead x x.len 0 [] s

/-! ### Writes (R556, R558, R561, R569, R570, R574) -/

/-- A byte of a remote write: its window, fabric address and value. -/
structure WByte where
  win : Nat
  addr : Nat
  data : Byte
  deriving DecidableEq, Repr

/-- Cut bytes into fabric requests (R570). -/
def cutRuns : List WByte → List (List WByte)
  | [] => []
  | b :: r =>
    match cutRuns r with
    | (c :: cs) :: rest =>
      if c.win = b.win ∧ c.addr = b.addr + 1 ∧ c.addr % 256 ≠ 0 then (b :: c :: cs) :: rest else [b] :: (c :: cs) :: rest
    | rest => [b] :: rest

/-- The enabled bytes of a phase. -/
def phaseBytes (w fab : Nat) (p : HostPhase) : List WByte :=
  ((List.range 4).filter (fun k => p.be.getLsbD k)).map (fun k => { win := w, addr := fab + k, data := (wordBytes p.data).getD k 0 })

/-- The words of a write from phase i on: own words are written, remote ones collected; the flag says that every word was taken. -/
def writeWords (x : Access) : Nat → Nat → List BusAns → List WByte → State → Bool × List BusAns × List WByte × State
  | 0, _, acc, bs, s => (true, acc, bs, s)
  | k + 1, i, acc, bs, s =>
    let a := x.a + 4 * i
    let p := phaseOf x i
    if 2 ^ 32 ≤ a then (false, acc ++ [.error], bs, s)
    else
      match wordAt s a with
      | .nowhere => (false, acc ++ [.error], bs, winFault a s)
      | .own off =>
        match busWrite (s.nodeId, 288) off p.data p.be s with
        | none => (false, acc ++ [.error], bs, s)
        | some s => writeWords x k (i + 1) (acc ++ [.ready 0]) bs s
      | .remote w fab =>
        let bcast := decide (fab / 2 ^ 36 = 0xFFF)
        if flag s (aWin w 0x0C) 8 && (bcast || !originates s) then
          (false, acc ++ [.error], bs, hostFail fab w (if bcast then 8 else 9) s)
        else
          let s := if p.be = 0 then s else heldCover fab s
          let s := if bcast then (busWrite (s.nodeId, 288) (fab % 2 ^ 36) p.data p.be s).getD s else s
          writeWords x k (i + 1) (acc ++ [.ready 0]) (bs ++ phaseBytes w fab p) s

/-- The transaction of a run of bytes. -/
def runTrans (s : State) (o : TrOwner) (r : List WByte) : Trans :=
  match r with
  | [] => { owner := o, node := 0, typ := 5, addr := 0, blen := 0 }
  | b :: _ =>
    { owner := o, node := b.addr / 2 ^ 36, typ := if isSlot o then 4 else 5, addr := b.addr % 2 ^ 36, blen := r.length,
      data := r.map (·.data), ord := flag s (aWin b.win 0x0C) 13, src := b.win }

/-- A window's writes are non-posted (R588). -/
def winNonposted (s : State) (r : List WByte) : Bool :=
  match r with
  | b :: _ => flag s (aWin b.win 0x0C) 8
  | [] => false

/-- Send the requests of a write: posted runs take slots in order, or fail in HALTER (R561); `bus` says that the last phase waits for the
non-posted ones. -/
def writeRuns (runs : List (List WByte)) (bus : Bool) (s : State) : State :=
  let np := runs.filter (winNonposted s)
  let post := runs.filter (fun r => !winNonposted s r)
  if !originates s then post.foldl (fun s r => match r with
    | b :: _ => postFail b.addr b.win 9 s
    | [] => s) s
  else
    let ts := (np.zip (List.range np.length)).map (fun e => runTrans s (.np e.2 bus) e.1) ++
      (post.zip (slotsFree s)).map (fun e => runTrans s (.slot e.2) e.1)
    addTrans ts s

/-- The first phase whose HBLAST_N disagrees with LEN (R556). -/
def blastPhase (x : Access) : Option Nat := (List.range x.len).find? (blastBad x)

/-- The end of a write whose words have been taken as far as it went: its remote bytes are cut and sent. -/
def writeEnd (x : Access) (r : Bool × List BusAns × List WByte × State) : State :=
  let (all, acc, bs, s) := r
  let runs := cutRuns bs
  let np := (runs.filter (winNonposted s)).length
  if all ∧ np ≠ 0 then
    let w := match bs with
      | b :: _ => (b.win, b.addr)
      | [] => (0, 0)
    writeRuns runs true (setFab (setBus (acc.take (x.len - 1) ++ [.wait]) s) (fun f =>
      { f with np := some { open_ := np, win := w.1, addr := w.2 } }))
  else writeRuns runs false (setBus acc s)

/-- Some word of the access goes through a posted window to another node while slots are short (R569). -/
def slotsShort (s : State) (x : Access) : Bool :=
  originates s && decide ((slotsFree s).length < 2 * x.len) &&
  (List.range x.len).any (fun i => match wordAt s (x.a + 4 * i) with
    | .remote w _ => !flag s (aWin w 0x0C) 8
    | _ => false)

/-- A write of any kind. One whose HBLAST_N disagrees in phase i writes no word (R556), unless a word before phase i has ended the access
already. -/
def hostWrite (x : Access) (s : State) : State :=
  if blastBad x 0 then setBus [.error] s
  else if slotsShort s x then setBus [.retry] s
  else
    match blastPhase x with
    | some i =>
      let r := writeWords x i 0 [] [] s
      if r.1 then setBus (List.replicate i (.ready 0) ++ [.error]) s else writeEnd x r
    | none => writeEnd x (writeWords x x.len 0 [] [] s)

/-- HOST_OWN_ACCESS: an access of the own node (R558). -/
def execHostOwnAccess (a : Word) (len1 : BitVec 4) (wr : Bool) (phs : List HostPhase) (s : State) (full : Bool := false) :
    Host.Outcome State Fault Refusal :=
  let x := accessOf a len1 phs
  hostRow .own x wr full (fun s => if wr then hostWrite x s else ownReadAll x s) s

/-- HOST_POSTED_WRITE (R569, R570). -/
def execHostPostedWrite (a : Word) (len1 : BitVec 4) (phs : List HostPhase) (s : State) (full : Bool := false) :
    Host.Outcome State Fault Refusal :=
  let x := accessOf a len1 phs
  hostRow .posted x true full (hostWrite x) s

/-- HOST_NONPOSTED_WRITE (R574). -/
def execHostNonpostedWrite (a : Word) (len1 : BitVec 4) (phs : List HostPhase) (s : State) (full : Bool := false) :
    Host.Outcome State Fault Refusal :=
  let x := accessOf a len1 phs
  hostRow .nonposted x true full (hostWrite x) s

/-- HB_FENCE_READ: an attempt of the host to read HB.FENCE of the own node (R573); `full` is as in hostRow. -/
def execHbFenceRead (s : State) (full : Bool := false) : Host.Outcome State Fault Refusal :=
  if s.power.phase = .off ∨ s.power.vhb = 0 ∨ s.fab.np.isSome then .next s
  else if s.power.phase = .stabled ∨ full then .next (setBus [.retry] s)
  else
    let s := fenceMark s
    if fenceClear s then
      let (w, s) := fenceRead s
      .next (setBus [.ready w] (fenceShut s))
    else .next (setBus [.retry] s)

/-! ### Remote reads (R561–R568) -/

/-- The words of piece 0 of a read (R563). -/
def pieceWords (x : Access) : Nat := min x.len ((256 - x.a % 256) / 4)

/-- The read-ahead bytes of the last piece of a read through window w that ends before fabric address `e` (R566). -/
def aheadOf (s : State) (w e : Nat) : Nat :=
  if flag s (aWin w 0x0C) 9 ∧ e % 256 ≠ 0 then min (64 * 2 ^ fld s (aWin w 0x0C) 11 10) (256 - e % 256) else 0

/-- The tag of a piece of n words. -/
def newTag (s : State) (x : Access) (piece w fab n : Nat) (mate : Option Nat) (last : Bool) : Tag :=
  { host := x.a, len := x.len, be := (phaseOf x 0).be, piece := piece, mate := mate, win := w, fab := fab, bytes := 4 * n,
    ahead := if last then aheadOf s w (fab + 4 * n) else 0,
    se := !flag s (aWin w 0x0C) 9 && !flag s (aWin w 0x0C) 12 }

/-- The request of a tag (R565, R566). -/
def tagTrans (s : State) (t : Nat) (g : Tag) : Trans :=
  { owner := .tag t g.piece, node := g.fab / 2 ^ 36, typ := 2, addr := g.fab % 2 ^ 36, blen := g.bytes + g.ahead, spec := !g.se,
    ord := flag s (aWin g.win 0x0C) 13, src := g.win }

/-- The word of read-ahead data at a fabric address held for window w: its tag and the word. -/
def heldWord (s : State) (w fab : Nat) : Option (Nat × Word) :=
  (s.fab.tags.filterMap (fun e => match e.2 with
    | some g => if g.life = .held ∧ g.win = w ∧ g.held.contains fab then
        some (e.1, wd (ofBytesLE ((g.data.drop (fab - g.fab)).take 4))) else none
    | none => none)).head?

/-- Every word of a read lies in read-ahead bytes held for its one window (R566): the words. -/
def heldAll (s : State) (x : Access) (w : Nat) : Option (List (Nat × Nat × Word)) :=
  (List.range x.len).foldr (fun i acc =>
    match acc, wordAt s (x.a + 4 * i) with
    | some r, .remote w' fab => if w' = w then (heldWord s w fab).map (fun e => (e.1, fab, e.2) :: r) else none
    | _, _ => none) (some [])

/-- A held word has been delivered: a tag without held bytes becomes FREE. -/
def heldTake (t fab : Nat) (s : State) : State :=
  match tagGet s t with
  | some g =>
    let h := g.held.filter (fun b => decide (b ≠ fab))
    setTag t (if h.isEmpty then none else some { g with held := h }) s
  | none => s

/-- Deliver words, phase by phase, up to a phase whose HBLAST_N disagrees (R556). -/
def deliverWords (x : Access) (ws : List BusAns) : List BusAns :=
  match (List.range ws.length).find? (blastBad x) with
  | some i => ws.take i ++ [.error]
  | none => ws

/-- Allocate the tags of a read and launch its requests (R562, R563). -/
def readLaunch (x : Access) (w fab : Nat) (s : State) : State :=
  let n0 := pieceWords x
  let a1 := x.a + 4 * n0
  let free := ((List.range 63).map (· + 1)).filter (fun t => (tagGet s t).isNone)
  let second := if n0 = x.len then .nowhere else wordAt s a1
  match second with
  | .remote w1 fab1 =>
    if fab1 / 2 ^ 36 = 0xFFF then
      match free with
      | t :: _ =>
        let g := newTag s x 0 w fab n0 none true
        addTrans [tagTrans s t g] (setTag t (some g) (hostFail fab1 w1 8 s))
      | [] => errInc s (aHb 0x30)
    else
      match free with
      | t :: u :: _ =>
        let g := newTag s x 0 w fab n0 (some u) false
        let h := newTag s x 1 w1 fab1 (x.len - n0) (some t) true
        addTrans [tagTrans s t g, tagTrans s u h] (setTag u (some h) (setTag t (some g) s))
      | _ => errInc s (aHb 0x30)
  | at1 =>
    match free with
    | t :: _ =>
      let g := newTag s x 0 w fab n0 none true
      let s := if n0 < x.len ∧ at1 = .nowhere ∧ a1 < 2 ^ 32 then winFault a1 s else s
      addTrans [tagTrans s t g] (setTag t (some g) s)
    | [] => errInc s (aHb 0x30)

/-- A read at fabric address `fab` through window w ends with HERR_N: a read of node FFFh with cause BCAST, one made in HALTER with cause
HALTER (R51, R561). -/
def readRefused (w fab : Nat) (s : State) : Option State :=
  if fab / 2 ^ 36 = 0xFFF then some (setBus [.error] (hostFail fab w 8 s))
  else if !originates s then some (setBus [.error] (hostFail fab w 9 s))
  else none

/-- A first attempt of a remote read. The words delivered from HELD bytes are held no longer; those behind a wrong HBLAST_N stay (R566). -/
def readFirst (x : Access) (s : State) : State :=
  match wordAt s x.a with
  | .remote w fab =>
    if blastBad x 0 then setBus [.error] s
    else
      match readRefused w fab s, heldAll s x w with
      | some t, _ => t
      | none, some ws =>
        let ws := ws.take ((blastPhase x).getD x.len)
        setBus (ws.map (fun e => .ready e.2.2) ++ (if (blastPhase x).isSome then [.error] else []))
          (ws.foldl (fun s e => heldTake e.1 e.2.1 s) s)
      | none, none => setBus [.retry] (readLaunch x w fab s)
  | _ => s

/-- HOST_READ_FIRST (R561, R562, R566). -/
def execHostReadFirst (a : Word) (len1 : BitVec 4) (phs : List HostPhase) (s : State) (full : Bool := false) :
    Host.Outcome State Fault Refusal :=
  let x := accessOf a len1 phs
  hostRow .first x false full (readFirst x) s

/-- The words of a tag as answers: HERR_N for a failed piece. -/
def tagWords (g : Tag) : List BusAns :=
  if g.fail then [.error] else (List.range (g.bytes / 4)).map (fun i => .ready (wd (ofBytesLE ((g.data.drop (4 * i)).take 4))))

/-- A delivered tag becomes FREE, or HELD with its read-ahead (R564, R566). -/
def tagDelivered (t : Nat) (g : Tag) (s : State) : State :=
  if g.fail ∨ g.ahead = 0 then setTag t none s
  else setTag t (some { g with life := .held, held := (List.range (g.ahead / 4)).map (fun i => g.fab + g.bytes + 4 * i) }) s

/-- A matching attempt (R564): HRTY_N while a tag of the read is in FETCH, else the delivery. In HALTER it ends with HERR_N like every
remote read, and the tags stay (R561). -/
def readAgain (x : Access) (s : State) : State :=
  if blastBad x 0 then setBus [.error] s
  else
    match matchTags s x with
    | none => s
    | some (t, m) =>
      match tagGet s t, m.bind (tagGet s) with
      | some g, h =>
        match readRefused g.win g.fab s with
        | some t => t
        | none =>
        let fetching := decide (g.life = .fetch) || (match h with
          | some h => decide (h.life = .fetch)
          | none => false)
        if fetching then setBus [.retry] s
        else
          let ws := if g.fail then [.error] else tagWords g ++ (match h with
            | some h => tagWords h
            | none => if pieceWords x < x.len then [.error] else [])
          let s := tagDelivered t g s
          let s := match m, h with
            | some u, some h => tagDelivered u h s
            | _, _ => s
          setBus (deliverWords x ws) s
      | none, _ => s

/-- HOST_READ_RETRY (R564). -/
def execHostReadRetry (a : Word) (len1 : BitVec 4) (phs : List HostPhase) (s : State) (full : Bool := false) :
    Host.Outcome State Fault Refusal :=
  let x := accessOf a len1 phs
  hostRow .again x false full (readAgain x) s

end Sys2Proof.Machine
end

