-- ==== Sys2Proof/Machine/Target.lean ====
section
/-!
DEFINITION. Execution of fabric requests that other nodes send (R50, R52, R71, R580–R583): the target queue, the replay cache and its
history.
-/
namespace Sys2Proof.Machine

/-- A request frame: RDQ, WRP or WRN. -/
def isRequest (f : Frame) : Bool := decide (f.typ = 2) || decide (f.typ = 4) || decide (f.typ = 5)

/-- The node executes a request that reaches it (R50, R52, R580). -/
def executes (s : State) (f : Frame) : Bool := if f.dest = 0xFFF then decide (s.power.phase = .running) else executesFabric s

/-- FABRIC_REQUEST_TAKEN: the first request that has reached the switch enters the target queue, or is dropped when that is full
(R580). A node in HALTER drops it unanswered (R52). -/
def execFabricRequestTaken (s : State) : Host.Outcome State Fault Refusal :=
  if ¬ awake s then .next s
  else
    match arrivedTake isRequest s with
    | none => .next s
    | some (f, s) =>
      if !executes s f then .next s
      else if 32 ≤ s.fab.target.length then .next (errInc s (aHb 0x310))
      else .next (setFab s (fun x => { x with target := x.target ++ [f] }))

/-- The fields of a request (R498). -/
def rqAddr (f : Frame) : Nat := fieldLE f.payload 0 5 % 2 ^ 36
def rqLen (f : Frame) : Nat := fieldLE f.payload 6 2 % 512
def rqIloc (f : Frame) : Nat := fieldLE f.payload 12 2 % 512

/-- The key of a request (R582). -/
def rqKey (f : Frame) : ReplayKey := { node := f.src, iloc := rqIloc f, itag := fieldLE f.payload 8 2, tseq := fieldLE f.payload 10 2 }

/-- The aligned words that a run of bytes covers. -/
def wordsOf (a n : Nat) : List Nat := if n = 0 then [] else (List.range ((a + n - 1) / 4 + 1 - a / 4)).map (fun i => (a / 4 + i) * 4)

/-- Read aligned words: none when one ends with an error response. -/
def readWords : List Nat → State → Option (List Byte) × State
  | [], s => (some [], s)
  | a :: r, s =>
    match busRead a s with
    | (none, s) => (none, s)
    | (some w, s) =>
      match readWords r s with
      | (some bs, s) => (some (wordBytes w ++ bs), s)
      | (none, s) => (none, s)

/-- Read a run of bytes of node-local space; a run that covers an unmapped word reads nothing (R581). -/
def readRun (a n : Nat) (s : State) : Option (List Byte) × State :=
  if (wordsOf a n).all (mapped s) then
    match readWords (wordsOf a n) s with
    | (some bs, s) => (some ((bs.drop (a % 4)).take n), s)
    | (none, s) => (none, s)
  else (none, s)

/-- The word at `w` of a run of bytes at `a`, with its lanes. -/
def runWord (a : Nat) (data : List Byte) (w : Nat) : Word × BitVec 4 :=
  let on := (List.range 4).filter (fun k => decide (a ≤ w + k) && decide (w + k < a + data.length))
  (wd (on.foldl (fun v k => v + (data.getD (w + k - a) 0).toNat * 256 ^ k) 0), BitVec.ofNat 4 (on.foldl (fun v k => v + 2 ^ k) 0))

/-- A word of a run accepts writes (R38, R404). -/
def writable (s : State) (a : Nat) : Bool := mapped s a && !(isImem a && !bit (engStatWord s (memEng a)) 0)

/-- Write a run of bytes of node-local space: none, and nothing written, when a word ends with an error response (R581). -/
def writeRun (src : Nat × Nat) (a : Nat) (data : List Byte) (s : State) : Option State :=
  let ws := wordsOf a data.length
  if ws.all (writable s) then
    some (ws.foldl (fun s w => (busWrite src w (runWord a data w).1 (runWord a data w).2 s).getD s) s)
  else none

/-- The answer to a request: TYPE RDP or WRA, the STATUS, and the data of a read. -/
def answer (f : Frame) (status : Nat) (data : List Byte) : Frame :=
  { typ := if f.typ = 2 then 3 else 6, dest := f.src, src := 0,
    payload := txHdr (rqAddr f) (rqLen f) (fieldLE f.payload 8 2) (fieldLE f.payload 10 2) (rqIloc f) status ++ data }

/-- Send an answer, while the node still sends frames (R523). -/
def sendAnswer (f : Frame) (s : State) : State := if originates s then originate f s else s

/-- Execute a request (R581): its answer. A broadcast write gets none, so it counts no STATUS 1 (R571, R585). -/
def perform (f : Frame) (s : State) : Frame × State :=
  let s := trafInc s (aHb 0x300)
  let a := rqAddr f
  if f.typ = 2 then
    if f.spec && (wordsOf a (rqLen f)).any (fun w => rcMarked w || !mapped s w) then (answer f 2 [], trafInc s (aHb 0x308))
    else
      match readRun a (rqLen f) s with
      | (some bs, s) => (answer f 0 bs, s)
      | (none, s) => (answer f 1 [], errInc s (aHb 0x318))
  else
    match writeRun (f.src, rqIloc f) a (f.payload.drop 16) s with
    | some s => (answer f 0 [], s)
    | none => (answer f 1 [], if f.dest = 0xFFF then s else errInc s (aHb 0x318))

/-- The age of an entry in clocks. -/
def ageOf (s : State) (t : Nat) : Nat := s.now - t

/-- Move the oldest cache entry to the history (R582). -/
def evict (s : State) : State :=
  match s.fab.cache with
  | [] => s
  | (k, t, _) :: r =>
    let full := decide (1024 ≤ s.fab.history.length)
    let s := match s.fab.history with
      | (_, t') :: _ => if full && decide (ageOf s t' < 20 * msClocks) then errInc s (aHb 0x314) else s
      | [] => s
    setFab s (fun x => { x with cache := r, history := (if full then x.history.drop 1 else x.history) ++ [(k, t)] })

/-- Execute a request that enters the cache, and answer it. A node reset that the request starts empties the cache (R583). -/
def performCached (f : Frame) (s : State) : State :=
  let (r, s) := perform f s
  if s.power.phase = .booting ∨ s.power.phase = .off then s
  else sendAnswer r (setFab s (fun x => { x with cache := x.cache ++ [(rqKey f, s.now, r)] }))

/-- The procedure of R582; a broadcast write is not answered (R571). -/
def targetStep (f : Frame) (s : State) : State :=
  if f.dest = 0xFFF then (perform f s).2
  else
    match s.fab.cache.find? (fun e => decide (e.1 = rqKey f)) with
    | some (_, _, r) => sendAnswer r (trafInc s (aHb 0x304))
    | none =>
      if s.fab.history.any (fun e => decide (e.1 = rqKey f)) then sendAnswer (answer f 3 []) (errInc s (aHb 0x30C))
      else if f.typ = 4 then
        let (r, s) := perform f s
        sendAnswer r s
      else if s.fab.cache.length < 256 then performCached f s
      else if s.fab.cache.all (fun e => decide (ageOf s e.2.1 < 2 * msClocks)) then errInc s (aHb 0x310)
      else performCached f (evict s)

/-- TARGET_EXECUTE: the request at the head of the target queue (R582). -/
def execTargetExecute (s : State) : Host.Outcome State Fault Refusal :=
  if ¬ awake s then .next s
  else
    match s.fab.target with
    | [] => .next s
    | f :: r =>
      let s := setFab s (fun x => { x with target := r })
      if executes s f then .next (targetStep f s) else .next s

/-- REPLAY_HISTORY_EXPIRY: a key reaches 20 ms after its execution and is forgotten (R582). -/
def execReplayHistoryExpiry (node : BitVec 12) (iloc : BitVec 9) (itag tseq : BitVec 16) (s : State) : Host.Outcome State Fault Refusal :=
  let k : ReplayKey := { node := node.toNat, iloc := iloc.toNat, itag := itag.toNat, tseq := tseq.toNat }
  .next (if awake s then setFab s (fun x => { x with cache := x.cache.filter (fun e => decide (e.1 ≠ k)),
                                                     history := x.history.filter (fun e => decide (e.1 ≠ k)) }) else s)

end Sys2Proof.Machine
end

