-- ==== Sys2Proof/Machine/FzCore.lean ====
section
/-!
DEFINITION. Fletrazar: instruction words (R423–R426), their fetch, and the ways an instruction of a context ends (R403, R406, R423,
R446, R459, R576).
-/
namespace Sys2Proof.Machine

/-! ### Formats (R424, R456) -/

def encRR (op : BitVec 6) (gd ga gb : BitVec 4) (fn : BitVec 14) : Word := op ++ gd ++ ga ++ gb ++ fn
def encRI (op : BitVec 6) (gd ga : BitVec 4) (imm : BitVec 18) : Word := op ++ gd ++ ga ++ imm
def encLI (op : BitVec 6) (gd : BitVec 4) (imm : BitVec 22) : Word := op ++ gd ++ imm
def encBR (op : BitVec 6) (ga gb : BitVec 4) (off : BitVec 18) : Word := op ++ ga ++ gb ++ off
def encFX (op : BitVec 6) (gd ga : BitVec 4) (sel : BitVec 8) (func : BitVec 4) (arg : BitVec 6) : Word :=
  op ++ gd ++ ga ++ sel ++ func ++ arg

/-- A sys word (R444). -/
def encSys (gd ga gb : BitVec 4) (sub : BitVec 6) (code : BitVec 8) : Word := encRR 0x3F gd ga gb (sub ++ code)

/-! ### Fetch (R402, R404, R423) -/

/-- The memories of logical engine L: local address x below 2_0000h is node-local `aEngMem l + x` (R53, R402). -/
def aEngMem (l : Nat) : Nat := 0x00400000 + l * 0x20000

/-- The words that a fetch of the context may return: the one in instruction memory, and those that stores have replaced since its
last instruction fence (R404). -/
def fetchable (s : State) (l c : Nat) : List Word :=
  let v := ctx s l c
  wd (memNat s (aEngMem l + v.pc.toNat) 4) :: (v.stale.filter (fun e => decide (e.1 = v.pc.toNat))).map (·.2)

/-- Context c of L issues the word w: it is the running context, and w is a word at its pc. -/
def issues (l c : Nat) (w : Word) (s : State) : Bool :=
  engRuns s l && decide (c < 8) && decide ((ctx s l c).st = .run) && (fetchable s l c).contains w

/-- Fetch the word at pc: whether it is uncorrectable (R715), and the state with corrections made. -/
def fetch (l c : Nat) (s : State) : Bool × State := eccRead (aEngMem l + (ctx s l c).pc.toNat) 4 s

/-! ### How an instruction ends -/

/-- An instruction raises an exception (R406, R446): the context goes on at its vector. -/
def exc (l c code : Nat) (s : State) : State := takeExc l c code (ctx s l c).pc .run s

/-- ILLEGAL, MISALIGN, BUSERR, FIELD, DIVZERO (R406). -/
def xIllegal : Nat := 1
def xMisalign : Nat := 2
def xBuserr : Nat := 3
def xField : Nat := 4
def xDivzero : Nat := 5

/-- Issue the word w with the effect `f`. A context that does not issue it changes nothing; a fetch with an uncorrectable word raises
BUSERR (R715). -/
def issue (l c : Nat) (w : Word) (f : State → State) (s : State) : Host.Outcome State Fault Refusal :=
  if issues l c w s then .next (if (fetch l c s).1 then exc l c xBuserr (fetch l c s).2 else f (fetch l c s).2) else .next s

/-- A local instruction completes with its result, and the context goes on (R423). -/
def finish (l c : Nat) (r : BlkRes) (s : State) : State := applyRes l c r .run s

/-- A local instruction writes gd. -/
def wr (l c : Nat) (gd : BitVec 4) (w : Word) (s : State) : State := finish l c { regs := [(gd.toNat, w)] } s

/-- A response that raises an exception, and one that writes a register. -/
def resExc (code : Nat) : BlkRes := { exc := some code }
def resReg (gd : BitVec 4) (w : Word) : BlkRes := { regs := [(gd.toNat, w)] }

/-- The value of a register of the context. -/
def gv (s : State) (l c : Nat) (r : BitVec 4) : Word := gReg (ctx s l c) r.toNat

/-! ### The words that raise ILLEGAL (R426, R444, R456, R457) -/

/-- An even register g2–g14 (R457). -/
def isPair (r : BitVec 4) : Bool := decide (r.toNat % 2 = 0) && decide (r ≠ 0)

/-- The sys functions (R444, R482): the fields gd, ga, gb, CODE that a row does not name are zero. -/
def sysLegal (gd ga gb sub code : Nat) : Bool :=
  let z := fun (d a b k : Bool) => (d || decide (gd = 0)) && (a || decide (ga = 0)) && (b || decide (gb = 0)) && (k || decide (code = 0))
  if sub = 0 ∨ sub = 2 ∨ sub = 3 ∨ sub = 4 then z false false false false
  else if sub = 1 then z false false false true
  else if sub = 5 then z true false true false && decide (gb < 4)
  else if sub = 6 then z false true true false && decide (gb < 4)
  else if sub = 0x10 ∨ sub = 0x13 then z false true false false
  else if sub = 0x11 then z true false false false
  else if sub = 0x12 then z true true true false
  else if sub = 0x14 then z true true false false
  else false

/-- The FX rows (R456, R461–R481): FUNC, the unused bits of sel8 and ARG, the ranges of the constants, and the pairs. -/
def fxLegal (op gd ga sel func arg : Nat) : Bool :=
  let pd := decide (gd % 2 = 0) && decide (gd ≠ 0)
  let pa := decide (ga % 2 = 0) && decide (ga ≠ 0)
  let s0 := decide (sel = 0)
  let a0 := decide (arg = 0)
  if op = 0x18 then
    (if func = 0 ∨ func = 1 ∨ func = 4 then a0 else if func = 2 then s0 && a0
     else if func = 3 then (a0 && decide (sel ≠ 0xFF)) || (decide (arg = 1) && s0)
     else if func = 5 then a0 && decide (sel ≠ 0xFF) else false)
  else if op = 0x19 then
    (if func = 0 then decide (arg ≤ 9) else if func = 1 then a0 else if func = 2 then decide (sel ≤ 10) && decide (arg ≤ 9)
     else if func = 3 then decide (1 ≤ sel) && decide (sel ≤ 8) && a0 else false)
  else if op = 0x1A then (if func = 0 then decide (arg ≤ 1) else if func ≤ 3 then s0 && a0 else false)
  else if op = 0x1B then (if func = 0 ∨ func = 3 then s0 && a0 else if func ≤ 2 then s0 && decide (arg ≤ 3) else false)
  else if op = 0x1C then
    s0 && a0 && (if func = 0 then pd else if func = 1 then pd && pa else if func = 2 then pd else if func = 3 then pa else false)
  else if op = 0x1D then
    a0 && (if func = 0 then decide (1 ≤ sel) && decide (sel ≤ 15) else if func = 1 then decide (sel ≤ 7) else if func = 2 then s0
           else if func = 3 then decide (sel ≤ 15) else false)
  else if op = 0x1E then s0 && (if func = 0 then decide (arg ≤ 2) else if func = 1 then a0 else false)
  else if op = 0x1F then
    (if func = 0 then decide (sel ≤ 1) && a0 else if func = 1 then s0 && decide (arg ≤ 1) else if func ≤ 4 then s0 && a0 else false)
  else if op = 0x20 then s0 && a0 && decide (func ≤ 2)
  else if op = 0x21 then
    s0 && (if func = 0 then a0 && pa else if func = 1 then decide (arg ≤ 1) && pa else if func ≤ 3 then a0 else false)
  else false

/-- The word has a listed encoding. -/
def fzLegal (w : Word) : Bool :=
  let op := bits w 31 26
  let gd := bits w 25 22
  let ga := bits w 21 18
  let gb := bits w 17 14
  if op = 0 then
    decide (1 ≤ bits w 13 0) && decide (bits w 13 0 ≤ 0x18) && (decide (bits w 13 0 < 0x17) || decide (gb = 0))
  else if op = 5 then decide (bits w 17 7 = 0) && decide (bits w 6 5 ≠ 3)
  else if op ≤ 0x17 then true
  else if op ≤ 0x21 then fxLegal op gd ga (bits w 17 10) (bits w 9 6) (bits w 5 0)
  else if op = 0x3F then sysLegal gd ga gb (bits w 13 8) (bits w 7 0)
  else false

/-- RESERVED_OPCODE: a context issues a word without a listed encoding and takes ILLEGAL (R426). -/
def execReservedOpcode (l c : Nat) (w : Word) (s : State) : Host.Outcome State Fault Refusal :=
  if fzLegal w then .next s else issue l c w (exc l c xIllegal) s

end Sys2Proof.Machine
end

