-- ==== Sys2Proof/Machine/FzAlu.lean ====
section
/-!
DEFINITION. Fletrazar: arithmetic, logic, comparison and immediate instructions (R433–R436).
-/
namespace Sys2Proof.Machine

/-- An ALU instruction: gd from ga and gb (R433). -/
def aluOp (l c : Nat) (fn : BitVec 14) (gd ga gb : BitVec 4) (f : Word → Word → Word) (s : State) : Host.Outcome State Fault Refusal :=
  issue l c (encRR 0x00 gd ga gb fn) (fun s => wr l c gd (f (gv s l c ga) (gv s l c gb)) s) s

/-- A divide (R434): DIVZERO when gb is zero. -/
def divOp (l c : Nat) (fn : BitVec 14) (gd ga gb : BitVec 4) (f : Word → Word → Word) (s : State) : Host.Outcome State Fault Refusal :=
  issue l c (encRR 0x00 gd ga gb fn) (fun s =>
    if gv s l c gb = 0 then exc l c xDivzero s else wr l c gd (f (gv s l c ga) (gv s l c gb)) s) s

/-- An RI instruction: gd from ga and the sign-extended immediate (R435). -/
def immOp (l c : Nat) (op : BitVec 6) (gd ga : BitVec 4) (imm : BitVec 18) (f : Word → Word → Word) (s : State) :
    Host.Outcome State Fault Refusal :=
  issue l c (encRI op gd ga imm) (fun s => wr l c gd (f (gv s l c ga) (imm.signExtend 32)) s) s

/-- A shift by an immediate amount (R436): KIND and AMT in imm18. -/
def shiftOp (l c : Nat) (kind : BitVec 2) (gd ga : BitVec 4) (amt : BitVec 5) (f : Word → Nat → Word) (s : State) :
    Host.Outcome State Fault Refusal :=
  issue l c (encRI 0x05 gd ga ((0 : BitVec 11) ++ kind ++ amt)) (fun s => wr l c gd (f (gv s l c ga) amt.toNat) s) s

/-! ### The operations -/

def opNor (a b : Word) : Word := ~~~ (a ||| b)
def opSll (a b : Word) : Word := a <<< (b.toNat % 32)
def opSrl (a b : Word) : Word := a >>> (b.toNat % 32)
def opSra (a b : Word) : Word := a.sshiftRight (b.toNat % 32)
def opSlt (a b : Word) : Word := if a.slt b then 1 else 0
def opSltu (a b : Word) : Word := if a.ult b then 1 else 0
def opMulh (a b : Word) : Word := (a.signExtend 64 * b.signExtend 64).extractLsb' 32 32
def opMulhu (a b : Word) : Word := (a.setWidth 64 * b.setWidth 64).extractLsb' 32 32
def opMin (a b : Word) : Word := if b.slt a then b else a
def opMax (a b : Word) : Word := if a.slt b then b else a
def opMinu (a b : Word) : Word := if b.ult a then b else a
def opMaxu (a b : Word) : Word := if a.ult b then b else a

/-- The signed quotient, truncated toward zero; −2^31 / −1 saturates (R434). -/
def opDiv (a b : Word) : Word := if a = 0x80000000 ∧ b = 0xFFFFFFFF then 0x7FFFFFFF else a.sdiv b

/-- Leading zero bits, and 1 bits (R433). -/
def opClz (a : Word) : Word := wd ((List.range 32).takeWhile (fun i => !a.getLsbD (31 - i))).length
def opPopc (a : Word) : Word := wd ((List.range 32).filter (fun i => a.getLsbD i)).length

/-! ### ALU (R433, R434) -/

def execAdd (l c : Nat) (gd ga gb : BitVec 4) (s : State) := aluOp l c 0x001 gd ga gb (· + ·) s
def execSub (l c : Nat) (gd ga gb : BitVec 4) (s : State) := aluOp l c 0x002 gd ga gb (· - ·) s
def execAnd (l c : Nat) (gd ga gb : BitVec 4) (s : State) := aluOp l c 0x003 gd ga gb (· &&& ·) s
def execOr (l c : Nat) (gd ga gb : BitVec 4) (s : State) := aluOp l c 0x004 gd ga gb (· ||| ·) s
def execXor (l c : Nat) (gd ga gb : BitVec 4) (s : State) := aluOp l c 0x005 gd ga gb (· ^^^ ·) s
def execNor (l c : Nat) (gd ga gb : BitVec 4) (s : State) := aluOp l c 0x006 gd ga gb opNor s
def execSll (l c : Nat) (gd ga gb : BitVec 4) (s : State) := aluOp l c 0x007 gd ga gb opSll s
def execSrl (l c : Nat) (gd ga gb : BitVec 4) (s : State) := aluOp l c 0x008 gd ga gb opSrl s
def execSra (l c : Nat) (gd ga gb : BitVec 4) (s : State) := aluOp l c 0x009 gd ga gb opSra s
def execSlt (l c : Nat) (gd ga gb : BitVec 4) (s : State) := aluOp l c 0x00A gd ga gb opSlt s
def execSltu (l c : Nat) (gd ga gb : BitVec 4) (s : State) := aluOp l c 0x00B gd ga gb opSltu s
def execMul (l c : Nat) (gd ga gb : BitVec 4) (s : State) := aluOp l c 0x00C gd ga gb (· * ·) s
def execMulh (l c : Nat) (gd ga gb : BitVec 4) (s : State) := aluOp l c 0x00D gd ga gb opMulh s
def execMulhu (l c : Nat) (gd ga gb : BitVec 4) (s : State) := aluOp l c 0x00E gd ga gb opMulhu s
def execDiv (l c : Nat) (gd ga gb : BitVec 4) (s : State) := divOp l c 0x00F gd ga gb opDiv s
def execDivu (l c : Nat) (gd ga gb : BitVec 4) (s : State) := divOp l c 0x010 gd ga gb BitVec.udiv s
def execRem (l c : Nat) (gd ga gb : BitVec 4) (s : State) := divOp l c 0x011 gd ga gb BitVec.srem s
def execRemu (l c : Nat) (gd ga gb : BitVec 4) (s : State) := divOp l c 0x012 gd ga gb BitVec.umod s
def execMin (l c : Nat) (gd ga gb : BitVec 4) (s : State) := aluOp l c 0x013 gd ga gb opMin s
def execMax (l c : Nat) (gd ga gb : BitVec 4) (s : State) := aluOp l c 0x014 gd ga gb opMax s
def execMinu (l c : Nat) (gd ga gb : BitVec 4) (s : State) := aluOp l c 0x015 gd ga gb opMinu s
def execMaxu (l c : Nat) (gd ga gb : BitVec 4) (s : State) := aluOp l c 0x016 gd ga gb opMaxu s
def execClz (l c : Nat) (gd ga : BitVec 4) (s : State) := aluOp l c 0x017 gd ga 0 (fun a _ => opClz a) s
def execPopc (l c : Nat) (gd ga : BitVec 4) (s : State) := aluOp l c 0x018 gd ga 0 (fun a _ => opPopc a) s

/-! ### Immediates (R435, R436) -/

def execAddi (l c : Nat) (gd ga : BitVec 4) (imm : BitVec 18) (s : State) := immOp l c 0x01 gd ga imm (· + ·) s
def execAndi (l c : Nat) (gd ga : BitVec 4) (imm : BitVec 18) (s : State) := immOp l c 0x02 gd ga imm (· &&& ·) s
def execOri (l c : Nat) (gd ga : BitVec 4) (imm : BitVec 18) (s : State) := immOp l c 0x03 gd ga imm (· ||| ·) s
def execXori (l c : Nat) (gd ga : BitVec 4) (imm : BitVec 18) (s : State) := immOp l c 0x04 gd ga imm (· ^^^ ·) s
def execSlti (l c : Nat) (gd ga : BitVec 4) (imm : BitVec 18) (s : State) := immOp l c 0x07 gd ga imm opSlt s

/-- lui: imm22 in bits 31:10 (R435). -/
def execLui (l c : Nat) (gd : BitVec 4) (imm : BitVec 22) (s : State) : Host.Outcome State Fault Refusal :=
  issue l c (encLI 0x06 gd imm) (fun s => wr l c gd (imm ++ (0 : BitVec 10)) s) s

def execSlli (l c : Nat) (gd ga : BitVec 4) (amt : BitVec 5) (s : State) := shiftOp l c 0 gd ga amt (fun a n => a <<< n) s
def execSrli (l c : Nat) (gd ga : BitVec 4) (amt : BitVec 5) (s : State) := shiftOp l c 1 gd ga amt (fun a n => a >>> n) s
def execSrai (l c : Nat) (gd ga : BitVec 4) (amt : BitVec 5) (s : State) := shiftOp l c 2 gd ga amt BitVec.sshiftRight s

end Sys2Proof.Machine
end

