-- ==== Sys2Proof/Machine/FzReq.lean ====
section
/-!
DEFINITION. Fletrazar: what the switch does with a request of an engine, and gate 64 + e, through which requests reach it in their order
(R386, R401, R403, R459, R576).
-/
namespace Sys2Proof.Machine

/-! ### Accesses (R437–R439) -/

/-- The `n` bytes of a word from byte `o` on, as a number. -/
def lanes (w : Word) (o n : Nat) : Nat := w.toNat / 256 ^ o % 256 ^ n

/-- The value of `n` bytes, zero- or sign-extended (R437). -/
def extend (sg : Bool) (n v : Nat) : Word := if sg then BitVec.ofInt 32 (sgnN (8 * n) v) else wd v

/-- The source tag of logical engine L's accesses: node and local source ID (R45). -/
def engTag (s : State) (l : Nat) : Nat × Nat := (s.nodeId, 272 + l)

/-- The word, and the byte enables, that a store of `n` bytes at offset `o` of a word writes. -/
def storeLanes (o n v : Nat) : Word × BitVec 4 := (wd (v % 256 ^ n * 256 ^ o), BitVec.ofNat 4 ((2 ^ n - 1) * 2 ^ o))


/-- The register after r. -/
def pairHi (r : BitVec 4) : BitVec 4 := r + 1

/-- A response that writes a pair. -/
def resPair (r : BitVec 4) (d : DWord) : BlkRes := { regs := [(r.toNat, lo32 d), ((pairHi r).toNat, hi32 d)] }

/-! ### Emits: the text check (R467) -/

/-- Skip zero or more '\'…'\' blocks up to an opening character: the length of the blocks, and the sentence part. -/
def skipTags : Bool → Nat → List Byte → Option (Nat × List Byte)
  | _, _, [] => none
  | true, n, b :: r => skipTags (decide (b ≠ 0x5C)) (n + 1) r
  | false, n, b :: r =>
    if b = 0x5C then skipTags true (n + 1) r
    else if isOpening b.toNat then some (n, b :: r)
    else none

/-- An address field that R231 allows. -/
def addrOk (a : List Nat) : Bool :=
  if a.head? = some 0x50 then decide (4 ≤ a.length) && decide (a.length ≤ 16) else decide (a.length = 5)

/-- The checked text: TAGLEN, the opening character, the address. -/
structure Checked where
  tagLen : Nat
  opening : Nat
  addr : List Nat
  deriving DecidableEq, Repr

/-- The check of a text of a valid length: none is FORMAT. -/
def checkText (ckadd : Bool) (txt : List Byte) : Option Checked :=
  if txt.any (fun b => decide (b.toNat < 0x20) || decide (0x7E < b.toNat)) then none
  else
    match skipTags false 0 txt with
    | none => none
    | some (_, []) => none
    | some (n, o :: r) =>
      let addr := (r.map (·.toNat)).takeWhile isAddrChar
      let next := (r.drop addr.length).head?
      if !addrOk addr || !(next = none || next = some 0x2C || next = some 0x2A) || (ckadd && r.contains 0x2A) then none
      else some { tagLen := n, opening := o.toNat, addr := addr }

/-! ### Emits: commit (R468), and messages (R471) -/

/-- DEADLINE of DLSET (R468): at most 65.535 s ahead. -/
def dlSetValue (s : State) (v : Nat) : Nat :=
  let d := (v + 2 ^ 32 - s.time.dnow.toNat) % 2 ^ 32
  if v ≠ 0 ∧ 63999024 ≤ d ∧ d < 2 ^ 31 then (s.time.dnow.toNat + 63999023) % 2 ^ 32 else v

/-- The route of DIRECT: the action of RT[i] of the active bank alone (R468). -/
def directRoute (s : State) (i : Nat) : Capture :=
  let bank := s.tables.active
  let bad := entryBad s bank 0 32 i
  { bank := bank, applied := if bad then [] else [rtAction s bank i], unmatched := false, ridx := i, bad := if bad then [i] else [] }

/-- The cells of the sentence: allocated down to zero (R261, R468), or those of an echain, of which the cells that LEN does not need
return to FREE (R470). -/
def emitCells (l len : Nat) (chain : Option (Nat × Option Nat)) (s : State) : Option (Nat × Option Nat) × State :=
  match chain with
  | none => allocChain (272 + l) len s
  | some (c, none) => (some (c, none), s)
  | some (c, some n) =>
    let put := fun (used : Bool) (k : Nat) (s : State) => setCellSt s k (if used then .cont c else .free)
    (some (c, some n), put (decide (96 < len)) n (put (decide (224 < len)) (n + 1) s))

/-- The TAGLEN byte; the specification gives none for blocks longer than 255 bytes: an open value. -/
def tagLenByte (n : Nat) (s : State) : Nat × State :=
  if n < 256 then (n, s)
  else
    let (f, s) := takeFree s
    (f % 256, s)

/-- Emit a text (R467, R468): the status, and the state. The NEXT of an echain is the program's (R470). -/
def emitText (l : Nat) (q : EmitReq) (s : State) : Nat × State :=
  let len := q.text.length + (if q.ckadd then 3 else 0)
  let room := match q.chain with
    | some (_, none) => 96
    | _ => 352
  if q.text = [] ∨ room < len then (3, s)
  else
    match checkText q.ckadd q.text with
    | none => (2, s)
    | some k =>
      let part := q.text.drop k.tagLen
      let text := q.text ++ (if q.ckadd then 0x2A :: hex2 (xorBytes (part.drop 1)) else [])
      match emitCells l len q.chain s with
      | (none, s) => (1, s)
      | (some (c, next), s) =>
        let (seq, s) := takeSeq (272 + l) s
        let (tl, s) := tagLenByte k.tagLen s
        let stamp := q.stamp.getD s.time.ft
        let s := writeText c (next.getD 0) (chainCells len) text (writeStamp c stamp s)
        let ck := q.ckBits.getD (b2n q.ckadd + 2 * b2n (!q.ckadd && !part.contains 0x2A))
        let h : CellHdr := { stamp := stamp, src := 272 + l, node := s.nodeId, len := len, seq := seq, next := next,
                             flags := ck + 4 * b2n (decide (k.tagLen ≠ 0)) + 32, tagLen := tl, user := q.user }
        let cap := match q.direct with
          | some i => directRoute s i
          | none => lookupLocal s (272 + l) k.opening k.addr
        let dl := match q.dl with
          | some v => fun _ => dlSetValue s v
          | none => deadlineOf stamp
        (0, commitRouted c (272 + l) q.chain.isSome h cap dl [] [] s)

/-- A cell that logical engine L owns (R476). -/
def engOwns (s : State) (l k : Nat) : Bool :=
  match cellSt s k with
  | .filling o _ => decide (o = 272 + l) && decide (k < 32768)
  | _ => false

/-- Send an engine message (R471): the status. -/
def emsgSend (l node target : Nat) (body : List Byte) (s : State) : Nat × State :=
  if body = [] then (3, s)
  else if node = 0xFFF then (2, s)
  else if node = 0 ∨ node = s.nodeId then
    let (ok, s) := emqPut target 1 s.nodeId body s
    (if ok then 0 else 4, s)
  else if !originates s then (5, s)
  else (0, tunSend false node 3 0 (272 + l) target 0 body s)

/-! ### Tables (R477–R479) -/

/-- The bank a command names. -/
def camBank (s : State) (k : CamCmd) : Bool := if k.inactive then !s.tables.active else s.tables.active

/-- The bytes of an entry. -/
def entryBytes (s : State) (bank : Bool) (tbl i : Nat) : List Byte := unpackWords (tblImage s bank tbl i)

/-- Write an entry of the inactive bank whole, HITS included: none when R295 or the field rules refuse it. -/
def inactiveWrite (k : CamCmd) (ws : List Word) (s : State) : Option State :=
  if s.tables.busy ∨ imageRefused s k.tbl k.idx ws then none
  else
    let bank := !s.tables.active
    some ((List.range (tblEntry k.tbl / 4)).foldl (fun s w =>
      let hits := decide (tblHits k.tbl = some (4 * w))
      tblPut s bank k.tbl (k.idx * tblEntry k.tbl + 4 * w) (if hits then ws.getD w 0 else ws.getD w 0 &&& imageMask k.tbl w)) s)

/-! ### Fabric transfers (R480, R576) -/

/-- The node is the own one (R49–R51). -/
def fabOwn (s : State) (x : FabOp) : Bool := decide (x.node = 0) || decide (x.node = s.nodeId)

/-- What a completed transfer gives the context. -/
def fabDone (x : FabOp) (bs : List Byte) : BlkRes :=
  match x.data, x.dmem with
  | some _, _ => { regs := [(x.gd, 0)] }
  | none, some a => { regs := [(x.gd, 0)], mem := [(a, bs)] }
  | none, none => { regs := [(x.gd, wd (ofBytesLE bs))] }

/-- A transfer of the own node (R480): an error response is BUSERR. -/
def fabLocal (l : Nat) (x : FabOp) (s : State) : BlkRes × State :=
  match x.data with
  | none =>
    match readRun x.off x.len s with
    | (some bs, s) => (fabDone x bs, s)
    | (none, s) => (resExc xBuserr, s)
  | some bs =>
    match writeRun (engTag s l) x.off bs s with
    | some s => (fabDone x [], s)
    | none => (resExc xBuserr, s)

/-- The transaction of a remote transfer (R576). -/
def fabTrans (l : Nat) (o : TrOwner) (typ : Nat) (x : FabOp) : Trans :=
  { owner := o, node := x.node, typ := typ, addr := x.off, blen := x.len, data := x.data.getD [], src := 0x10 + l, reg := x.gd,
    dmem := x.dmem }

/-- The posted-write slots that logical engine L holds (R576). -/
def engSlots (s : State) (l : Nat) : Nat := ((incomplete s).filter (fun t => isEngPost l t.owner)).length

/-- A posted write at its turn (R480, R571, R576): the own node's part takes effect; the ring's part takes a slot, and fails in HALTER. -/
def postNow (l c : Nat) (x : FabOp) (s : State) : State :=
  let fab := x.node * 2 ^ 36 + x.off
  let part := if fabOwn s x || decide (x.node = 0xFFF) then writeRun (engTag s l) x.off (x.data.getD []) s else some s
  if fabOwn s x then part.getD (engPostFail l fab 1 s)
  else
    let s := part.getD s
    if originates s then addTrans [fabTrans l (.engPost l c 0) 4 { x with gd := 0 }] s else engPostFail l fab 9 s

/-! ### Requests at the switch -/

/-- Cells are given to logical engine L, or all ones (R476). -/
def reqAlloc (l gd : Nat) (pair : Bool) (s : State) : BlkRes × State :=
  let own := fun (k : Nat) (s : State) => setCellSt s k (.filling (272 + l) 0)
  let none_ : BlkRes := { regs := [(gd, 0xFFFFFFFF)] }
  if pair then
    match allocPair false 0 s with
    | (some k, s) => ({ regs := [(gd, wd k)] }, own (k + 1) (own k s))
    | (none, s) => (none_, s)
  else
    match allocFirst false (272 + l) s with
    | (some k, s) => ({ regs := [(gd, wd k)] }, s)
    | (none, s) => (none_, s)

/-- Cells that L owns return to FREE (R476). -/
def reqFree (l k : Nat) (two : Bool) (s : State) : BlkRes × State :=
  if engOwns s l k && (!two || engOwns s l (k + 1)) then
    let s := setCellSt s k .free
    ({}, if two then setCellSt s (k + 1) .free else s)
  else (resExc xField, s)

/-- The text of the held sentence is emitted again (R469). -/
def reqEfwd (l gd cell : Nat) (keep drop : Bool) (s : State) : BlkRes × State :=
  let (bad, s) := eccChain cell s
  if bad then (resExc xBuserr, s)
  else
    let q : EmitReq := { text := (cellText s cell).drop (if drop then cellTagLen s cell else 0),
                         stamp := if keep then some (cellStamp s cell) else none,
                         ckBits := some ((cellFlags s cell).toNat % 4), user := cellNat s cell 0x1C 4 }
    let (st, s) := emitText l q s
    ({ regs := [(gd, wd st)] }, s)

/-- A chain that L owns is committed (R470). -/
def reqEchain (l gd k : Nat) (ckadd : Bool) (stamp : Option DWord) (s : State) : BlkRes × State :=
  let nv := decide (32768 ≤ cellNat s k 0x18 2)
  let n := cellNat s k 0x18 2 % 32768
  if !engOwns s l k || (nv && !(engOwns s l n && engOwns s l (n + 1))) then (resExc xField, s)
  else if 352 < cellLen s k ∨ (96 < cellLen s k ∧ !nv) then ({ regs := [(gd, 3)] }, s)
  else
    let (bad, s) := eccChain k s
    if bad then (resExc xBuserr, s)
    else
      let q : EmitReq := { text := cellText s k, ckadd := ckadd, stamp := stamp, user := cellNat s k 0x1C 4,
                           chain := some (k, if nv then some n else none) }
      let (st, s) := emitText l q s
      ({ regs := [(gd, wd st)] }, s)

/-- An entry is written (R295, R298–R301, R477); refused, gd is 1 and CFG_ERR is set. `counted` is that of STAGED_UPDATE (R301, R478). -/
def reqCwr (gd : Nat) (k : CamCmd) (img : List Byte) (counted : Bool) (s : State) : BlkRes × State :=
  let ws := packWords img
  match (if k.inactive then inactiveWrite k ws s else stageEntry k.tbl k.idx ws k.clrHits k.clrDec s) with
  | some s => ({ regs := [(gd, 0)] }, if counted && !k.inactive && k.clrHits then hitMeets k.tbl k.idx s else s)
  | none => ({ regs := [(gd, 1)] }, swCfgErr s)

/-- A fence waits for the posted writes of L that were taken before it (R480). -/
def reqFence (l c id gd : Nat) (s : State) : State :=
  let seqs := ((incomplete s).filter (fun t => isEngPost l t.owner)).map (·.tseq)
  match (ctx s l c).blk with
  | some b => if b.id = id then setCtx l c { ctx s l c with blk := some { b with fence := some (gd, seqs) } } s else s
  | none => s

/-- The switch acts on request `id` of context c of logical engine L: its response, or none when the request is posted or its response is
still to come (R403, R459). -/
def doReq (l c id : Nat) (q : EngReq) (s : State) : Option BlkRes × State :=
  let answer := fun (r : BlkRes × State) => (some r.1, r.2)
  match q with
  | .load gd n sg a =>
    match busRead (a / 4 * 4) s with
    | (some w, s) => (some { regs := [(gd, extend sg n (lanes w (a % 4) n))] }, s)
    | (none, s) => (some (resExc xBuserr), s)
  | .store n v a =>
    let (w, be) := storeLanes (a % 4) n v.toNat
    match busWrite (engTag s l) (a / 4 * 4) w be s with
    | some s => (some {}, s)
    | none => (some (resExc xBuserr), s)
  | .text cont i e r =>
    let (bad, s) := eccRead (aCell cont + (i - 96)) (e - max i 96) s
    (some (if bad then resExc xBuserr else r), s)
  | .now gd => (some { regs := [(gd, lo32 s.time.ft), (gd + 1, hi32 s.time.ft)] }, s)
  | .signal t k => (none, engFlag t 14 (setLatch t k s))
  | .swe n => (none, raise (112 + n) s)
  | .dlwr op m => (none, dlOp op m s)
  | .dlrd gd => (some { regs := [(gd, dlIn s)] }, s)
  | .calloc gd pair => answer (reqAlloc l gd pair s)
  | .cfree k two => answer (reqFree l k two s)
  | .cld k =>
    let (bad, s) := eccRead (aCell k) 128 s
    (some (if bad then resExc xBuserr else { win := some (memBytes s (aCell k) 128) }), s)
  | .cst k bs => if engOwns s l k || decide (k < poolRsv s) then (some {}, memWrite s (aCell k) bs) else (some (resExc xField), s)
  | .release cell => (none, match cell with
    | some k => releaseRef k s
    | none => s)
  | .crd gd k => (some { regs := [(gd, 0)], mem := [(aEngMem l + k.image, entryBytes s (camBank s k) k.tbl k.idx)] }, s)
  | .cwr gd k img counted => answer (reqCwr gd k img counted s)
  | .clook gd key => (some { regs := [(gd, ((rtAll s s.tables.active key).head?.map wd).getD 0xFFFFFFFF)] }, s)
  | .emit gd q =>
    let (st, s) := emitText l q s
    (some { regs := [(gd, wd st)] }, s)
  | .efwd gd cell keep drop => answer (reqEfwd l gd cell keep drop s)
  | .echain gd k ckadd stamp => answer (reqEchain l gd k ckadd stamp s)
  | .emsg gd node target body =>
    let (st, s) := emsgSend l node target body s
    (some { regs := [(gd, wd st)] }, s)
  | .fab x =>
    if fabOwn s x then answer (fabLocal l x s)
    else if originates s then (none, addTrans [fabTrans l (.eng l c id) (if x.data.isSome then 5 else 2) x] s)
    else (some (resExc xBuserr), s)
  | .fabPost x => (none, postNow l c x s)
  | .fence gd => (none, reqFence l c id gd s)

/-! ### Gate 64 + e -/

/-- The request at the head of the gate can be taken: a posted write to the ring needs one of eight slots (R576). -/
def reqReady (s : State) (l : Nat) (q : EngReq) : Bool :=
  match q with
  | .fabPost x => fabOwn s x || !originates s || decide (engSlots s l < 8)
  | _ => true

/-- The switch takes requests of L from the gate, in order, as long as it can. -/
def gateRun (l : Nat) : Nat → State → State
  | 0, s => s
  | n + 1, s =>
    match (eng s l).gate with
    | [] => s
    | r :: rest =>
      if !reqReady s l r.req then s
      else
        let (res, s) := doReq l r.c r.id r.req (setEng s l { eng s l with gate := rest })
        gateRun l n (match res with
          | some x => respond l r.c r.id x s
          | none => s)

/-- Take what can be taken. -/
def gateDrain (l : Nat) (s : State) : State := gateRun l (eng s l).gate.length s

/-- Take what can be taken of every engine's requests. -/
def gatesDrain (s : State) : State := s.engs.foldl (fun s e => gateDrain e.1 s) s

/-- A request enters gate 64 + e, behind those before it. -/
def gatePut (l c id : Nat) (q : EngReq) (s : State) : State :=
  gateDrain l (setEng s l { eng s l with gate := (eng s l).gate ++ [{ c := c, id := id, req := q }] })

/-- The request of context c stands among the sixteen that the gate holds, or has left it (R143). -/
def hasEntered (s : State) (l c id : Nat) : Bool := !((eng s l).gate.drop 16).any (fun r => decide (r.c = c) && decide (r.id = id))

/-- A request goes to the switch and the context blocks until its response (R403, R459). -/
def blocking (l c : Nat) (q : EngReq) (s : State) : State :=
  let id := (eng s l).nextId
  gatePut l c id q (blockOn l c none s)

/-- A posted request (R459): the context goes on with `r`, but while the gate is full it blocks first (R386). -/
def posted (l c : Nat) (r : BlkRes) (q : EngReq) (s : State) : State :=
  let s := gateDrain l s
  if (eng s l).gate.length < 16 then gatePut l c (eng s l).nextId q (finish l c r s)
  else
    let id := (eng s l).nextId
    let s := blockOn l c (some r) s
    let v := ctx s l c
    gatePut l c id q (setCtx l c { v with blk := v.blk.map (fun b => { b with space := true }) } s)

/-- RESPONSE_ARRIVAL: a response arrives through gate 46 + e, or room in gate 64 + e (R386, R403, R410, R480). A response that is due to
an abandoned request is discarded (R388, R401). -/
def execResponseArrival (l c : Nat) (s : State) : Host.Outcome State Fault Refusal :=
  if !(decide (l < 16) && decide (c < 8) && awake s) then .next s
  else
    let s := gateDrain l s
    let v := ctx s l c
    if v.orphans ≠ 0 then .next (setCtx l c { v with orphans := v.orphans - 1 } s)
    else
      match v.blk with
      | none => .next s
      | some b =>
        if b.space && !hasEntered s l c b.id then .next s
        else
          match b.fence with
          | some (gd, seqs) =>
            if (incomplete s).any (fun t => isEngPost l t.owner && seqs.contains t.tseq) then .next s
            else
              let n := (eng s l).fails
              .next (applyRes l c { regs := [(gd, wd n)] } .ready (setEng s l { eng s l with fails := 0 }))
          | none =>
            match b.res with
            | some r => .next (applyRes l c r .ready s)
            | none => .next s

end Sys2Proof.Machine
end

