-- ==== Sys2Proof/Machine/FzMem.lean ====
section
/-!
DEFINITION. Fletrazar: the local view of a context (R402), loads and stores (R437–R440), branches and jumps (R441–R443).
-/
namespace Sys2Proof.Machine

/-! ### The local view (R402) -/

/-- Where a local address leads: instruction or data memory (a node-local address), a byte of the cell window of context c, a register of
the ENG or EMQ block (a node-local address), SELF.BUDGET_LEFT, or the switch (a node-local address; the access blocks). -/
inductive Loc where
  | mem (a : Nat)
  | win (c o : Nat)
  | reg (a : Nat)
  | left
  | far (a : Nat)
  deriving DecidableEq, Repr

/-- The local view of context c of logical engine L: none for an address in none of its regions. -/
def localView (l c ea : Nat) : Option Loc :=
  if ea < 0x20000 then some (.mem (aEngMem l + ea))
  else if ea < 0x20080 then some (.win c (ea - 0x20000))
  else if 0x20400 ≤ ea ∧ ea < 0x20800 then some (.win ((ea - 0x20400) / 0x80) (ea % 0x80))
  else if 0x30000 ≤ ea ∧ ea < 0x30100 then some (.reg (aEng l (ea - 0x30000)))
  else if 0x30100 ≤ ea ∧ ea < 0x30120 then some (.reg (aEmq l (ea - 0x30100)))
  else if 0x30200 ≤ ea ∧ ea < 0x30204 then some .left
  else if 0x10000000 ≤ ea ∧ ea < 0x10400000 then some (.far (0x01000000 + (ea - 0x10000000)))
  else if 0x20000000 ≤ ea ∧ ea < 0x30000000 then some (.far (ea - 0x20000000))
  else none

/-- A byte of a cell window, and a little-endian value in it. -/
def winByte (v : CtxSt) (k : Nat) : Byte := tabGet (fun _ => 0) v.win k
def winBytes (v : CtxSt) (o n : Nat) : List Byte := (List.range n).map (fun i => winByte v (o + i))
def winNat (v : CtxSt) (o n : Nat) : Nat := ofBytesLE (winBytes v o n)

/-- Read an engine-local register; reserved offsets read as zero (R402). -/
def regLoad (a : Nat) (s : State) : Option Word × State := if mapped s a then busRead a s else (some 0, s)

/-- The EA of a load or store (R437). -/
def effAddr (s : State) (l c : Nat) (ga : BitVec 4) (imm : BitVec 18) : Nat := (gv s l c ga + imm.signExtend 32).toNat

/-- A load of `n` bytes from local address `ea` (R437–R440). -/
def loadAt (l c : Nat) (gd : BitVec 4) (n : Nat) (sg : Bool) (ea : Nat) (s : State) : State :=
  if ea % n ≠ 0 then exc l c xMisalign s
  else
    match localView l c ea with
    | none => exc l c xBuserr s
    | some (.mem a) =>
      let (bad, s) := eccRead a n s
      if bad then exc l c xBuserr s else wr l c gd (extend sg n (memNat s a n)) s
    | some (.win c' o) =>
      let (bad, s) := eccRead (aCtxWin l c' + o) n s
      if bad then exc l c xBuserr s else wr l c gd (extend sg n (winNat (ctx s l c') o n)) s
    | some (.reg a) =>
      match regLoad (a / 4 * 4) s with
      | (some w, s) => wr l c gd (extend sg n (lanes w (a % 4) n)) s
      | (none, s) => exc l c xBuserr s
    | some .left => wr l c gd (extend sg n (lanes (wd (budgetLeft (ctx s l c))) (ea % 4) n)) s
    | some (.far a) => blocking l c (.load gd.toNat n sg a) s

/-- A store to instruction memory of L leaves the old word fetchable to its contexts until their next instruction fence (R404). -/
def noteStale (l a : Nat) (s : State) : State :=
  if (a - aEngMem l) < 0x10000 then
    let o := (a - aEngMem l) / 4 * 4
    let w := wd (memNat s (aEngMem l + o) 4)
    (List.range 8).foldl (fun s c =>
      if (ctx s l c).stale.contains (o, w) then s else setCtx l c { ctx s l c with stale := (o, w) :: (ctx s l c).stale } s) s
  else s

/-- Write bytes of a cell window. -/
def winWrite (v : CtxSt) (o : Nat) (bs : List Byte) : CtxSt :=
  { v with win := (List.range bs.length).foldl (fun t i => tabSet (fun _ => 0) t (o + i) (bs.getD i 0)) v.win }

/-- A store of the low `n` bytes of `v` at local address `ea` (R437–R439). -/
def storeAt (l c n : Nat) (v : Word) (ea : Nat) (s : State) : State :=
  if ea % n ≠ 0 then exc l c xMisalign s
  else
    match localView l c ea with
    | none => exc l c xBuserr s
    | some (.mem a) => memWrite (noteStale l a (finish l c {} s)) a (bytesLE n v.toNat)
    | some (.win c' o) =>
      let s := eccClean (aCtxWin l c' + o) n (finish l c {} s)
      setCtx l c' (winWrite (ctx s l c') o (bytesLE n v.toNat)) s
    | some (.reg a) =>
      let (w, be) := storeLanes (a % 4) n v.toNat
      let s := finish l c {} s
      (busWrite (engTag s l) (a / 4 * 4) w be s).getD s
    | some .left => finish l c {} s
    | some (.far a) => blocking l c (.store n v a) s

/-- A load instruction. -/
def loadOp (l c : Nat) (op : BitVec 6) (gd ga : BitVec 4) (imm : BitVec 18) (n : Nat) (sg : Bool) (s : State) :
    Host.Outcome State Fault Refusal :=
  issue l c (encRI op gd ga imm) (fun s => loadAt l c gd n sg (effAddr s l c ga imm) s) s

/-- A store instruction; the gd field names the register stored. -/
def storeOp (l c : Nat) (op : BitVec 6) (gs ga : BitVec 4) (imm : BitVec 18) (n : Nat) (s : State) :
    Host.Outcome State Fault Refusal :=
  issue l c (encRI op gs ga imm) (fun s => storeAt l c n (gv s l c gs) (effAddr s l c ga imm) s) s

def execLw (l c : Nat) (gd ga : BitVec 4) (imm : BitVec 18) (s : State) := loadOp l c 0x08 gd ga imm 4 false s
def execLh (l c : Nat) (gd ga : BitVec 4) (imm : BitVec 18) (s : State) := loadOp l c 0x09 gd ga imm 2 true s
def execLhu (l c : Nat) (gd ga : BitVec 4) (imm : BitVec 18) (s : State) := loadOp l c 0x0A gd ga imm 2 false s
def execLb (l c : Nat) (gd ga : BitVec 4) (imm : BitVec 18) (s : State) := loadOp l c 0x0B gd ga imm 1 true s
def execLbu (l c : Nat) (gd ga : BitVec 4) (imm : BitVec 18) (s : State) := loadOp l c 0x0C gd ga imm 1 false s
def execSw (l c : Nat) (gs ga : BitVec 4) (imm : BitVec 18) (s : State) := storeOp l c 0x0D gs ga imm 4 s
def execSh (l c : Nat) (gs ga : BitVec 4) (imm : BitVec 18) (s : State) := storeOp l c 0x0E gs ga imm 2 s
def execSb (l c : Nat) (gs ga : BitVec 4) (imm : BitVec 18) (s : State) := storeOp l c 0x0F gs ga imm 1 s

/-! ### Branches and jumps (R441–R443) -/

/-- The context goes on at a pc with a link in gd. -/
def jumpTo (l c : Nat) (gd : BitVec 4) (link : Word) (pc : BitVec 16) (s : State) : State :=
  atBoundary l c (setCtx l c { gSet (ctx s l c) gd.toNat link with pc := pc } s)

/-- A relative target: bits 15:0 of A + 4 × the offset. -/
def relTarget (a : BitVec 16) (off : BitVec 16) : BitVec 16 := a + 4 * off

/-- The address of the next instruction, as a link. -/
def linkOf (a : BitVec 16) : Word := (a + 4).setWidth 32

/-- A branch (R441). -/
def branchOp (l c : Nat) (op : BitVec 6) (ga gb : BitVec 4) (off : BitVec 18) (p : Word → Word → Bool) (s : State) :
    Host.Outcome State Fault Refusal :=
  issue l c (encBR op ga gb off) (fun s =>
    if p (gv s l c ga) (gv s l c gb) then jumpTo l c 0 0 (relTarget (ctx s l c).pc (off.setWidth 16)) s else finish l c {} s) s

def execBeq (l c : Nat) (ga gb : BitVec 4) (off : BitVec 18) (s : State) := branchOp l c 0x10 ga gb off (fun a b => decide (a = b)) s
def execBne (l c : Nat) (ga gb : BitVec 4) (off : BitVec 18) (s : State) := branchOp l c 0x11 ga gb off (fun a b => decide (a ≠ b)) s
def execBlt (l c : Nat) (ga gb : BitVec 4) (off : BitVec 18) (s : State) := branchOp l c 0x12 ga gb off BitVec.slt s
def execBge (l c : Nat) (ga gb : BitVec 4) (off : BitVec 18) (s : State) := branchOp l c 0x13 ga gb off (fun a b => !a.slt b) s
def execBltu (l c : Nat) (ga gb : BitVec 4) (off : BitVec 18) (s : State) := branchOp l c 0x14 ga gb off BitVec.ult s
def execBgeu (l c : Nat) (ga gb : BitVec 4) (off : BitVec 18) (s : State) := branchOp l c 0x15 ga gb off (fun a b => !a.ult b) s

/-- JAL (R442). -/
def execJal (l c : Nat) (gd : BitVec 4) (imm : BitVec 22) (s : State) : Host.Outcome State Fault Refusal :=
  issue l c (encLI 0x16 gd imm) (fun s =>
    jumpTo l c gd (linkOf (ctx s l c).pc) (relTarget (ctx s l c).pc (imm.setWidth 16)) s) s

/-- JALR (R443): MISALIGN, or BUSERR outside instruction memory. -/
def execJalr (l c : Nat) (gd ga : BitVec 4) (imm : BitVec 18) (s : State) : Host.Outcome State Fault Refusal :=
  issue l c (encRI 0x17 gd ga imm) (fun s =>
    let t := gv s l c ga + imm.signExtend 32
    if bits t 1 0 ≠ 0 then exc l c xMisalign s
    else if bits t 31 16 ≠ 0 then exc l c xBuserr s
    else jumpTo l c gd (linkOf (ctx s l c).pc) (t.setWidth 16) s) s

end Sys2Proof.Machine
end

