-- ==== Sys2Proof/Machine/FzText.lean ====
section
/-!
DEFINITION. Fletrazar: text and fields (R461, R462), numbers (R463–R465), checksums and characters (cks).
-/
namespace Sys2Proof.Machine

/-! ### Objects in data memory (R458) -/

/-- An object of `n` bytes at local address `a` lies in data memory. -/
def inDmem (a n : Nat) : Bool := decide (0x10000 ≤ a) && decide (a + n ≤ 0x20000)

/-- Read an object in data memory: none where it does not lie there, or a word is uncorrectable (BUSERR). -/
def dmRead (l a n : Nat) (s : State) : Option (List Byte) × State :=
  if inDmem a n then
    let (bad, s) := if n = 0 then (false, s) else eccRead (aEngMem l + a) n s
    (if bad then none else some (memBytes s (aEngMem l + a) n), s)
  else (none, s)

/-- Read a descriptor or a command block of `n` bytes (R458), or raise its exception. -/
def withDesc (l c a n : Nat) (f : List Byte → State → State) (s : State) : State :=
  if a % 4 ≠ 0 then exc l c xMisalign s
  else
    match dmRead l a n s with
    | (some bs, s) => f bs s
    | (none, s) => exc l c xBuserr s

/-! ### The text of the cell window (R461) -/

def txLen (v : CtxSt) : Nat := winNat v 0x0E 2 % 512
def txTag (v : CtxSt) : Nat := winNat v 0x1B 1
def txNv (v : CtxSt) : Bool := (winByte v 0x19).getLsbD 7
def txCont (v : CtxSt) : Nat := winNat v 0x18 2 % 32768

/-- Text byte k; 0 where there is none. -/
def txByte (s : State) (v : CtxSt) (k : Nat) : Byte :=
  if k < 96 then winByte v (0x20 + k) else if txNv v then memByte s (textAddr 0 (txCont v) k) else 0

/-- The text. -/
def txText (s : State) (v : CtxSt) : List Byte := (List.range (txLen v)).map (txByte s v)

/-- The instruction raises FIELD (R461); `e` is one more than the highest index it reads. A byte beyond cell 32,767 does not exist. -/
def txBad (v : CtxSt) (e : Nat) : Bool :=
  decide (352 < txLen v) || decide (txLen v < txTag v) ||
  (decide (96 < e) && (!txNv v || (decide (224 < e) && decide (txCont v = 32767))))

/-- End a text instruction that read the text bytes `i` to `e` - 1: local, or blocking when it read a continuation cell (R461, R715). -/
def txEnd (l c i e : Nat) (r : BlkRes) (s : State) : State :=
  let (bad, s) := if i < min e 96 then eccRead (aCtxWin l c + 0x20 + i) (min e 96 - i) s else (false, s)
  if bad then exc l c xBuserr s
  else if e ≤ 96 then finish l c r s
  else blocking l c (.text (txCont (ctx s l c)) i e r) s

/-- A text instruction reads LEN, NEXT and TAGLEN of its window first (R461, R715). -/
def txHead (l c : Nat) (f : State → State) (s : State) : State :=
  let (b0, s) := eccRead (aCtxWin l c + 0x0E) 2 s
  let (b1, s) := eccRead (aCtxWin l c + 0x18) 4 s
  if b0 || b1 then exc l c xBuserr s else f s

/-! ### Fields (R462) -/

/-- The field that starts at `st` once `n` more commas have passed, scanning from index i: its start and length, and one more than
the highest index scanned. -/
def fieldScan : List Byte → Nat → Nat → Nat → Option (Nat × Nat) × Nat
  | [], i, n, st => (if n = 0 then some (st, i - st) else none, i)
  | b :: r, i, n, st =>
    if b = 0x2A then (if n = 0 then some (st, i - st) else none, i + 1)
    else if b = 0x2C then
      if n ≠ 0 then fieldScan r (i + 1) (n - 1) (i + 1)
      else if st ≤ i then (some (st, i - st), i + 1)
      else fieldScan r (i + 1) 0 st
    else fieldScan r (i + 1) n st

/-- Field k of the sentence part, 0–254; another number is absent. -/
def fieldOf (txt : List Byte) (tag k : Nat) : Option (Nat × Nat) × Nat :=
  let (f, e) := fieldScan (txt.drop tag) tag k (tag + 1)
  (if k = 255 then none else f, if tag < txt.length then e else 0)

/-- A position word; FFFF_FFFFh for an absent field. -/
def posWord (f : Option (Nat × Nat)) : Word :=
  match f with
  | some (st, n) => wd (st * 65536 + n)
  | none => 0xFFFFFFFF

/-- The bytes of a field. -/
def fieldBytes (txt : List Byte) (f : Nat × Nat) : List Byte := (txt.drop f.1).take f.2

/-- The field number: sel8, or ga when sel8 is FFh; none raises FIELD (R462). -/
def fieldNo (s : State) (l c : Nat) (ga : BitVec 4) (sel : BitVec 8) : Option Nat :=
  if sel ≠ 0xFF then some sel.toNat
  else if bits (gv s l c ga) 31 8 ≠ 0 then none
  else some (gv s l c ga).toNat

/-- Commas up to the first '*' or the end, and one more than the highest index scanned. -/
def commaCount : List Byte → Nat → Nat × Nat
  | [], i => (0, i)
  | b :: r, i =>
    if b = 0x2A then (0, i + 1)
    else
      let (n, e) := commaCount r (i + 1)
      (if b = 0x2C then n + 1 else n, e)

/-- The value of a TAG parameter within the bytes 0 to TAGLEN − 1: `p` is the byte before. -/
def tagScan (x : Byte) : Byte → List Byte → Nat → Option (Nat × Nat) × Nat
  | _, [], i => (none, i)
  | _, [_], i => (none, i + 1)
  | p, b :: b' :: r, i =>
    if (p = 0x5C ∨ p = 0x2C) ∧ b = x ∧ b' = 0x3A then
      let n := (r.takeWhile (fun z => decide (z ≠ 0x2C) && decide (z ≠ 0x2A))).length
      (some (i + 2, n), min (i + 2 + n + 1) (i + 2 + r.length))
    else tagScan x b (b' :: r) (i + 1)

/-- The bytes from local address `a` up to the first 00h, when the string lies in data memory. -/
def cstrFrom (s : State) (l : Nat) : Nat → Nat → Option (List Byte)
  | 0, _ => none
  | n + 1, a =>
    let b := memByte s (aEngMem l + a)
    if b = 0 then some [] else (cstrFrom s l n (a + 1)).map (b :: ·)

/-- A 00h-terminated string in data memory (R458). -/
def cstr (s : State) (l a : Nat) : Option (List Byte) :=
  if 0x10000 ≤ a ∧ a < 0x20000 then cstrFrom s l (0x20000 - a) a else none

/-- An instruction on the window's text with a field. -/
def withField (l c : Nat) (ga : BitVec 4) (sel : BitVec 8) (f : List Byte → Option (Nat × Nat) → Nat → State → State) (s : State) :
    State :=
  match fieldNo s l c ga sel with
  | none => exc l c xField s
  | some k =>
    txHead l c (fun s =>
      let v := ctx s l c
      let (fd, e) := fieldOf (txText s v) (txTag v) k
      if txBad v e then exc l c xField s else f (txText s v) fd e s) s

/-- FPOS (R462). -/
def execFpos (l c : Nat) (gd ga : BitVec 4) (sel : BitVec 8) (s : State) : Host.Outcome State Fault Refusal :=
  issue l c (encFX 0x18 gd ga sel 0 0) (withField l c ga sel (fun _ fd e s => txEnd l c (txTag (ctx s l c)) e (resReg gd (posWord fd)) s)) s

/-- FCH (R462). -/
def execFch (l c : Nat) (gd ga : BitVec 4) (sel : BitVec 8) (s : State) : Host.Outcome State Fault Refusal :=
  issue l c (encFX 0x18 gd ga sel 1 0) (txHead l c (fun s =>
    let v := ctx s l c
    let i := (gv s l c ga).toNat + sel.toNat
    if txLen v ≤ i ∨ txBad v (i + 1) then exc l c xField s
    else txEnd l c i (i + 1) (resReg gd ((txByte s v i).setWidth 32)) s)) s

/-- FCNT (R462). -/
def execFcnt (l c : Nat) (gd ga : BitVec 4) (s : State) : Host.Outcome State Fault Refusal :=
  issue l c (encFX 0x18 gd ga 0 2 0) (txHead l c (fun s =>
    let v := ctx s l c
    let (n, e) := commaCount ((txText s v).drop (txTag v)) (txTag v)
    let e := if txTag v < txLen v then e else 0
    if txBad v e then exc l c xField s else txEnd l c (txTag (ctx s l c)) e (resReg gd (wd (n + 1))) s)) s

/-- FCPY (R462): a field, or with `whole` the whole text; `sel` is 0 then. -/
def execFcpy (l c : Nat) (gd ga : BitVec 4) (sel : BitVec 8) (whole : Bool) (s : State) : Host.Outcome State Fault Refusal :=
  issue l c (encFX 0x18 gd ga sel 3 (if whole then 1 else 0)) (fun s =>
    let v := ctx s l c
    let a := (gv s l c ga).toNat
    let copy := fun (bs : List Byte) (i e : Nat) (s : State) =>
      if inDmem a bs.length then
        txEnd l c i e { regs := [(gd.toNat, wd bs.length)], mem := [(aEngMem l + a, bs)] } s
      else txEnd l c i e (resExc xBuserr) s
    if sel = 0xFF ∨ (whole ∧ sel ≠ 0) then exc l c xIllegal s
    else if whole then
      txHead l c (fun s => if txBad v (txLen v) then exc l c xField s else copy (txText s v) 0 (txLen v) s) s
    else
      withField l c ga sel (fun txt fd e s => match fd with
        | some f => copy (fieldBytes txt f) (txTag v) e s
        | none => txEnd l c (txTag v) e (resReg gd 0xFFFFFFFF) s) s) s

/-- FTAG (R462). -/
def execFtag (l c : Nat) (gd ga : BitVec 4) (x : BitVec 8) (s : State) : Host.Outcome State Fault Refusal :=
  issue l c (encFX 0x18 gd ga x 4 0) (txHead l c (fun s =>
    let v := ctx s l c
    let (f, e) := match (txText s v).take (txTag v) with
      | [] => (none, 0)
      | b :: r => tagScan x b r 1
    if txBad v e then exc l c xField s else txEnd l c 0 e (resReg gd (posWord f)) s)) s

/-- FMATCH (R462). -/
def execFmatch (l c : Nat) (gd ga : BitVec 4) (sel : BitVec 8) (s : State) : Host.Outcome State Fault Refusal :=
  issue l c (encFX 0x18 gd ga sel 5 0) (fun s =>
    if sel = 0xFF then exc l c xIllegal s
    else
      withField l c ga sel (fun txt fd e s =>
        let a := (gv s l c ga).toNat
        match cstr s l a with
        | none => txEnd l c (txTag (ctx s l c)) e (resExc xBuserr) s
        | some str =>
          let (bad, s) := eccRead (aEngMem l + a) (str.length + 1) s
          if bad then txEnd l c (txTag (ctx s l c)) e (resExc xBuserr) s
          else
            let eq := match fd with
              | some f => decide (fieldBytes txt f = str)
              | none => false
            txEnd l c (txTag (ctx s l c)) e (resReg gd (wd (b2n eq))) s) s) s

/-! ### Numbers (R463–R465) -/

/-- A decimal digit, and a hex digit in either case, with its value. -/
def decDigit (b : Byte) : Option Nat := if 0x30 ≤ b.toNat ∧ b.toNat ≤ 0x39 then some (b.toNat - 0x30) else none
def hexValue (b : Byte) : Option Nat :=
  if 0x30 ≤ b.toNat ∧ b.toNat ≤ 0x39 then some (b.toNat - 0x30)
  else if 0x41 ≤ b.toNat ∧ b.toNat ≤ 0x46 then some (b.toNat - 0x37)
  else if 0x61 ≤ b.toNat ∧ b.toNat ≤ 0x66 then some (b.toNat - 0x57)
  else none

/-- The value of a string of digits to a base, all of whose bytes are digits. -/
def digitsVal (dig : Byte → Option Nat) (base : Nat) : List Byte → Nat → Option Nat
  | [], acc => some acc
  | b :: r, acc =>
    match dig b with
    | some d => digitsVal dig base r (acc * base + d)
    | none => none

/-- The number of a decimal field without its sign: all its digits as one number, and how many of them are decimals. -/
def decParse (bs : List Byte) : Option (Nat × Nat) :=
  let ip := bs.takeWhile (fun b => decide (b ≠ 0x2E))
  let fp := (bs.drop ip.length).drop 1
  if ip.length + fp.length = 0 then none else (digitsVal decDigit 10 (ip ++ fp) 0).map (fun n => (n, fp.length))

/-- n / 10^d × 10^s, rounded to nearest, halves away from zero (R463). -/
def scaleDec (n d s : Nat) : Nat := if d ≤ s then n * 10 ^ (s - d) else (2 * n + 10 ^ (d - s)) / (2 * 10 ^ (d - s))

/-- ndec of a field: none raises FIELD (R463). -/
def ndecVal (bs : List Byte) (s : Nat) : Option Word :=
  if bs = [] then some 0x80000000
  else if 24 < bs.length then none
  else
    let neg := decide (bs.head? = some 0x2D)
    let body := if bs.head? = some 0x2B ∨ bs.head? = some 0x2D then bs.drop 1 else bs
    match decParse body with
    | none => none
    | some (n, d) =>
      let v := scaleDec n d s
      if 0x7FFFFFFF < v then none else some (if neg then 0 - wd v else wd v)

/-- nhex of a field: none raises FIELD (R464). -/
def nhexVal (bs : List Byte) : Option Word :=
  if bs = [] ∨ 8 < bs.length then none else (digitsVal hexValue 16 bs 0).map wd

/-- NDEC (R463). -/
def execNdec (l c : Nat) (gd ga : BitVec 4) (sel : BitVec 8) (sc : BitVec 6) (s : State) : Host.Outcome State Fault Refusal :=
  issue l c (encFX 0x19 gd ga sel 0 sc) (fun s =>
    if 9 < sc.toNat then exc l c xIllegal s
    else
      withField l c ga sel (fun txt fd e s =>
        match ndecVal ((fd.map (fieldBytes txt)).getD []) sc.toNat with
        | some w => txEnd l c (txTag (ctx s l c)) e (resReg gd w) s
        | none => txEnd l c (txTag (ctx s l c)) e (resExc xField) s) s) s

/-- NHEX (R464). -/
def execNhex (l c : Nat) (gd ga : BitVec 4) (sel : BitVec 8) (s : State) : Host.Outcome State Fault Refusal :=
  issue l c (encFX 0x19 gd ga sel 1 0) (withField l c ga sel (fun txt fd e s =>
    match nhexVal ((fd.map (fieldBytes txt)).getD []) with
    | some w => txEnd l c (txTag (ctx s l c)) e (resReg gd w) s
    | none => txEnd l c (txTag (ctx s l c)) e (resExc xField) s)) s

/-- The low `k` digits of a number to a base, high first. -/
def fixDigits (base : Nat) : Nat → Nat → List Byte
  | 0, _ => []
  | k + 1, n => fixDigits base k (n / base) ++ [hexDigit (n % base)]

/-- The number of decimal digits of a number below 10^10, at least 1. -/
def decLen (n : Nat) : Nat := (((List.range 10).find? (fun k => decide (n < 10 ^ (k + 1)))).map (· + 1)).getD 10

/-- The text of nfmt (R465): S decimals, at least W integer digits. -/
def nfmtText (w : Word) (sc wid : Nat) : List Byte :=
  let v := (sgn w).natAbs
  let ip := v / 10 ^ sc
  (if sgn w < 0 then [0x2D] else []) ++ fixDigits 10 (max (max wid 1) (decLen ip)) ip ++
  (if 0 < sc then 0x2E :: fixDigits 10 sc (v % 10 ^ sc) else [])

/-- Write a text at the address in gd and advance gd past it (R465). -/
def putText (l c : Nat) (gd : BitVec 4) (bs : List Byte) (s : State) : State :=
  let a := (gv s l c gd).toNat
  if inDmem a bs.length then finish l c { regs := [(gd.toNat, wd (a + bs.length))], mem := [(aEngMem l + a, bs)] } s
  else exc l c xBuserr s

/-- NFMT (R465). -/
def execNfmt (l c : Nat) (gd ga : BitVec 4) (wid : BitVec 8) (sc : BitVec 6) (s : State) : Host.Outcome State Fault Refusal :=
  issue l c (encFX 0x19 gd ga wid 2 sc) (fun s =>
    if 9 < sc.toNat ∨ 10 < wid.toNat then exc l c xIllegal s
    else putText l c gd (nfmtText (gv s l c ga) sc.toNat wid.toNat) s) s

/-- NHEXF (R465). -/
def execNhexf (l c : Nat) (gd ga : BitVec 4) (d : BitVec 8) (s : State) : Host.Outcome State Fault Refusal :=
  issue l c (encFX 0x19 gd ga d 3 0) (fun s =>
    if d.toNat = 0 ∨ 8 < d.toNat then exc l c xIllegal s
    else putText l c gd (fixDigits 16 d.toNat (gv s l c ga).toNat) s) s

/-! ### Checksums and characters (cks) -/

/-- The cell window, and the place in it, of `n` bytes at local address `a` (R402). -/
def bufWin (c a n : Nat) : Option (Nat × Nat) :=
  let inWin := fun (b : Nat) => decide (b ≤ a) && decide (a + n ≤ b + 0x80)
  if inWin 0x20000 then some (c, a - 0x20000)
  else ((List.range 8).find? (fun k => inWin (0x20400 + 0x80 * k))).map (fun k => (k, a - (0x20400 + 0x80 * k)))

/-- Read `n` bytes of the cell window of context k. -/
def winRead (l k o n : Nat) (s : State) : Option (List Byte) × State :=
  let (bad, s) := if n = 0 then (false, s) else eccRead (aCtxWin l k + o) n s
  (if bad then none else some (winBytes (ctx s l k) o n), s)

/-- The bytes of data memory or of one cell window (R458, R402): none raises BUSERR. -/
def bufRead (l c a n : Nat) (s : State) : Option (List Byte) × State :=
  match bufWin c a n with
  | some w => winRead l w.1 w.2 n s
  | none => dmRead l a n s

/-- cxor and cxora. -/
def cxorOp (l c : Nat) (gd ga : BitVec 4) (n : BitVec 8) (acc : Bool) (s : State) : State :=
  match bufRead l c (gv s l c ga).toNat n.toNat s with
  | (some bs, s) => wr l c gd ((if acc then gv s l c gd else 0) ^^^ wd (xorBytes bs)) s
  | (none, s) => exc l c xBuserr s

/-- CXOR. -/
def execCxor (l c : Nat) (gd ga : BitVec 4) (n : BitVec 8) (s : State) : Host.Outcome State Fault Refusal :=
  issue l c (encFX 0x1A gd ga n 0 0) (cxorOp l c gd ga n false) s

/-- CXORA. -/
def execCxora (l c : Nat) (gd ga : BitVec 4) (n : BitVec 8) (s : State) : Host.Outcome State Fault Refusal :=
  issue l c (encFX 0x1A gd ga n 0 1) (cxorOp l c gd ga n true) s

/-- CHEX. -/
def execChex (l c : Nat) (gd ga : BitVec 4) (s : State) : Host.Outcome State Fault Refusal :=
  issue l c (encFX 0x1A gd ga 0 1 0) (fun s =>
    let a := gv s l c ga
    wr l c gd (wd ((hexDigit (bits a 7 4)).toNat + 256 * (hexDigit (bits a 3 0)).toNat)) s) s

/-- CUNHEX. -/
def execCunhex (l c : Nat) (gd ga : BitVec 4) (s : State) : Host.Outcome State Fault Refusal :=
  issue l c (encFX 0x1A gd ga 0 2 0) (fun s =>
    let a := gv s l c ga
    wr l c gd (match hexValue (a.extractLsb' 0 8), hexValue (a.extractLsb' 8 8) with
      | some h, some o => wd (16 * h + o)
      | _, _ => 0xFFFFFFFF) s) s

/-- The Reserved and the Invalid class (R229). -/
def isReservedChar (v : Nat) : Bool := [0x0D, 0x0A, 0x21, 0x24, 0x2A, 0x2C, 0x5C, 0x5E, 0x7E, 0x7F].contains v
def isInvalidChar (v : Nat) : Bool := (decide (v ≤ 0x1F) && decide (v ≠ 0x0D) && decide (v ≠ 0x0A)) || decide (0x7F ≤ v)

/-- CCLASS: the classes of R229. -/
def execCclass (l c : Nat) (gd ga : BitVec 4) (s : State) : Host.Outcome State Fault Refusal :=
  issue l c (encFX 0x1A gd ga 0 3 0) (fun s =>
    let v := bits (gv s l c ga) 8 0
    wr l c gd (wd (b2n (isOpening v) + 2 * b2n (isTagDelim v) + 4 * b2n (isAddrChar v) + 8 * b2n (isHexChar v) +
      16 * b2n (isDataChar v) + 32 * b2n (isReservedChar v) + 64 * b2n (isInvalidChar v))) s) s

end Sys2Proof.Machine
end

