-- ==== Sys2Proof/Machine/FzEmit.lean ====
section
/-!
DEFINITION. Fletrazar: emit, efwd, echain and emsg (R466–R471).
-/
namespace Sys2Proof.Machine

/-- The STAMP of the held sentence. -/
def heldStamp (s : State) (l c : Nat) : Option DWord := (ctx s l c).held.map (cellStamp s)

/-- Byte k of a descriptor, and its little-endian fields. -/
def dByte (d : List Byte) (k : Nat) : Nat := (d.getD k 0).toNat
def dNat (d : List Byte) (o n : Nat) : Nat := ofBytesLE ((d.drop o).take n)

/-- The text or body that a descriptor names, read when it lies in data memory (R458); `none` raises BUSERR. A length that the switch
refuses needs no text. -/
def descText (l : Nat) (d : List Byte) (lim : Nat) (s : State) : Option (List Byte) × State :=
  let n := dNat d 2 2
  if n = 0 ∨ lim < n then (some [], s) else dmRead l (0x10000 + dNat d 0 2) n s

/-- EMIT (R466–R468). -/
def execEmit (l c : Nat) (gd ga : BitVec 4) (s : State) : Host.Outcome State Fault Refusal :=
  issue l c (encFX 0x1B gd ga 0 0 0) (fun s =>
    withDesc l c (gv s l c ga).toNat 16 (fun d s =>
      let f := dByte d 4
      if 511 < dNat d 2 2 ∨ 15 < f ∨ dByte d 5 ≠ 0 ∨ 4095 < dNat d 6 2 ∨ (f.testBit 1 ∧ (ctx s l c).held = none) then
        exc l c xField s
      else
        match descText l d 352 s with
        | (none, s) => exc l c xBuserr s
        | (some txt, s) =>
          let q : EmitReq := { text := txt, ckadd := f.testBit 0, stamp := if f.testBit 1 then heldStamp s l c else none,
                               dl := if f.testBit 2 then some (dNat d 8 4) else none,
                               direct := if f.testBit 3 then some (dNat d 6 2) else none, user := dNat d 12 4 }
          blocking l c (.emit gd.toNat q) s) s) s

/-- EFWD (R469): bit 0 of `f` is KEEPSTAMP, bit 1 DROPTAG. -/
def execEfwd (l c : Nat) (gd ga : BitVec 4) (f : BitVec 2) (s : State) : Host.Outcome State Fault Refusal :=
  issue l c (encFX 0x1B gd ga 0 1 ((0 : BitVec 4) ++ f)) (fun s =>
    match (ctx s l c).held with
    | none => exc l c xField s
    | some cell => blocking l c (.efwd gd.toNat cell (f.getLsbD 0) (f.getLsbD 1)) s) s

/-- ECHAIN (R470): bit 0 of `f` is CKADD, bit 1 KEEPSTAMP. -/
def execEchain (l c : Nat) (gd ga : BitVec 4) (f : BitVec 2) (s : State) : Host.Outcome State Fault Refusal :=
  issue l c (encFX 0x1B gd ga 0 2 ((0 : BitVec 4) ++ f)) (fun s =>
    let k := (gv s l c ga).toNat
    let v := ctx s l c
    if 32767 < k ∨ (f.getLsbD 1 ∧ v.held = none) then exc l c xField s
    else blocking l c (.echain gd.toNat k (f.getLsbD 0) (if f.getLsbD 1 then heldStamp s l c else none)) s) s

/-- EMSG (R471). -/
def execEmsg (l c : Nat) (gd ga : BitVec 4) (s : State) : Host.Outcome State Fault Refusal :=
  issue l c (encFX 0x1B gd ga 0 3 0) (fun s =>
    withDesc l c (gv s l c ga).toNat 8 (fun d s =>
      if 511 < dNat d 2 2 ∨ 15 < dByte d 4 ∨ dByte d 5 ≠ 0 ∨ 4095 < dNat d 6 2 then exc l c xField s
      else
        match descText l d 252 s with
        | (none, s) => exc l c xBuserr s
        | (some body, s) => blocking l c (.emsg gd.toNat (dNat d 6 2) (dByte d 4) body) s) s) s

end Sys2Proof.Machine
end

