-- ==== Sys2Proof/Machine/FzCell.lean ====
section
/-!
DEFINITION. Fletrazar: cells (R476) and route tables (R477–R479).
-/
namespace Sys2Proof.Machine

/-! ### Cells (R476) -/

/-- CALLOC: one cell (`pair` = false) or a continuation pair, FILLING and owned by L. -/
def execCalloc (l c : Nat) (gd ga : BitVec 4) (pair : Bool) (s : State) : Host.Outcome State Fault Refusal :=
  issue l c (encFX 0x1F gd ga (if pair then 1 else 0) 0 0) (blocking l c (.calloc gd.toNat pair)) s

/-- CFREE: cell ga, and with `two` cell ga + 1. -/
def execCfree (l c : Nat) (gd ga : BitVec 4) (two : Bool) (s : State) : Host.Outcome State Fault Refusal :=
  issue l c (encFX 0x1F gd ga 0 1 (if two then 1 else 0)) (fun s =>
    let k := (gv s l c ga).toNat
    if 32767 < k + b2n two then exc l c xField s else blocking l c (.cfree k two) s) s

/-- CLD: the whole cell window is replaced. -/
def execCld (l c : Nat) (gd ga : BitVec 4) (s : State) : Host.Outcome State Fault Refusal :=
  issue l c (encFX 0x1F gd ga 0 2 0) (fun s =>
    let k := (gv s l c ga).toNat
    if 32767 < k then exc l c xField s else blocking l c (.cld k) s) s

/-- CST: into a cell that L owns, or a withheld one. -/
def execCst (l c : Nat) (gd ga : BitVec 4) (s : State) : Host.Outcome State Fault Refusal :=
  issue l c (encFX 0x1F gd ga 0 3 0) (fun s =>
    let k := (gv s l c ga).toNat
    if 32767 < k then exc l c xField s
    else
      let (bad, s) := eccRead (aCtxWin l c) 128 s
      if bad then exc l c xBuserr s else blocking l c (.cst k (winBytes (ctx s l c) 0 128)) s) s

/-- CREL: the handler ends (R398), and the reference is released at the store. -/
def execCrel (l c : Nat) (gd ga : BitVec 4) (s : State) : Host.Outcome State Fault Refusal :=
  issue l c (encFX 0x1F gd ga 0 4 0) (fun s =>
    let v := ctx s l c
    posted l c {} (.release v.held) (setCtx l c { v with held := none, budget := if v.held.isSome then 0 else v.budget } s)) s

/-! ### Route tables (R477–R479) -/

/-- A command block: none raises FIELD. -/
def camCmd (d : List Byte) : Option CamCmd :=
  let b := dByte d 2
  let tbl := b % 4
  let idx := dNat d 0 2
  if b.testBit 7 ∨ b.testBit 3 ∨ b.testBit 2 ∨ dByte d 3 ≠ 0 ∨ dNat d 6 2 ≠ 0 ∨ tbl = 3 ∨ 4095 < idx ∨ tblCount tbl ≤ idx then none
  else some { tbl := tbl, idx := idx, inactive := b.testBit 6, clrDec := b.testBit 5, clrHits := b.testBit 4,
              image := 0x10000 + dNat d 4 2 }

/-- A cam instruction: its command block at ga, and its image of `size` bytes in data memory (R458, R477); `f` reads what it needs. -/
def camOp (l c : Nat) (ga : BitVec 4) (bad : CamCmd → Bool) (f : CamCmd → State → State) (s : State) : State :=
  withDesc l c (gv s l c ga).toNat 8 (fun d s =>
    match camCmd d with
    | none => exc l c (if dNat d 4 2 % 4 ≠ 0 then xMisalign else xField) s
    | some k => if k.image % 4 ≠ 0 then exc l c xMisalign s else if bad k then exc l c xField s else f k s) s

/-- The image of `n` bytes that a cam instruction reads. -/
def camImage (l c n : Nat) (k : CamCmd) (f : List Byte → State → State) (s : State) : State :=
  match dmRead l k.image n s with
  | (none, s) => exc l c xBuserr s
  | (some img, s) => f img s

/-- CRD: the entry goes to data memory, HITS included; the image is only written (R478). -/
def execCrd (l c : Nat) (gd ga : BitVec 4) (s : State) : Host.Outcome State Fault Refusal :=
  issue l c (encFX 0x20 gd ga 0 0 0) (camOp l c ga (fun _ => false) (fun k s =>
    if inDmem k.image (tblEntry k.tbl) then blocking l c (.crd gd.toNat k) s else exc l c xBuserr s)) s

/-- CWR: replace an entry of the active bank (R298–R301), or write one of the inactive bank; refused, gd is 1 and CFG_ERR is set. -/
def execCwr (l c : Nat) (gd ga : BitVec 4) (s : State) (counted : Bool := false) : Host.Outcome State Fault Refusal :=
  issue l c (encFX 0x20 gd ga 0 1 0) (camOp l c ga (fun k => k.inactive && (k.clrDec || k.clrHits))
    (fun k => camImage l c (tblEntry k.tbl) k (fun img => blocking l c (.cwr gd.toNat k img counted)))) s

/-- CLOOK: the lowest matching index of the active bank; nothing is counted. -/
def execClook (l c : Nat) (gd ga : BitVec 4) (s : State) : Host.Outcome State Fault Refusal :=
  issue l c (encFX 0x20 gd ga 0 2 0) (camOp l c ga (fun k => decide (k.tbl ≠ 0))
    (fun k => camImage l c 8 k (fun img => blocking l c (.clook gd.toNat (ofBytesLE img))))) s

end Sys2Proof.Machine
end

