-- ==== Sys2Proof/Machine/FzEvt.lean ====
section
/-!
DEFINITION. Fletrazar: time (R473), events (R474) and discrete lines (R475).
-/
namespace Sys2Proof.Machine

/-! ### Pairs (R457) and time -/

/-- The value of a pair. -/
def gPair (s : State) (l c : Nat) (r : BitVec 4) : DWord := dword (gv s l c (pairHi r)) (gv s l c r)

/-- A pair that is no FTIME (R473). -/
def ftBad (d : DWord) : Bool := decide (999999999 < d.toNat % 2 ^ 30)

/-- A difference in nanoseconds, limited (R473). -/
def ftDiff (a b : DWord) : Word :=
  let d : Int := (ftNs a : Int) - (ftNs b : Int)
  if 2147483647 < d then 0x7FFFFFFF else if d < -2147483647 then 0x80000001 else BitVec.ofInt 32 d

/-- TNOW. -/
def execTnow (l c : Nat) (gd ga : BitVec 4) (s : State) : Host.Outcome State Fault Refusal :=
  issue l c (encFX 0x1C gd ga 0 0 0) (fun s =>
    if !isPair gd then exc l c xIllegal s else blocking l c (.now gd.toNat) s) s

/-- TDIFF. -/
def execTdiff (l c : Nat) (gd ga : BitVec 4) (s : State) : Host.Outcome State Fault Refusal :=
  issue l c (encFX 0x1C gd ga 0 1 0) (fun s =>
    let d := gPair s l c gd
    let a := gPair s l c ga
    if !isPair gd || !isPair ga then exc l c xIllegal s
    else if ftBad d || ftBad a then exc l c xField s
    else wr l c gd (ftDiff d a) s) s

/-- TADD. -/
def execTadd (l c : Nat) (gd ga : BitVec 4) (s : State) : Host.Outcome State Fault Refusal :=
  issue l c (encFX 0x1C gd ga 0 2 0) (fun s =>
    let d := gPair s l c gd
    if !isPair gd then exc l c xIllegal s
    else if ftBad d then exc l c xField s
    else finish l c (resPair gd (ftAdd d (sgn (gv s l c ga)))) s) s

/-- TDL (R317). -/
def execTdl (l c : Nat) (gd ga : BitVec 4) (s : State) : Host.Outcome State Fault Refusal :=
  issue l c (encFX 0x1C gd ga 0 3 0) (fun s =>
    let a := gPair s l c ga
    let v : Word := a.extractLsb' 10 32
    if !isPair ga then exc l c xIllegal s
    else if ftBad a then exc l c xField s
    else wr l c gd (if v = 0 then 1 else v) s) s

/-! ### Events (R389–R392, R474) -/

/-- WAIT: `cond` names DISP, MSG, EVT, TMO. A wait that names DISP ends the handler (R398); one whose MSG or EVT condition holds
completes at once (R390). -/
def execWait (l c : Nat) (gd ga : BitVec 4) (cond : BitVec 4) (s : State) : Host.Outcome State Fault Refusal :=
  issue l c (encFX 0x1D gd ga ((0 : BitVec 4) ++ cond) 0 0) (fun s =>
    let t := (gv s l c ga).toNat
    let tmo := cond.getLsbD 3
    if cond = 0 then exc l c xIllegal s
    else if tmo ∧ (t = 0 ∨ 16777215 < t) then exc l c xField s
    else
      let s := if cond.getLsbD 0 then endHandler l c s else s
      match wakeCond l c cond s with
      | some (k, s) => wr l c gd k s
      | none =>
        atBoundary l c (setCtx l c { ctx s l c with st := .wait,
                                                    wait := some { cond := cond, t := if tmo then t else 0, gd := gd.toNat } } s)) s

/-- SIGNAL: the latch of context k of logical engine ga, and STAT.SIGNAL; a signal to the own engine crosses no gate. -/
def execSignal (l c : Nat) (gd ga : BitVec 4) (k : BitVec 3) (s : State) : Host.Outcome State Fault Refusal :=
  issue l c (encFX 0x1D gd ga ((0 : BitVec 5) ++ k) 1 0) (fun s =>
    let t := (gv s l c ga).toNat
    if 15 < t then exc l c xField s
    else if t = l then engFlag t 14 (setLatch t k.toNat (finish l c {} s))
    else posted l c {} (.signal t k.toNat) s) s

/-- YIELD (R387): the context is READY, and the last of its level in the rotation. -/
def execYield (l c : Nat) (gd ga : BitVec 4) (s : State) : Host.Outcome State Fault Refusal :=
  issue l c (encFX 0x1D gd ga 0 2 0) (fun s =>
    let hi := (ctx s l c).hi
    let s := setEng s l (if hi then { eng s l with lastHi := c } else { eng s l with lastLo := c })
    applyRes l c {} .ready s) s

/-- SWE: software event 112 + n (R656). -/
def execSwe (l c : Nat) (gd ga : BitVec 4) (n : BitVec 4) (s : State) : Host.Outcome State Fault Refusal :=
  issue l c (encFX 0x1D gd ga ((0 : BitVec 4) ++ n) 3 0) (posted l c {} (.swe n.toNat)) s

/-! ### Discrete lines (R475, R635) -/

/-- dlwr with op 0 clr, 1 set, 2 tog. -/
def dlwrOp (l c : Nat) (gd ga : BitVec 4) (op : BitVec 6) (s : State) : Host.Outcome State Fault Refusal :=
  issue l c (encFX 0x1E gd ga 0 0 op) (fun s => posted l c {} (.dlwr op.toNat (gv s l c ga)) s) s

/-- DLWR_CLR. -/
def execDlwrClr (l c : Nat) (gd ga : BitVec 4) (s : State) : Host.Outcome State Fault Refusal := dlwrOp l c gd ga 0 s

/-- DLWR_SET. -/
def execDlwrSet (l c : Nat) (gd ga : BitVec 4) (s : State) : Host.Outcome State Fault Refusal := dlwrOp l c gd ga 1 s

/-- DLWR_TOG. -/
def execDlwrTog (l c : Nat) (gd ga : BitVec 4) (s : State) : Host.Outcome State Fault Refusal := dlwrOp l c gd ga 2 s

/-- DLRD. -/
def execDlrd (l c : Nat) (gd ga : BitVec 4) (s : State) : Host.Outcome State Fault Refusal :=
  issue l c (encFX 0x1E gd ga 0 1 0) (blocking l c (.dlrd gd.toNat)) s

end Sys2Proof.Machine
end

