-- ==== Sys2Proof/Machine/FzFab.lean ====
section
/-!
DEFINITION. Fletrazar: fabric instructions (R480, R481).
-/
namespace Sys2Proof.Machine

/-- A read or a non-posted write (R480): BUSERR for node FFFh. A node in HALTER sends nothing, and the transaction fails (R523). -/
def fabBlocking (l c : Nat) (x : FabOp) (s : State) : State :=
  if x.node = 0xFFF then exc l c xBuserr s else blocking l c (.fab x) s

/-- A posted write (R480, R571, R576). -/
def fabPost (l c : Nat) (x : FabOp) (s : State) : State := posted l c { regs := [(x.gd, 0)] } (.fabPost x) s

/-- A fabric address in the pair ga (R480): none raises FIELD. -/
def fabAddr (s : State) (l c : Nat) (ga : BitVec 4) : Option (Nat × Nat) :=
  let hi := gv s l c (ga + 1)
  let a := bits hi 15 0 * 2 ^ 32 + (gv s l c ga).toNat
  if bits hi 31 16 ≠ 0 then none else some (a / 2 ^ 36, a % 2 ^ 36)

/-- The checks of frd and fwr: a pair, an aligned address, 48 bits. -/
def fabWord (l c : Nat) (ga : BitVec 4) (f : Nat → Nat → State → State) (s : State) : State :=
  if !isPair ga then exc l c xIllegal s
  else if bits (gv s l c ga) 1 0 ≠ 0 then exc l c xMisalign s
  else
    match fabAddr s l c ga with
    | none => exc l c xField s
    | some (n, o) => f n o s

/-- FRD (R480). -/
def execFrd (l c : Nat) (gd ga : BitVec 4) (s : State) : Host.Outcome State Fault Refusal :=
  issue l c (encFX 0x21 gd ga 0 0 0) (fabWord l c ga (fun n o s =>
    fabBlocking l c { node := n, off := o, len := 4, data := none, gd := gd.toNat } s)) s

/-- FWR (R480): non-posted. -/
def execFwr (l c : Nat) (gd ga : BitVec 4) (s : State) : Host.Outcome State Fault Refusal :=
  issue l c (encFX 0x21 gd ga 0 1 0) (fabWord l c ga (fun n o s =>
    fabBlocking l c { node := n, off := o, len := 4, data := some (wordBytes (gv s l c gd)), gd := 0 } s)) s

/-- FWRP (R480): posted. -/
def execFwrp (l c : Nat) (gd ga : BitVec 4) (s : State) : Host.Outcome State Fault Refusal :=
  issue l c (encFX 0x21 gd ga 0 1 1) (fabWord l c ga (fun n o s =>
    fabPost l c { node := n, off := o, len := 4, data := some (wordBytes (gv s l c gd)), gd := 0 } s)) s

/-- FBLK (R481). -/
def execFblk (l c : Nat) (gd ga : BitVec 4) (s : State) : Host.Outcome State Fault Refusal :=
  issue l c (encFX 0x21 gd ga 0 2 0) (fun s =>
    withDesc l c (gv s l c ga).toNat 16 (fun d s =>
      let byte := fun (k : Nat) => (d.getD k 0).toNat
      let num := fun (o n : Nat) => ofBytesLE ((d.drop o).take n)
      let a := num 0 6
      let n := num 10 2
      let write := decide (byte 12 % 2 = 1)
      let post := decide (2 ≤ byte 12)
      if n = 0 ∨ 256 < n ∨ 256 < a % 256 + n ∨ (post ∧ !write) ∨ num 6 2 ≠ 0 ∨ 3 < byte 12 ∨ num 13 3 ≠ 0 then exc l c xField s
      else
        let buf := 0x10000 + num 8 2
        let x : FabOp := { node := a / 2 ^ 36, off := a % 2 ^ 36, len := n, data := none, gd := gd.toNat }
        if write then
          match dmRead l buf n s with
          | (none, s) => exc l c xBuserr s
          | (some bs, s) =>
            let x := { x with data := some bs }
            if post then fabPost l c x s else fabBlocking l c x s
        else if inDmem buf n then fabBlocking l c { x with dmem := some (aEngMem l + buf) } s
        else exc l c xBuserr s) s) s

/-- FFENCE (R480): the context blocks until every posted write of L that was taken before has completed or failed. -/
def execFfence (l c : Nat) (gd ga : BitVec 4) (s : State) : Host.Outcome State Fault Refusal :=
  issue l c (encFX 0x21 gd ga 0 3 0) (blocking l c (.fence gd.toNat)) s

end Sys2Proof.Machine
end

