-- ==== Sys2Proof/Machine/FzSys.lean ====
section
/-!
DEFINITION. Fletrazar: the sys functions (R444, R445, R449, R482).
-/
namespace Sys2Proof.Machine

/-- NOP (R444). -/
def execNop (l c : Nat) (s : State) : Host.Outcome State Fault Refusal := issue l c (encSys 0 0 0 0x00 0) (finish l c {}) s

/-- TRAP (R406, R444, R449): epc is the next instruction. -/
def execTrap (l c : Nat) (code : BitVec 8) (s : State) : Host.Outcome State Fault Refusal :=
  issue l c (encSys 0 0 0 0x01 code) (fun s => takeExc l c 7 ((ctx s l c).pc + 4) .run s) s

/-- ERET (R444): ILLEGAL when EXL is 0. -/
def execEret (l c : Nat) (s : State) : Host.Outcome State Fault Refusal :=
  issue l c (encSys 0 0 0 0x02 0) (fun s =>
    let v := ctx s l c
    if v.exl then atBoundary l c (setCtx l c { v with pc := v.epc, exl := false } s) else exc l c xIllegal s) s

/-- HALT (R386, R398, R444): the context stops after the instruction and its handler ends. -/
def execHalt (l c : Nat) (s : State) : Host.Outcome State Fault Refusal :=
  issue l c (encSys 0 0 0 0x03 0) (fun s =>
    endHandler l c (atBoundary l c (setCtx l c { ctx s l c with st := .halt, pc := (ctx s l c).pc + 4 } s))) s

/-- IFENCE (R404, R444). -/
def execIfence (l c : Nat) (s : State) : Host.Outcome State Fault Refusal :=
  issue l c (encSys 0 0 0 0x04 0) (fun s => finish l c {} (setCtx l c { ctx s l c with stale := [] } s)) s

/-- The value of a special register (R405, R429). -/
def sprRead (s : State) (l c : Nat) (n : BitVec 2) : Word :=
  let v := ctx s l c
  if n = 0 then ctxStWord v else if n = 1 then wd v.cause else if n = 2 then v.epc.setWidth 32 else wd (l * 16 + c)

/-- Write a special register (R445): cause and ctx do not change. -/
def sprWrite (v : CtxSt) (n : BitVec 2) (w : Word) : CtxSt :=
  if n = 0 then { v with nopre := bit w 3, exl := bit w 0 }
  else if n = 2 then { v with epc := w.setWidth 16 &&& 0xFFFC }
  else v

/-- MFS (R429, R444). -/
def execMfs (l c : Nat) (gd : BitVec 4) (spr : BitVec 2) (s : State) : Host.Outcome State Fault Refusal :=
  issue l c (encSys gd 0 ((0 : BitVec 2) ++ spr) 0x05 0) (fun s => wr l c gd (sprRead s l c spr) s) s

/-- MTS (R445). -/
def execMts (l c : Nat) (ga : BitVec 4) (spr : BitVec 2) (s : State) : Host.Outcome State Fault Refusal :=
  issue l c (encSys 0 ga ((0 : BitVec 2) ++ spr) 0x06 0) (fun s =>
    finish l c {} (setCtx l c (sprWrite (ctx s l c) spr (gv s l c ga)) s)) s

/-- BUDGET (R399, R482). -/
def execBudget (l c : Nat) (ga : BitVec 4) (s : State) : Host.Outcome State Fault Refusal :=
  issue l c (encSys 0 ga 0 0x10 0) (fun s =>
    let n := (gv s l c ga).toNat
    if n = 0 ∨ fld s (aEng l 0x00) 27 8 < n then exc l c xField s
    else
      let v := ctx s l c
      finish l c {} (if v.held.isSome then setCtx l c { v with budget := 5 * n } s else s)) s

/-- BLEFT (R482). -/
def execBleft (l c : Nat) (gd : BitVec 4) (s : State) : Host.Outcome State Fault Refusal :=
  issue l c (encSys gd 0 0 0x11 0) (fun s => wr l c gd (wd (budgetLeft (ctx s l c))) s) s

/-- CSTART (R388, R415, R482): a context in another state than IDLE or HALT refuses the START. -/
def execCstart (l c : Nat) (gd ga gb : BitVec 4) (s : State) : Host.Outcome State Fault Refusal :=
  issue l c (encSys gd ga gb 0x12 0) (fun s =>
    let k := (gv s l c ga).toNat
    let p := gv s l c gb
    if 7 < k ∨ bits p 31 16 ≠ 0 ∨ bits p 1 0 ≠ 0 then exc l c xField s
    else if ctxStartable s l k then wr l c gd 0 (ctxStart l k (setCtx l k { ctx s l k with pc := p.setWidth 16 } s))
    else wr l c gd 1 (engCfgErr l s)) s

/-- CSTOP (R388, R482). -/
def execCstop (l c : Nat) (ga : BitVec 4) (s : State) : Host.Outcome State Fault Refusal :=
  issue l c (encSys 0 ga 0 0x13 0) (fun s =>
    let k := (gv s l c ga).toNat
    if 7 < k then exc l c xField s else ctxStop l k (finish l c {} s)) s

/-- CSTAT (R414, R482). -/
def execCstat (l c : Nat) (gd ga : BitVec 4) (s : State) : Host.Outcome State Fault Refusal :=
  issue l c (encSys gd ga 0 0x14 0) (fun s =>
    let k := (gv s l c ga).toNat
    if 7 < k then exc l c xField s else wr l c gd (ctxStatWord s l k) s) s

end Sys2Proof.Machine
end

