-- ==== Sys2Proof/Machine/Tick.lean ====
section
/-!
DEFINITION. What one 2 ns clock does by itself (log entry 16): FTIME (R345), the bit-time counters of the CAN controllers (R600), the
budgets of handlers (R399), fabric requests that may now be launched (R575), and engine requests that the switch may now take (R576).
-/
namespace Sys2Proof.Machine

/-- The bit-time counter of CAN k (R600) advances by a 2 ns clock; a CAN clock is 12.5 ns, so the divider counts half nanoseconds. A
changed NBT gives the period from the next advance on. -/
def btcTick (s : State) (k : Nat) : State :=
  let v := canSt s k
  let load := 25 * nbtBit (getReg s (aCan k 0x0C))
  let per := if v.btcPer = 0 then load else v.btcPer
  let acc := v.btcAcc + 4
  if per ≤ acc then setCan (trafInc s (aCan k 0x18)) k { v with btcAcc := acc - per, btcPer := load }
  else setCan s k { v with btcAcc := acc, btcPer := per }

/-- The stamping counts (R157) advance by a 2 ns clock: a port clock is 5 ns and a CAN clock 12.5 ns, kept in quarter nanoseconds. -/
def countTick (s : State) : State :=
  setTime s (fun t =>
    let p := t.ppAcc + 8
    let c := t.canAcc + 8
    { t with ppCount := t.ppCount + wd (p / 20), ppAcc := p % 20, canCount := t.canCount + wd (c / 50), canAcc := c % 50 })

/-- The clocks run: the device is out of reset and not in OFF or STABLED. -/
def clocksRun (s : State) : Bool := awake s && s.power.loaded

/-- One 2 ns clock. -/
def tick (s : State) : State :=
  let s := { s with now := s.now + 1 }
  let s := if awake s then countTick s else s
  if clocksRun s then followAge (gatesDrain (pump (budgetTick (btcTick (btcTick (timeTick s) 0) 1)))) else s

end Sys2Proof.Machine
end

