-- ==== Sys2Proof/Machine/Dispatch.lean ====
section
/-!
DEFINITION. The effect of each command on everything but the queue: one direct call of its meaning.
-/
namespace Sys2Proof.Machine

/-- The effect of a command. -/
def exec (i : Instr) (s : State) : Host.Outcome State Fault Refusal :=
  match i with
  | .powerOnReset => Sys2Proof.Machine.execPowerOnReset s
  | .pinReset torn => Sys2Proof.Machine.execPinReset s torn
  | .rstCmdFullSoft key torn => Sys2Proof.Machine.execRstCmdFullSoft key s torn
  | .rstCmdCoreRestart key torn => Sys2Proof.Machine.execRstCmdCoreRestart key s torn
  | .resetEnd mode testen refaGood => Sys2Proof.Machine.execResetEnd mode testen refaGood s
  | .halterEntry => Sys2Proof.Machine.execHalterEntry s
  | .ioRailFail r => Sys2Proof.Machine.execIoRailFail r s
  | .ioRailGood r code => Sys2Proof.Machine.execIoRailGood r code s
  | .refaFail => Sys2Proof.Machine.execRefaFail s
  | .faultCmd key => Sys2Proof.Machine.execFaultCmd key s
  | .wdogKick k v => Sys2Proof.Machine.execWdogKick k v s
  | .wdogExpiry k served torn => Sys2Proof.Machine.execWdogExpiry k s served torn
  | .wdogCtlWrite k v => Sys2Proof.Machine.execWdogCtlWrite k v s
  | .sleepCmd v => Sys2Proof.Machine.execSleepCmd v s
  | .sleepDrainEnd => Sys2Proof.Machine.execSleepDrainEnd s
  | .stabledEntry => Sys2Proof.Machine.execStabledEntry s
  | .wakeDetect ws => Sys2Proof.Machine.execWakeDetect ws s
  | .wakeEnd slept => Sys2Proof.Machine.execWakeEnd slept s
  | .wakeOut v => Sys2Proof.Machine.execWakeOut v s
  | .wakeOutEnd => Sys2Proof.Machine.execWakeOutEnd s
  | .stripWindowEnd => Sys2Proof.Machine.execStripWindowEnd s
  | .registerWrite a v be => Sys2Proof.Machine.execRegisterWrite a v be s
  | .gatePeerReset g dst lag recent part => Sys2Proof.Machine.execGatePeerReset g dst lag recent s part
  | .startEdge n ago low v echo idleDue tmoDue tx => Sys2Proof.Machine.execStartEdge n ago low v echo idleDue tmoDue s tx
  | .characterReceipt n votes amp cm fresh => Sys2Proof.Machine.execCharacterReceipt n votes amp cm s fresh
  | .idleTimerExpiry n => Sys2Proof.Machine.execIdleTimerExpiry n s
  | .rawTimeoutExpiry n => Sys2Proof.Machine.execRawTimeoutExpiry n s
  | .portModeWrite n v => Sys2Proof.Machine.execPortModeWrite n v s
  | .swapRequest n v => Sys2Proof.Machine.execSwapRequest n v s
  | .sliceSwap n => Sys2Proof.Machine.execSliceSwap n s
  | .swapwaitExpiry n => Sys2Proof.Machine.execSwapwaitExpiry n s
  | .forcedSwap n => Sys2Proof.Machine.execForcedSwap n s
  | .measStart n v => Sys2Proof.Machine.execMeasStart n v s
  | .measWindowEnd n runs after => Sys2Proof.Machine.execMeasWindowEnd n runs after s
  | .sentenceSelect n => Sys2Proof.Machine.execSentenceSelect n s
  | .txCharacterLoad n load => Sys2Proof.Machine.execTxCharacterLoad n load s
  | .sentenceTxEnd n load => Sys2Proof.Machine.execSentenceTxEnd n load s
  | .collisionDetect n k level => Sys2Proof.Machine.execCollisionDetect n s k level
  | .backoffExpiry n => Sys2Proof.Machine.execBackoffExpiry n s
  | .dirLeadExpiry n => Sys2Proof.Machine.execDirLeadExpiry n s
  | .dirTrailExpiry n => Sys2Proof.Machine.execDirTrailExpiry n s
  | .tilePwrEn k v => Sys2Proof.Machine.execTilePwrEn k v s
  | .pgoodRise k => Sys2Proof.Machine.execPgoodRise k s
  | .pwrFault k => Sys2Proof.Machine.execPwrFault k s
  | .converterRetry k => Sys2Proof.Machine.execConverterRetry k s
  | .vltUvChange uv => Sys2Proof.Machine.execVltUvChange uv s
  | .rxOpenDetect p => Sys2Proof.Machine.execRxOpenDetect p s
  | .rxZeroDetect p => Sys2Proof.Machine.execRxZeroDetect p s
  | .txShort p => Sys2Proof.Machine.execTxShort p s
  | .txShortRetry p => Sys2Proof.Machine.execTxShortRetry p s
  | .tileOvertemp k => Sys2Proof.Machine.execTileOvertemp k s
  | .tileTempRecover k => Sys2Proof.Machine.execTileTempRecover k s
  | .restDetect p space moved written => Sys2Proof.Machine.execRestDetect p space moved s written
  | .parserItem n => Sys2Proof.Machine.execParserItem n s
  | .ctGapExpiry p => Sys2Proof.Machine.execCtGapExpiry p s
  | .sweepPass k => Sys2Proof.Machine.execSweepPass s k
  | .rawItem n => Sys2Proof.Machine.execRawItem n s
  | .poolRsvWrite v => Sys2Proof.Machine.execPoolRsvWrite v s
  | .tableSwap v => Sys2Proof.Machine.execTableSwap v s
  | .tableCopy v => Sys2Proof.Machine.execTableCopy v s
  | .tableCopyDone => Sys2Proof.Machine.execTableCopyDone s
  | .stagedUpdate v counted => Sys2Proof.Machine.execStagedUpdate v s counted
  | .hmbInWrite m v => Sys2Proof.Machine.execHmbInWrite m v s
  | .hmbInboundItem m => Sys2Proof.Machine.execHmbInboundItem m s
  | .hmbOutRead m => Sys2Proof.Machine.execHmbOutRead m s
  | .fifoFlush f v => Sys2Proof.Machine.execFifoFlush f v s
  | .emqRdataRead l => Sys2Proof.Machine.execEmqRdataRead l s
  | .refreshLaunch => Sys2Proof.Machine.execRefreshLaunch s
  | .refreshPair clk ago acked => Sys2Proof.Machine.execRefreshPair clk ago acked s
  | .timeLoad => Sys2Proof.Machine.execTimeLoad s
  | .timeAtSample => Sys2Proof.Machine.execTimeAtSample s
  | .timeAdjust => Sys2Proof.Machine.execTimeAdjust s
  | .timeNowRead => Sys2Proof.Machine.execTimeNowRead s
  | .timeSrcWrite v => Sys2Proof.Machine.execTimeSrcWrite v s
  | .timeRateWrite v => Sys2Proof.Machine.execTimeRateWrite v s
  | .ppsEdge b => Sys2Proof.Machine.execPpsEdge b s
  | .ppsWindowMiss => Sys2Proof.Machine.execPpsWindowMiss s
  | .leapArm v => Sys2Proof.Machine.execLeapArm v s
  | .ppsoutPulse => Sys2Proof.Machine.execPpsoutPulse s
  | .ppsoutEnd => Sys2Proof.Machine.execPpsoutEnd s
  | .syncSend => Sys2Proof.Machine.execSyncSend s
  | .syncReceive m => Sys2Proof.Machine.execSyncReceive m s
  | .syncMiss => Sys2Proof.Machine.execSyncMiss s
  | .pdReqSend => Sys2Proof.Machine.execPdReqSend s
  | .pdReqReceive m => Sys2Proof.Machine.execPdReqReceive m s
  | .pdRespReceive m => Sys2Proof.Machine.execPdRespReceive m s
  | .pdTimeout m => Sys2Proof.Machine.execPdTimeout m s
  | .shutterRead => Sys2Proof.Machine.execShutterRead s
  | .dlRawEdge k ago more accept => Sys2Proof.Machine.execDlRawEdge k ago s more accept
  | .dlEdgeAccept k more => Sys2Proof.Machine.execDlEdgeAccept k s more
  | .dlPeriodOverflow k => Sys2Proof.Machine.execDlPeriodOverflow k s
  | .dlCfgWrite k v => Sys2Proof.Machine.execDlCfgWrite k v s
  | .dlShutDebWrite v => Sys2Proof.Machine.execDlShutDebWrite v s
  | .dlOutWrite v => Sys2Proof.Machine.execDlOutWrite v s
  | .dlOutSet v => Sys2Proof.Machine.execDlOutSet v s
  | .dlOutClr v => Sys2Proof.Machine.execDlOutClr v s
  | .dlOutTog v => Sys2Proof.Machine.execDlOutTog v s
  | .dlPwmPeriod k => Sys2Proof.Machine.execDlPwmPeriod k s
  | .dlPwmHighEnd k => Sys2Proof.Machine.execDlPwmHighEnd k s
  | .dlHbToggle k => Sys2Proof.Machine.execDlHbToggle k s
  | .dlHbStarve k fed more => Sys2Proof.Machine.execDlHbStarve k s fed more
  | .dlDriveFault k more starve => Sys2Proof.Machine.execDlDriveFault k s more starve
  | .ctxStart l c v => Sys2Proof.Machine.execCtxStart l c v s
  | .ctxStop l c v => Sys2Proof.Machine.execCtxStop l c v s
  | .engineHold l v => Sys2Proof.Machine.execEngineHold l v s
  | .engineRelease l v => Sys2Proof.Machine.execEngineRelease l v s
  | .schedulerSelect l => Sys2Proof.Machine.execSchedulerSelect l s
  | .dispatch l => Sys2Proof.Machine.execDispatch l s
  | .waitWake l c => Sys2Proof.Machine.execWaitWake l c s
  | .waitTimeout l c => Sys2Proof.Machine.execWaitTimeout l c s
  | .responseArrival l c => Sys2Proof.Machine.execResponseArrival l c s
  | .budgetExpiry l c => Sys2Proof.Machine.execBudgetExpiry l c s
  | .add l c gd ga gb => Sys2Proof.Machine.execAdd l c gd ga gb s
  | .sub l c gd ga gb => Sys2Proof.Machine.execSub l c gd ga gb s
  | .and l c gd ga gb => Sys2Proof.Machine.execAnd l c gd ga gb s
  | .or l c gd ga gb => Sys2Proof.Machine.execOr l c gd ga gb s
  | .xor l c gd ga gb => Sys2Proof.Machine.execXor l c gd ga gb s
  | .nor l c gd ga gb => Sys2Proof.Machine.execNor l c gd ga gb s
  | .sll l c gd ga gb => Sys2Proof.Machine.execSll l c gd ga gb s
  | .srl l c gd ga gb => Sys2Proof.Machine.execSrl l c gd ga gb s
  | .sra l c gd ga gb => Sys2Proof.Machine.execSra l c gd ga gb s
  | .slt l c gd ga gb => Sys2Proof.Machine.execSlt l c gd ga gb s
  | .sltu l c gd ga gb => Sys2Proof.Machine.execSltu l c gd ga gb s
  | .mul l c gd ga gb => Sys2Proof.Machine.execMul l c gd ga gb s
  | .mulh l c gd ga gb => Sys2Proof.Machine.execMulh l c gd ga gb s
  | .mulhu l c gd ga gb => Sys2Proof.Machine.execMulhu l c gd ga gb s
  | .div l c gd ga gb => Sys2Proof.Machine.execDiv l c gd ga gb s
  | .divu l c gd ga gb => Sys2Proof.Machine.execDivu l c gd ga gb s
  | .rem l c gd ga gb => Sys2Proof.Machine.execRem l c gd ga gb s
  | .remu l c gd ga gb => Sys2Proof.Machine.execRemu l c gd ga gb s
  | .min l c gd ga gb => Sys2Proof.Machine.execMin l c gd ga gb s
  | .max l c gd ga gb => Sys2Proof.Machine.execMax l c gd ga gb s
  | .minu l c gd ga gb => Sys2Proof.Machine.execMinu l c gd ga gb s
  | .maxu l c gd ga gb => Sys2Proof.Machine.execMaxu l c gd ga gb s
  | .clz l c gd ga => Sys2Proof.Machine.execClz l c gd ga s
  | .popc l c gd ga => Sys2Proof.Machine.execPopc l c gd ga s
  | .addi l c gd ga imm => Sys2Proof.Machine.execAddi l c gd ga imm s
  | .andi l c gd ga imm => Sys2Proof.Machine.execAndi l c gd ga imm s
  | .ori l c gd ga imm => Sys2Proof.Machine.execOri l c gd ga imm s
  | .xori l c gd ga imm => Sys2Proof.Machine.execXori l c gd ga imm s
  | .lui l c gd imm => Sys2Proof.Machine.execLui l c gd imm s
  | .slti l c gd ga imm => Sys2Proof.Machine.execSlti l c gd ga imm s
  | .slli l c gd ga amt => Sys2Proof.Machine.execSlli l c gd ga amt s
  | .srli l c gd ga amt => Sys2Proof.Machine.execSrli l c gd ga amt s
  | .srai l c gd ga amt => Sys2Proof.Machine.execSrai l c gd ga amt s
  | .lw l c gd ga imm => Sys2Proof.Machine.execLw l c gd ga imm s
  | .lh l c gd ga imm => Sys2Proof.Machine.execLh l c gd ga imm s
  | .lhu l c gd ga imm => Sys2Proof.Machine.execLhu l c gd ga imm s
  | .lb l c gd ga imm => Sys2Proof.Machine.execLb l c gd ga imm s
  | .lbu l c gd ga imm => Sys2Proof.Machine.execLbu l c gd ga imm s
  | .sw l c gs ga imm => Sys2Proof.Machine.execSw l c gs ga imm s
  | .sh l c gs ga imm => Sys2Proof.Machine.execSh l c gs ga imm s
  | .sb l c gs ga imm => Sys2Proof.Machine.execSb l c gs ga imm s
  | .beq l c ga gb off => Sys2Proof.Machine.execBeq l c ga gb off s
  | .bne l c ga gb off => Sys2Proof.Machine.execBne l c ga gb off s
  | .blt l c ga gb off => Sys2Proof.Machine.execBlt l c ga gb off s
  | .bge l c ga gb off => Sys2Proof.Machine.execBge l c ga gb off s
  | .bltu l c ga gb off => Sys2Proof.Machine.execBltu l c ga gb off s
  | .bgeu l c ga gb off => Sys2Proof.Machine.execBgeu l c ga gb off s
  | .jal l c gd imm => Sys2Proof.Machine.execJal l c gd imm s
  | .jalr l c gd ga imm => Sys2Proof.Machine.execJalr l c gd ga imm s
  | .nop l c => Sys2Proof.Machine.execNop l c s
  | .trap l c code => Sys2Proof.Machine.execTrap l c code s
  | .eret l c => Sys2Proof.Machine.execEret l c s
  | .halt l c => Sys2Proof.Machine.execHalt l c s
  | .ifence l c => Sys2Proof.Machine.execIfence l c s
  | .mfs l c gd spr => Sys2Proof.Machine.execMfs l c gd spr s
  | .mts l c ga spr => Sys2Proof.Machine.execMts l c ga spr s
  | .budget l c ga => Sys2Proof.Machine.execBudget l c ga s
  | .bleft l c gd => Sys2Proof.Machine.execBleft l c gd s
  | .cstart l c gd ga gb => Sys2Proof.Machine.execCstart l c gd ga gb s
  | .cstop l c ga => Sys2Proof.Machine.execCstop l c ga s
  | .cstat l c gd ga => Sys2Proof.Machine.execCstat l c gd ga s
  | .fpos l c gd ga sel => Sys2Proof.Machine.execFpos l c gd ga sel s
  | .fch l c gd ga sel => Sys2Proof.Machine.execFch l c gd ga sel s
  | .fcnt l c gd ga => Sys2Proof.Machine.execFcnt l c gd ga s
  | .fcpy l c gd ga sel whole => Sys2Proof.Machine.execFcpy l c gd ga sel whole s
  | .ftag l c gd ga x => Sys2Proof.Machine.execFtag l c gd ga x s
  | .fmatch l c gd ga sel => Sys2Proof.Machine.execFmatch l c gd ga sel s
  | .ndec l c gd ga sel sc => Sys2Proof.Machine.execNdec l c gd ga sel sc s
  | .nhex l c gd ga sel => Sys2Proof.Machine.execNhex l c gd ga sel s
  | .nfmt l c gd ga wid sc => Sys2Proof.Machine.execNfmt l c gd ga wid sc s
  | .nhexf l c gd ga d => Sys2Proof.Machine.execNhexf l c gd ga d s
  | .cxor l c gd ga n => Sys2Proof.Machine.execCxor l c gd ga n s
  | .cxora l c gd ga n => Sys2Proof.Machine.execCxora l c gd ga n s
  | .chex l c gd ga => Sys2Proof.Machine.execChex l c gd ga s
  | .cunhex l c gd ga => Sys2Proof.Machine.execCunhex l c gd ga s
  | .cclass l c gd ga => Sys2Proof.Machine.execCclass l c gd ga s
  | .emit l c gd ga => Sys2Proof.Machine.execEmit l c gd ga s
  | .efwd l c gd ga f => Sys2Proof.Machine.execEfwd l c gd ga f s
  | .echain l c gd ga f => Sys2Proof.Machine.execEchain l c gd ga f s
  | .emsg l c gd ga => Sys2Proof.Machine.execEmsg l c gd ga s
  | .tnow l c gd ga => Sys2Proof.Machine.execTnow l c gd ga s
  | .tdiff l c gd ga => Sys2Proof.Machine.execTdiff l c gd ga s
  | .tadd l c gd ga => Sys2Proof.Machine.execTadd l c gd ga s
  | .tdl l c gd ga => Sys2Proof.Machine.execTdl l c gd ga s
  | .wait l c gd ga cond => Sys2Proof.Machine.execWait l c gd ga cond s
  | .signal l c gd ga k => Sys2Proof.Machine.execSignal l c gd ga k s
  | .yield l c gd ga => Sys2Proof.Machine.execYield l c gd ga s
  | .swe l c gd ga n => Sys2Proof.Machine.execSwe l c gd ga n s
  | .dlwrClr l c gd ga => Sys2Proof.Machine.execDlwrClr l c gd ga s
  | .dlwrSet l c gd ga => Sys2Proof.Machine.execDlwrSet l c gd ga s
  | .dlwrTog l c gd ga => Sys2Proof.Machine.execDlwrTog l c gd ga s
  | .dlrd l c gd ga => Sys2Proof.Machine.execDlrd l c gd ga s
  | .calloc l c gd ga pair => Sys2Proof.Machine.execCalloc l c gd ga pair s
  | .cfree l c gd ga two => Sys2Proof.Machine.execCfree l c gd ga two s
  | .cld l c gd ga => Sys2Proof.Machine.execCld l c gd ga s
  | .cst l c gd ga => Sys2Proof.Machine.execCst l c gd ga s
  | .crel l c gd ga => Sys2Proof.Machine.execCrel l c gd ga s
  | .crd l c gd ga => Sys2Proof.Machine.execCrd l c gd ga s
  | .cwr l c gd ga counted => Sys2Proof.Machine.execCwr l c gd ga s counted
  | .clook l c gd ga => Sys2Proof.Machine.execClook l c gd ga s
  | .frd l c gd ga => Sys2Proof.Machine.execFrd l c gd ga s
  | .fwr l c gd ga => Sys2Proof.Machine.execFwr l c gd ga s
  | .fwrp l c gd ga => Sys2Proof.Machine.execFwrp l c gd ga s
  | .fblk l c gd ga => Sys2Proof.Machine.execFblk l c gd ga s
  | .ffence l c gd ga => Sys2Proof.Machine.execFfence l c gd ga s
  | .hostOwnAccess a len1 wr phs full => Sys2Proof.Machine.execHostOwnAccess a len1 wr phs s full
  | .hostReadFirst a len1 phs full => Sys2Proof.Machine.execHostReadFirst a len1 phs s full
  | .hostReadRetry a len1 phs full => Sys2Proof.Machine.execHostReadRetry a len1 phs s full
  | .hostPostedWrite a len1 phs full => Sys2Proof.Machine.execHostPostedWrite a len1 phs s full
  | .hostNonpostedWrite a len1 phs full => Sys2Proof.Machine.execHostNonpostedWrite a len1 phs s full
  | .hwinAttrWrite w v => Sys2Proof.Machine.execHwinAttrWrite w v s
  | .hbFenceRead full => Sys2Proof.Machine.execHbFenceRead s full
  | .errlogRead => Sys2Proof.Machine.execErrlogRead s
  | .transactionResponse => Sys2Proof.Machine.execTransactionResponse s
  | .retxTimerExpiry tseq => Sys2Proof.Machine.execRetxTimerExpiry tseq s
  | .readHoldExpiry t => Sys2Proof.Machine.execReadHoldExpiry t s
  | .npTimeoutExpiry => Sys2Proof.Machine.execNpTimeoutExpiry s
  | .pwTimeoutExpiry tseq => Sys2Proof.Machine.execPwTimeoutExpiry tseq s
  | .fabricRequestTaken => Sys2Proof.Machine.execFabricRequestTaken s
  | .targetExecute => Sys2Proof.Machine.execTargetExecute s
  | .replayHistoryExpiry node iloc itag tseq => Sys2Proof.Machine.execReplayHistoryExpiry node iloc itag tseq s
  | .frameHeaderDecode m w junc => Sys2Proof.Machine.execFrameHeaderDecode m w junc s
  | .frameEnd m bs fin soe => Sys2Proof.Machine.execFrameEnd m bs fin s soe
  | .ringFrameDeliver m => Sys2Proof.Machine.execRingFrameDeliver m s
  | .txFrameStart m part held coming => Sys2Proof.Machine.execTxFrameStart m s part held coming
  | .preemptionPoint m part held => Sys2Proof.Machine.execPreemptionPoint m s part held
  | .linkSignalChange m los abs => Sys2Proof.Machine.execLinkSignalChange m los abs s
  | .linkSyncChange m rd codes => Sys2Proof.Machine.execLinkSyncChange m rd s codes
  | .linkUp m => Sys2Proof.Machine.execLinkUp m s
  | .ringRateWrite v => Sys2Proof.Machine.execRingRateWrite v s
  | .modRead v => Sys2Proof.Machine.execModRead v s
  | .modWrite v => Sys2Proof.Machine.execModWrite v s
  | .modAccessDone ack data => Sys2Proof.Machine.execModAccessDone ack data s
  | .helloSend => Sys2Proof.Machine.execHelloSend s
  | .helloReceive m => Sys2Proof.Machine.execHelloReceive m s
  | .nbrExpiry m => Sys2Proof.Machine.execNbrExpiry m s
  | .admitReqReceive m => Sys2Proof.Machine.execAdmitReqReceive m s
  | .assignReceive m => Sys2Proof.Machine.execAssignReceive m s
  | .admGranted id => Sys2Proof.Machine.execAdmGranted id s
  | .admRefused id => Sys2Proof.Machine.execAdmRefused id s
  | .admEvicted id => Sys2Proof.Machine.execAdmEvicted id s
  | .claimReceive m => Sys2Proof.Machine.execClaimReceive m s
  | .electQuietExpiry => Sys2Proof.Machine.execElectQuietExpiry s
  | .electionStart => Sys2Proof.Machine.execElectionStart s
  | .electionRestart => Sys2Proof.Machine.execElectionRestart s
  | .surveySend => Sys2Proof.Machine.execSurveySend s
  | .surveyReceive m => Sys2Proof.Machine.execSurveyReceive m s
  | .reportReceive m => Sys2Proof.Machine.execReportReceive m s
  | .evtFrameReceive m => Sys2Proof.Machine.execEvtFrameReceive m s
  | .eventSetting n acked => Sys2Proof.Machine.execEventSetting n s acked
  | .evtHoldoffEnd n => Sys2Proof.Machine.execEvtHoldoffEnd n s
  | .sweSet v joined => Sys2Proof.Machine.execSweSet v s joined
  | .canInit k v busy => Sys2Proof.Machine.execCanInit k v busy s
  | .canIntegrationDone k => Sys2Proof.Machine.execCanIntegrationDone k s
  | .canFrameReceive k w0 b4 ago delay data => Sys2Proof.Machine.execCanFrameReceive k w0 b4 ago delay data s
  | .canFrameDeliver k => Sys2Proof.Machine.execCanFrameDeliver k s
  | .canRxRead k => Sys2Proof.Machine.execCanRxRead k s
  | .canTxRequest k b v => Sys2Proof.Machine.execCanTxRequest k b v s
  | .canTxAbort k b v => Sys2Proof.Machine.execCanTxAbort k b v s
  | .canRecordLoad k => Sys2Proof.Machine.execCanRecordLoad k s
  | .canArbitration k => Sys2Proof.Machine.execCanArbitration k s
  | .canTxDone k ago delay => Sys2Proof.Machine.execCanTxDone k ago delay s
  | .canTxFail k how more => Sys2Proof.Machine.execCanTxFail k how more s
  | .canLoneRetry k => Sys2Proof.Machine.execCanLoneRetry k s
  | .canRecover k v => Sys2Proof.Machine.execCanRecover k v s
  | .canRecoveryDone k => Sys2Proof.Machine.execCanRecoveryDone k s
  | .canSentenceStart k => Sys2Proof.Machine.execCanSentenceStart k s
  | .updBegin node loc flash => Sys2Proof.Machine.execUpdBegin node loc flash s
  | .updBlock node loc blk flash => Sys2Proof.Machine.execUpdBlock node loc blk flash s
  | .updVerify node loc flash => Sys2Proof.Machine.execUpdVerify node loc flash s
  | .updActivate node loc now flash => Sys2Proof.Machine.execUpdActivate node loc now flash s
  | .liveDrainEnd => Sys2Proof.Machine.execLiveDrainEnd s
  | .updConfirm node loc flash => Sys2Proof.Machine.execUpdConfirm node loc flash s
  | .updAbandon node loc flash => Sys2Proof.Machine.execUpdAbandon node loc flash s
  | .updKeyprog node loc key flash => Sys2Proof.Machine.execUpdKeyprog node loc key flash s
  | .updUnlistedOp node loc op => Sys2Proof.Machine.execUpdUnlistedOp node loc op s
  | .updCommandEnd => Sys2Proof.Machine.execUpdCommandEnd s
  | .updOwnerTimeout taken => Sys2Proof.Machine.execUpdOwnerTimeout s taken
  | .confirmDue => Sys2Proof.Machine.execConfirmDue s
  | .confirmWindowExpiry => Sys2Proof.Machine.execConfirmWindowExpiry s
  | .scrubPassStart ups => Sys2Proof.Machine.execScrubPassStart ups s
  | .scrubPassEnd ms => Sys2Proof.Machine.execScrubPassEnd ms s
  | .rtWalkPass errs => Sys2Proof.Machine.execRtWalkPass errs s
  | .sliceTest x => Sys2Proof.Machine.execSliceTest x s
  | .sliceRetire x => Sys2Proof.Machine.execSliceRetire x s
  | .sliceTestRetire x => Sys2Proof.Machine.execSliceTestRetire x s
  | .sliceCmdEnd pass => Sys2Proof.Machine.execSliceCmdEnd pass s
  | .rotationDue => Sys2Proof.Machine.execRotationDue s
  | .rotMove l target => Sys2Proof.Machine.execRotMove l target s
  | .rotRetire l target => Sys2Proof.Machine.execRotRetire l target s
  | .moveCopyRound dirty => Sys2Proof.Machine.execMoveCopyRound dirty s
  | .moveComplete => Sys2Proof.Machine.execMoveComplete s
  | .selfTestEnd e res word => Sys2Proof.Machine.execSelfTestEnd e res word s
  | .tempSample t0 t1 t2 t3 => Sys2Proof.Machine.execTempSample t0 t1 t2 t3 s
  | .vmonWarn r mv => Sys2Proof.Machine.execVmonWarn r mv s
  | .logCmd v => Sys2Proof.Machine.execLogCmd v s
  | .logRecordWrite => Sys2Proof.Machine.execLogRecordWrite s
  | .idleNrReceive m => Sys2Proof.Machine.execIdleNrReceive m s
  | .lineLowClear n => Sys2Proof.Machine.execLineLowClear n s
  | .rxLiveClear p vd => Sys2Proof.Machine.execRxLiveClear p vd s
  | .canReceiveError k big more => Sys2Proof.Machine.execCanReceiveError k big s more
  | .reservedOpcode l c w => Sys2Proof.Machine.execReservedOpcode l c w s
  | .helloReadyHoldEnd => Sys2Proof.Machine.execHelloReadyHoldEnd s

end Sys2Proof.Machine
end

