-- ==== Sys2Proof/Machine/Pins.lean ====
section
/-!
DEFINITION. The levels that the device drives on its output balls, as functions of the state (R89, R92, R120, R127, R365, R484, R634, R650,
R662, R664, R671).
-/
namespace Sys2Proof.Machine

/-- What the device does with an output ball. -/
inductive Ball where
  | low | high | released
  deriving DecidableEq, Repr

/-- A ball driven to a level. -/
def drive (v : Bool) : Ball := if v then .high else .low

/-- An open-drain ball pulls low and releases its high level. -/
def openDrain (v : Bool) : Ball := if v then .released else .low

/-- A reset other than a core restart is in force: every output ball but RNGm_TXDIS, FAULT_N and SLEEPST is at high impedance (R664). -/
def outputsOff (s : State) : Bool := decide (s.power.phase = .off)

/-- FAULT_N (R664, R671): open-drain, low in reset, while the node boots, and in FAULT. -/
def faultBall (s : State) : Ball :=
  match s.power.phase with
  | .off => .low
  | .booting => .low
  | .fault => .low
  | .halter => .released
  | .running => .released
  | .stabled => .released

/-- SLEEPST (R664, R675, R680): high from the entry into Stabled to the end of the wake. -/
def sleepBall (s : State) : Ball := drive (decide (s.power.phase = .stabled))

/-- RNGm_TXDIS (R484, R664, R678). -/
def txDisBall (s : State) (m : Nat) : Ball := drive (txDis s m)

/-- HINT_Nj (R650); the bridge drives no ball while VHB has failed (R662). -/
def hintBall (s : State) (j : Nat) : Ball :=
  if outputsOff s || decide (s.power.vhb = 0) then .released
  else if hintAsserted s j then .low
  else if flag s (aNode 0x1050) (8 + j) then .released
  else .high

/-- The level that slice n sends while its shifter is at bit k of a frame, bit 0 being the start bit: stop level with no character
(R100, R671). -/
def txLevel (s : State) (n k : Nat) : Bool :=
  match (slice s n).shifter with
  | none => true
  | some bs => bs.getD k true

/-- The slice of a serial port has its transmit and direction pins (R89, R662, R664). -/
def portDrives (s : State) (n : Nat) : Bool := !outputsOff s && vioOk s n && decide ((slice s n).txMode ≠ 0)

/-- STXn for n below 256, with the frame in the shifter at bit k (R89, R92, R120, R671). An open-drain pin pulls low for space level and
releases its stop level, whatever TXINV is; a push-pull single-wire pin is driven only while the slice transmits (log entry 78). -/
def stxBall (s : State) (n k : Nat) : Ball :=
  let pin := fun (b : Nat) => flag s (aPort n 0x0C) b
  let v := Bool.xor (txLevel s n k) (pin 1)
  if !portDrives s n then .released
  else if pin 5 then openDrain (txLevel s n k)
  else if pin 6 && (slice s n).shifter.isNone then .released
  else drive v

/-- SDIRn for n below 256: the direction output with the polarity of DIR.POL (R82, R89, R127, R671). -/
def sdirBall (s : State) (n : Nat) : Ball :=
  if portDrives s n then drive (Bool.xor (flag s (aPort n 0x18) 6) (flag s (aPort n 0x10) 9)) else .released

/-- The pair of line port p that its driver drives is exchanged (R218): by TXSWAP, and on a single-wire port by RXSWAP. -/
def lineSwapped (s : State) (p : Nat) : Bool := flag s (aLine p 0x00) (if flag s (aPort (256 + p) 0x0C) 6 then 10 else 11)

/-- The driver of line port p: the level it puts on LYp against LZp is that of its slice, exchanged or not, or it is at high impedance
(R204, R215, R218, R671). -/
def lineBall (s : State) (p k : Nat) : Ball :=
  if drvOn s p && !outputsOff s then
    drive (Bool.xor (Bool.xor (txLevel s (256 + p) k) (flag s (aPort (256 + p) 0x0C) 1)) (lineSwapped s p))
  else .released

/-- DLk (R634, R639, R671). -/
def dlBall (s : State) (k : Nat) : Ball :=
  if outputsOff s || !dlDriven s k then .released else drive (dlLevel s k)

/-- PPSOUT (R365, R664). -/
def ppsOutBall (s : State) : Ball := if outputsOff s then .released else drive (ppsOutLevel s)

end Sys2Proof.Machine
end

