-- ==== Sys2Proof/Safety.lean ====
section
/-!
DEFINITION. What counts as a safe run, in the terms that claims use: the machine goes on, its memory and registers keep their canonical
form, and what manufacture fixed stays fixed.
-/
namespace Sys2Proof.Machine

/-- Memory and registers are in canonical form: equal contents are equal data. -/
def Canonical (s : State) : Prop := Memory.wf s.mem = true ∧ Registers.wf s.regs = true

/-- What no command changes: the build (R2), the identity of the device (R56) and the revision of its silicon. -/
def SameDevice (s t : State) : Prop := t.m4 = s.m4 ∧ t.duid = s.duid ∧ t.srev = s.srev

/-- A run of `n` steps from a state to a state. -/
def RunsTo : Nat → State → State → Prop
  | 0, s, t => t = s
  | n + 1, s, t => ∃ u, step s = .next u ∧ RunsTo n u t

/-! ### What a command leaves alone -/

/-- Every register but those named holds what it held. -/
def RegsKept (s t : State) (rs : List Nat) : Prop := ∀ a, a ∉ rs → getReg t a = getReg s a

/-- The registers that the signalling of an event writes: EVT.STAT (R645), the counters of remote settings (R653, R654), the gates'
registers (R140), the frame sequence number (R499), and the remote-event ring with its flags (R543, R546). -/
def evtReg (a : Nat) : Bool :=
  (decide (aNode 0x1000 ≤ a) && decide (a < aNode 0x1010)) || (decide (aNode 0x1064 ≤ a) && decide (a ≤ aNode 0x106C)) ||
  (decide (aNode 0x4000 ≤ a) && decide (a < aNode 0x5000)) || [aRing 0x0C, aRing 0x404, aRing 0x444, aRing 0x458].contains a ||
  (decide (aRing 0x600 ≤ a) && decide (a < aRing 0x800))

/-- Every register but those named and those of the signalling of events holds what it held. -/
def RegsKeptE (s t : State) (rs : List Nat) : Prop := ∀ a, a ∉ rs → evtReg a = false → getReg t a = getReg s a

/-- The state `s` with the parts of `t` that the signalling of an event changes: registers, context latches, pulse gates, holdoffs and the
transmit queues of the links (R139, R500, R644–R654), and in Stabled the settings that the event unit is to take up (R145). -/
def withEvents (s t : State) : State :=
  { s with regs := t.regs, latch := t.latch, pulses := t.pulses, evtHold := t.evtHold, ring := { s.ring with txq := t.ring.txq },
           evtDue := if s.power.phase = .stabled then t.evtDue else s.evtDue }

/-- Event n was set (R645): at the event unit, which takes a setting up at the end of the wake when it stands still (R145), or its setting
is in its pulse gate (R139). -/
def EventSet (n : Nat) (t : State) : Prop :=
  if evtDirect n = true then (if t.power.phase = .stabled then n ∈ t.evtDue else flag t (aEvtStat n) (n % 32) = true) else pulseSt t n ≠ .idle

/-- After a reset other than a core restart (R663, R767): OFF, and but for registers, memory and their errors everything at its reset value
except what manufacture fixed, the queue, the clock of the model, the rails and pins, and what the flash holds. -/
def InReset (s t : State) : Prop :=
  t = { State.reset with
        m4 := s.m4, duid := s.duid, srev := s.srev, pending := s.pending, now := s.now, free := s.free, regs := t.regs, mem := t.mem,
        ecc := t.ecc, ring := ringCleared s.ring, dl := t.dl, av := avKept s.av, upd := updKept false s.upd,
        power := { phase := .off, vio := s.power.vio, vhb := s.power.vhb, vcanOk := s.power.vcanOk, vltOk := s.power.vltOk,
                   refB := s.power.refB } } ∧
  (∀ k, dlSt t k = { ball := (dlSt s k).ball }) ∧
  ∀ k < 4, getReg t (aTile k 0x04) = if s.power.vltOk = false ∧ s.m4 = true then 0x10#32 else 0#32

/-! ### Writes of registers -/

/-- The register of a unit's CFG_ERR flag, and its bit, for a refused write of the register at `a` (R36). -/
def cfgErrAt (a : Nat) : Nat × Nat :=
  if a < 0x00020000 then (if 0x00011100 ≤ a ∧ a < 0x00011300 then (aNode 0x1070, 0) else (aNode 0x00, 16))
  else if a < 0x00030000 then (aTime 0x04, 14)
  else if a < 0x00040000 then (aHb 0x00, 8)
  else if a < 0x00050000 then (aRing 0x04, 4)
  else if a < 0x00060000 then (aCan ((a - 0x00050000) / 0x8000) 0x04, 16)
  else if a < 0x00070000 then (aUpd 0x08, 19)
  else if a < 0x00080000 then (aAv 0x00, 9)
  else if a < 0x00120000 then (aPort ((a - 0x00100000) / 0x100) 0x18, 18)
  else if a < 0x00200000 then (aTile ((a - 0x00120000) / 0x1000) 0x04, 8)
  else if a < 0x00210000 then (aSw 0x00, 0)
  else if a < 0x00601000 then (aEng ((a - 0x00600000) / 0x100) 0x04, 16)
  else (aEng ((a - 0x00601000) / 0x20) 0x04, 16)

/-- The stated range of a field of `count` registers from `base` on, `step` bytes apart. -/
structure FieldLimit where
  base : Nat
  step : Nat
  count : Nat
  hi : Nat
  lo : Nat
  least : Nat
  most : Nat
  deriving DecidableEq, Repr

/-- The ranges and encodings of fields that R36 holds a write to, whatever the state (R78–R89, R178, R225, R246, R265, R284, R335–R337,
R342, R382, R411, R514, R544, R585, R620–R624, R641, R655, R684, R712, R740). -/
def fieldLimits : List FieldLimit := [
  ⟨0x00010010, 4, 1, 15, 0, 1, 65535⟩, ⟨0x00011100, 4, 128, 27, 16, 0, 0xFFE⟩,
  ⟨0x00020028, 4, 1, 31, 20, 1, 0xFFF⟩, ⟨0x00020028, 4, 1, 19, 0, 2, 1000000⟩, ⟨0x0002002C, 4, 1, 29, 0, 1, 500000000⟩,
  ⟨0x00020030, 4, 1, 11, 8, 1, 15⟩, ⟨0x00020030, 4, 1, 3, 0, 1, 15⟩, ⟨0x00020070, 4, 1, 13, 4, 10, 1000⟩, ⟨0x00020070, 4, 1, 3, 0, 0, 8⟩,
  ⟨0x00021118, 0x20, 32, 23, 0, 1, 0xFFFFFF⟩,
  ⟨0x00030004, 4, 2, 15, 0, 1, 65535⟩, ⟨0x0003000C, 4, 1, 9, 0, 50, 1000⟩, ⟨0x00030010, 4, 1, 15, 0, 100, 65535⟩,
  ⟨0x00040008, 4, 1, 7, 0, 1, 255⟩, ⟨0x00040108, 0x40, 4, 15, 0, 1, 65535⟩, ⟨0x00040108, 0x40, 4, 23, 16, 1, 255⟩,
  ⟨0x00040400, 4, 1, 1, 0, 0, 2⟩, ⟨0x00040400, 4, 1, 15, 8, 1, 255⟩, ⟨0x00040400, 4, 1, 27, 16, 1, 0xFFF⟩,
  ⟨0x0004041C, 0xC, 2, 11, 0, 1, 0xFFF⟩, ⟨0x0004041C, 0xC, 2, 27, 16, 0, 0xFFE⟩, ⟨0x00040420, 4, 1, 7, 0, 1, 255⟩,
  ⟨0x0005001C, 0x8000, 2, 31, 16, 1, 65535⟩, ⟨0x0005001C, 0x8000, 2, 7, 0, 1, 255⟩,
  ⟨0x00050408, 0x10, 64, 19, 18, 0, 2⟩, ⟨0x00050408, 0x10, 64, 11, 0, 0, 0xFFE⟩,
  ⟨0x00058408, 0x10, 64, 19, 18, 0, 2⟩, ⟨0x00058408, 0x10, 64, 11, 0, 0, 0xFFE⟩,
  ⟨0x00060020, 0xC, 2, 15, 0, 1, 65535⟩, ⟨0x00070004, 4, 1, 7, 0, 1, 255⟩, ⟨0x00070040, 4, 1, 10, 0, 1, 1440⟩,
  ⟨0x00070090, 4, 1, 15, 8, 0, 125⟩,
  ⟨0x00100004, 0x100, 256, 27, 8, 16, 0xFFFFF⟩, ⟨0x00110004, 0x100, 16, 27, 8, 200, 0xFFFFF⟩,
  ⟨0x00100008, 0x100, 272, 3, 0, 5, 9⟩, ⟨0x00100008, 0x100, 272, 6, 4, 0, 4⟩, ⟨0x00100008, 0x100, 272, 9, 8, 0, 2⟩,
  ⟨0x0011000C, 0x100, 16, 5, 5, 0, 0⟩, ⟨0x00100024, 0x100, 272, 15, 0, 1, 65535⟩,
  ⟨0x00100040, 0x100, 272, 7, 0, 11, 192⟩, ⟨0x00100040, 0x100, 272, 15, 8, 0, 160⟩, ⟨0x00100040, 0x100, 272, 17, 16, 0, 2⟩,
  ⟨0x00100060, 0x100, 272, 11, 0, 3, 0xFFF⟩, ⟨0x00100060, 0x100, 272, 14, 13, 0, 1⟩,
  ⟨0x0010006C, 0x100, 272, 7, 0, 1, 255⟩, ⟨0x0010006C, 0x100, 272, 15, 8, 1, 255⟩, ⟨0x00100080, 0x100, 272, 3, 0, 0, 8⟩,
  ⟨0x00100098, 0x100, 272, 27, 16, 0, 0xFFE⟩, ⟨0x00100098, 0x100, 272, 8, 0, 0, 271⟩,
  ⟨0x0012010C, 0x40, 4, 23, 16, 1, 255⟩, ⟨0x0012110C, 0x40, 4, 23, 16, 1, 255⟩, ⟨0x0012210C, 0x40, 4, 23, 16, 1, 255⟩,
  ⟨0x0012310C, 0x40, 4, 23, 16, 1, 255⟩, ⟨0x0012010C, 0x40, 4, 13, 0, 0, 15000⟩, ⟨0x0012110C, 0x40, 4, 13, 0, 0, 15000⟩,
  ⟨0x0012210C, 0x40, 4, 13, 0, 0, 15000⟩, ⟨0x0012310C, 0x40, 4, 13, 0, 0, 15000⟩,
  ⟨0x00200004, 4, 1, 31, 16, 0, 32768⟩, ⟨0x00200004, 4, 1, 15, 0, 0, 32768⟩, ⟨0x00200280, 4, 1, 15, 0, 200, 65535⟩,
  ⟨0x0060000C, 0x100, 16, 11, 0, 1, 0xFFF⟩, ⟨0x0060000C, 0x100, 16, 27, 16, 1, 0xFFF⟩]

/-- The write of v breaks the limit, in register k of its row. -/
def FieldLimit.broken (x : FieldLimit) (v : Word) : Bool := decide (bits v x.hi x.lo < x.least) || decide (x.most < bits v x.hi x.lo)

/-- R36 refuses the write of v, its lanes merged, to the register at `a`, for one of its fields or for the state it meets. -/
def writeRefused (s : State) (a : Nat) (v : Word) : Bool :=
  let can := (a - 0x00050000) / 0x8000
  let n := (a - 0x00100000) / 0x100
  let k := (a - 0x00120000) / 0x1000
  let o := a % 0x1000
  if a < 0x00020000 then nodeRefused (a - 0x00010000) v || (decide (0x00011100 ≤ a ∧ a < 0x00011300) && decide (bits v 27 16 = 0xFFF))
  else if a < 0x00021000 then timeRefused (a - 0x00020000) v
  else if a < 0x00030000 then decide (0x00021100 ≤ a) && decide (a < 0x00021500) &&
    ((decide (a % 0x20 = 0x0C) && decide (v = 0) && flag s (a - 0x0C) 25) || (decide (a % 0x20 = 0x18) && decide (bits v 23 0 = 0)))
  else if a < 0x00040000 then ((decide (a = aHb 0x04) || decide (a = aHb 0x08)) && decide (bits v 15 0 = 0)) ||
    (decide (a = aHb 0x0C) && (decide (bits v 9 0 < 50) || decide (1000 < bits v 9 0))) || (decide (a = aHb 0x10) && decide (bits v 15 0 < 100))
  else if a < 0x00050000 then ringRefused s (a - 0x00040000) v
  else if a < 0x00060000 then
    let c := a % 0x8000
    (decide (c = 0x0C) && (decide (canState s can ≠ 0) || nbtRefused v)) || (decide (c = 0x10) && (decide (canState s can ≠ 0) || dbtRefused v)) ||
    (decide (c = 0x1C) && (decide (bits v 31 16 = 0) || decide (bits v 7 0 = 0))) ||
    (decide (c = 0x28) && decide (bits v 5 0 < fld s (aCan can 0x20) 5 0)) ||
    (decide (0x400 ≤ c) && decide (c < 0x800) && decide (c % 0x10 = 8) && filtRefused v) ||
    (decide (0x1000 ≤ c) && decide (c % 0x80 < 0x50) && decide (txbState s can ((c - 0x1000) / 0x80) ≠ 0))
  else if a < 0x00070000 then updRefused (a - 0x00060000) v
  else if a < 0x00080000 then avRefused (a - 0x00070000) v
  else if a < 0x00120000 then portRefused s n (a % 0x100) v
  else if a < 0x00200000 then decide (0x100 ≤ o) && decide (o < 0x200) &&
    ((decide (o % 0x40 = 0x0C) && (decide (bits v 23 16 = 0) || decide (15000 < bits v 13 0))) ||
     (decide (o % 0x40 = 0) && bit v 9 && [fld s (aPort (256 + 4 * k + (o - 0x100) / 0x40) 0x04) 27 8,
        bits (slice s (256 + 4 * k + (o - 0x100) / 0x40)).rxBaud 27 8,
        bits (slice s (256 + 4 * k + (o - 0x100) / 0x40)).txBaud 27 8].any (fun d => decide (d < 1736))))
  else if a < 0x00210000 then (decide (a = aSw 0x04) && (decide (32768 < bits v 31 16) || decide (32768 < bits v 15 0))) ||
    (decide (a = aSw 0x280) && decide (bits v 15 0 < 200))
  else decide (a < 0x00601000) && decide (a % 0x100 = 0x0C) && (decide (bits v 11 0 = 0) || decide (bits v 27 16 = 0))

/-- The registers whose write acts on more than themselves, or is taken or refused as a command: NODE's commands and watchdogs, SWE_SET,
TIME's CTL, SET_CMD, RATE and LEAP_CTL, the CTL registers of FIFOs, IN_DATA, DL's outputs and CFG, the windows' ATTR, RING's CTL, MOD_CMD,
ADM_CTL and ADM_CMD, LINK.CTL, CAN.CTL and TXB.CTL, the commands of the update and the availability unit, a port's MODE, BAUD, FMT, SLICE,
MEAS_CTL and CT, LT.CTL and LINE.CTL, the switch's POOL_RSV, POOL_MIN, TBL_CTL and STG_CMD, ENG.CTL and a context's CTL and PC. -/
def actsOn (a : Nat) : Bool :=
  if a < 0x00020000 then [0x08, 0x0C, 0x14, 0x20, 0x30, 0x34, 0x38, 0x3C, 0x105C].contains (a - 0x00010000)
  else if a < 0x00021000 then [0x00, 0x20, 0x34, 0x54, 0x100].contains (a - 0x00020000)
  else if a < 0x00030000 then [0x08, 0x0C, 0x10, 0x14, 0xF0].contains (a - 0x00021000) ||
    (decide (0x00021100 ≤ a) && decide (a < 0x00021500) && decide (a % 0x20 = 0))
  else if a < 0x00040000 then (decide (0x00030800 ≤ a) && [0x00, 0x08, 0x10].contains (a % 0x40)) ||
    (decide (0x00030100 ≤ a) && decide (a < 0x00030180) && decide (a % 0x10 = 0x0C))
  else if a < 0x00050000 then [0x00, 0x20, 0x418, 0x440].contains (a - 0x00040000) ||
    (decide (0x00040100 ≤ a) && decide (a < 0x00040200) && decide (a % 0x40 = 0))
  else if a < 0x00060000 then [0x00, 0x54].contains (a % 0x8000) || (decide (0x1000 ≤ a % 0x8000) && decide (a % 0x80 = 0x7C))
  else if a < 0x00070000 then decide (a = aUpd 0x00)
  else if a < 0x00080000 then [0x44, 0x60, 0xC4].contains (a - 0x00070000)
  else if a < 0x00120000 then [0x00, 0x04, 0x08, 0x20, 0x28, 0x6C].contains (a % 0x100)
  else if a < 0x00200000 then decide (a % 0x1000 = 0) || (decide (0x100 ≤ a % 0x1000) && decide (a % 0x1000 < 0x200) && decide (a % 0x40 = 0))
  else if a < 0x00210000 then [0x08, 0x14, 0x200, 0x204].contains (a - 0x00200000)
  else if a < 0x00601000 then decide (a % 0x100 = 0) || (decide (0x40 ≤ a % 0x100) && decide (a % 0x100 < 0xC0) && [0, 8].contains (a % 0x10))
  else decide (a % 0x20 = 4)

/-- The gate of a word of the gate registers is one that the device does not have (R154). -/
def unusedGate (s : State) (a : Nat) : Bool :=
  decide (0x00014000 ≤ a) && decide (a < 0x00015000) && decide (gateKind s ((a - 0x00014000) / 8) = 3)

/-- A register after a write of the enabled bytes of v under its row of the map: RW bits take the value, W1C bits that get a 1 are cleared,
and reserved and read-only bits stay (R12, R37). -/
def Masked (s t : State) (a : Nat) (v : Word) (be : BitVec 4) : Prop :=
  ∀ r, (regRow a).map (·.1) = some r → ∀ i < 32, bit (getReg t a) i =
    (if r.rw.testBit i then (if be.getLsbD (i / 8) then bit v i else bit (getReg s a) i)
     else bit (getReg s a) i && !(r.w1c.testBit i && be.getLsbD (i / 8) && bit v i))

/-! ### Discrete lines -/

/-- An accepted edge of line j does no more than grow CNT: it is for neither the Shutter nor a match nor a period (R630 to R633). -/
abbrev OnlyCounts (s : State) (j : Nat) : Prop :=
  fld s (aDl j 0x00) 21 20 = 0 ∧ flag s (aDl j 0x00) 24 = false ∧ edgeSel (fld s (aDl j 0x00) 19 18) (dlSt s j).ball = false

/-- CNT of the lines in `taken` has grown where they count an edge to their ball's level (R632), and nothing else beside the lines changed.
-/
def CountedOn (s t : State) (taken : Nat → Bool) : Prop :=
  (∀ j < 32, getReg t (aDl j 0x08) =
    if taken j && edgeSel (fld s (aDl j 0x00) 23 22) (dlSt s j).ball then getReg s (aDl j 0x08) + 1 else getReg s (aDl j 0x08)) ∧
  t = { s with regs := t.regs, dl := t.dl, dlShutDeb := t.dlShutDeb } ∧ RegsKept s t ((List.range 32).map (aDl · 0x08))

/-- The running heartbeat of line j can starve (R637). -/
def starves (s : State) (j : Nat) : Bool := decide (dlMode s j = 3) && flag s (aDl j 0x04) 0 && decide ((dlSt s j).t2 ≠ 0)

/-- Line j drives a level that its ball does not show, and the check has not found it yet (R638). -/
def differs (s : State) (j : Nat) : Bool := dlDriven s j && !(dlSt s j).faulty && decide ((dlSt s j).ball ≠ dlLevel s j)

/-- One clock in which the check of R638 finds the lines in `differ` and the heartbeats of the lines in `starved` end (R637): event 78 is
set once when one of these flags rises on a line with EVEN 1 (R640). -/
def FaultsNoted (s t : State) (differ starved : Nat → Bool) : Prop :=
  (∀ j < 32, flag t (aDl j 0x04) 4 = (flag s (aDl j 0x04) 4 || differ j) ∧ flag t (aDl j 0x04) 0 = (flag s (aDl j 0x04) 0 && !starved j) ∧
    flag t (aDl j 0x04) 6 = (flag s (aDl j 0x04) 6 || starved j)) ∧
  ((∃ j < 32, flag s (aDl j 0x00) 27 = true ∧ ((differ j = true ∧ flag s (aDl j 0x04) 4 = false) ∨
    (starved j = true ∧ flag s (aDl j 0x04) 6 = false))) → EventSet 78 t) ∧
  (∀ j < 32, starved j = false → dlSt t j = { dlSt s j with faulty := (dlSt s j).faulty || differ j }) ∧
  t = withEvents { s with dl := t.dl } t ∧ RegsKeptE s t ((List.range 32).map (aDl · 0x04))

/-! ### How a transaction ends -/

/-- A transaction of the bridge has left the list and told its user: its tag is READY, with its data or as failed, and a non-posted write
that the bus waits for counts one answer, the last of which ends the data phase (R564, R574, R577). A posted write tells nobody (R571). -/
def BridgeEnded (s : State) (x : Trans) (failed : Bool) (data : List Byte) (u : State) : Prop :=
  u.fab = { s.fab with trans := s.fab.trans.filter (fun y => decide (y ≠ x)), tags := u.fab.tags, np := u.fab.np, bus := u.fab.bus,
                       errlog := u.fab.errlog, errLost := u.fab.errLost } ∧
  (∀ j, tagGet u j = match x.owner with
    | .tag n _ =>
      if j = n then (tagGet s n).map (fun g => { g with life := .ready, fail := g.fail || failed, data := if failed then g.data else data })
      else tagGet s j
    | _ => tagGet s j) ∧
  (u.fab.np, u.fab.bus) = match x.owner, s.fab.np with
    | .np _ true, some n =>
      if 1 < n.open_ then (some { n with open_ := n.open_ - 1, failed := n.failed || failed }, s.fab.bus)
      else (none, s.fab.bus.map (fun b => if b = .wait then (if n.failed || failed then .error else .ready 0) else b))
    | _, _ => (s.fab.np, s.fab.bus)

/-- The failure of a transaction to `node` with a cause of R584 entered ERRLOG, or was lost when that was full (R584). -/
def ErrLogged (s : State) (x : Trans) (cause : Nat) (u : State) : Prop :=
  let fab := x.node * 2 ^ 36 + x.addr
  if s.fab.errlog.length < 32 then
    u.fab.errLost = false ∧ u.fab.errlog = s.fab.errlog ++
      [{ addr := fab, ft := s.time.ft, desc := wd (b2n s.fab.errLost * 2 ^ 31 + fab / 2 ^ 36 % 4096 * 65536 + x.src % 256 * 256 + cause) }]
  else u.fab.errLost = true ∧ u.fab.errlog = s.fab.errlog ∧ getReg u (aHb 0x4C) = satAdd (getReg s (aHb 0x4C)) 1

/-! ### How an engine instruction ends -/

/-- Context c of L issues the word w, and the fetched word has no error. -/
abbrev Fetches (l c : Nat) (w : Word) (s : State) : Prop := issues l c w s = true ∧ fetch l c s = (false, s)

/-- Of the engines, at most context c of logical engine L changed, and L has given `n` request numbers away. -/
def OnlyCtx (l c n : Nat) (s t : State) : Prop :=
  (∀ l' c', ¬ (l' = l ∧ c' = c) → ctx t l' c' = ctx s l' c') ∧
  ∀ j, eng t j = { eng s j with ctxs := (eng t j).ctxs, nextId := (eng s j).nextId + (if j = l then n else 0) }

/-- A context at an instruction boundary: the LEVEL and DISPMASK of its CTL register are in effect (R413). -/
def bounded (s : State) (l c : Nat) (v : CtxSt) : CtxSt :=
  { v with hi := flag s (aCtx l c 0x00) 0, mask := BitVec.ofNat 2 (fld s (aCtx l c 0x00) 9 8) }

/-- The registers of a context with one of them written; g0 stays zero (R427). -/
def setG (s : State) (l c : Nat) (gd : BitVec 4) (w : Word) (r : Nat) : Word :=
  if r = gd.toNat ∧ r ≠ 0 then w else gReg (ctx s l c) r

/-- The context went on at `pc` in the state `st`, with the registers `g`. -/
def CtxAt (l c : Nat) (st : CtxState) (pc : BitVec 16) (g : Nat → Word) (s t : State) : Prop :=
  (∀ r, gReg (ctx t l c) r = g r) ∧ ((ctx t l c).blk = none ∨ (ctx t l c).blk = (ctx s l c).blk) ∧
  ctx t l c = bounded s l c { ctx s l c with g := (ctx t l c).g, pc := pc, st := st, blk := (ctx t l c).blk }

/-- The same, and the engines hold nothing else new. -/
def CtxWent (l c : Nat) (st : CtxState) (pc : BitVec 16) (g : Nat → Word) (s t : State) : Prop :=
  CtxAt l c st pc g s t ∧ OnlyCtx l c 0 s t

/-- A local instruction wrote w to gd and did nothing else (R423). -/
def Wrote (l c : Nat) (gd : BitVec 4) (w : Word) (s t : State) : Prop :=
  CtxWent l c .run ((ctx s l c).pc + 4) (setG s l c gd w) s t ∧ t = { s with engs := t.engs }

/-- The context took an exception with CODE and epc from a state with st.EXL 0 (R406). -/
def Trapped (l c code : Nat) (epc : BitVec 16) (st : CtxState) (s t : State) : Prop :=
  ctx t l c = bounded s l c { ctx s l c with st := st, cause := code, exl := true, epc := epc, wait := none, blk := none,
                                             pc := BitVec.ofNat 16 (getReg s (aCtx l c 0x0C)).toNat } ∧
  OnlyCtx l c 0 s t ∧ t = withEvents { s with engs := t.engs } t ∧
  (if code = 6 ∨ code = 7 then RegsKept s t [] else
    getReg t (aEng l 0x24) = satAdd (getReg s (aEng l 0x24)) 1 ∧ flag t (aEng l 0x04) 9 = true ∧
    RegsKeptE s t [aEng l 0x04, aEng l 0x24])

/-- The instruction i of the context raises the exception `code` with `epc`; while st.EXL is 1 the same is a double fault (R406, R407): the
context halts with the code, and DFAULT and CNT_EXC say so. -/
def Raises (l c code : Nat) (epc : BitVec 16) (i : Instr) (s : State) : Prop :=
  ((ctx s l c).exl = false → ∃ t, exec i s = .next t ∧ Trapped l c code epc .run s t) ∧
  ((ctx s l c).exl = true → (ctx s l c).held = none → ∃ t, exec i s = .next t ∧
    ctx t l c = { ctx s l c with st := .halt, cause := code, wait := none, blk := none } ∧ OnlyCtx l c 0 s t ∧
    flag t (aEng l 0x04) 10 = true ∧ getReg t (aEng l 0x24) = satAdd (getReg s (aEng l 0x24)) 1 ∧
    t = withEvents { s with engs := t.engs } t ∧ RegsKeptE s t [aEng l 0x04, aEng l 0x24])

/-- The context's request went to the switch, and the context waits in BLOCK for the response `r` (R403). -/
def Blocked (l c : Nat) (r : BlkRes) (s t : State) : Prop :=
  ctx t l c = { ctx s l c with st := .block, blk := some { id := (eng s l).nextId, res := some r } } ∧ OnlyCtx l c 1 s t

/-- An instruction that reads the text up to byte `e` gave its result: at once, or as the response it waits for when it read a continuation
cell (R461). -/
def TextGave (l c e : Nat) (gd : BitVec 4) (w : Word) (s t : State) : Prop :=
  if e ≤ 96 then Wrote l c gd w s t else Blocked l c { regs := [(gd.toNat, w)] } s t ∧ t = { s with engs := t.engs }

end Sys2Proof.Machine
end

