-- ==== Sys2Proof/WellFormed.lean ====
section
/-!
DEFINITION. Well-formed commands: every operand that numbers a unit names one that the device has. A command that is not well-formed names
a unit that does not exist.
-/
namespace Sys2Proof

/-- Logical engines L0–L15, contexts C0–C7, physical engines E0–E17 (R384, R385). -/
def okEngine (l : Nat) : Bool := decide (l < 16)
def okContext (c : Nat) : Bool := decide (c < 8)
def okPhysical (e : Nat) : Bool := decide (e < 18)

/-- Ports 0–271, line tiles 0–3, line ports 0–15 (R2, R44, R219). -/
def okPort (n : Nat) : Bool := decide (n < 272)
def okTile (k : Nat) : Bool := decide (k < 4)
def okLinePort (p : Nat) : Bool := decide (p < 16)

/-- Mailboxes 0–3 (R172), ring links 0–3 (R483), discrete lines 0–31 (R626), CAN controllers 0–1 with transmit buffers 0–63 (R590, R604),
watchdogs 0–1 (R672), rails 0–5 (R735). -/
def okMailbox (m : Nat) : Bool := decide (m < 4)
def okLink (m : Nat) : Bool := decide (m < 4)
def okLine (k : Nat) : Bool := decide (k < 32)
def okCan (k : Nat) : Bool := decide (k < 2)
def okTxBuffer (b : Nat) : Bool := decide (b < 64)
def okWatchdog (i : Nat) : Bool := decide (i < 2)
def okRail (r : Nat) : Bool := decide (r < 6)

/-- Stamping clocks 0–17 (R157), gates 0–511 (R154), events 0–127 (R644), read tags 1–63 (R562). -/
def okClock (k : Nat) : Bool := decide (k < 18)
def okGate (g : Nat) : Bool := decide (g < 512)
def okEvent (n : Nat) : Bool := decide (n < 128)
def okTag (t : Nat) : Bool := decide (1 ≤ t) && decide (t < 64)

/-- An aligned word of node-local space (R12, R53). -/
def okWord (a : Nat) : Bool := decide (a % 4 = 0) && decide (a < 2 ^ 36)

/-- A FIFO that exists (R163). -/
def okFifo : FifoId → Bool
  | .hmbIn m => okMailbox m
  | .hmbOut m => okMailbox m
  | .emq l => okEngine l
  | .canRx k => okCan k
  | .shut => true

/-- Every operand of the command names a unit of the device. -/
def wellFormed : Instr → Bool
  | .powerOnReset => true
  | .pinReset _ => true
  | .rstCmdFullSoft _ _ => true
  | .rstCmdCoreRestart _ _ => true
  | .resetEnd _ _ _ => true
  | .halterEntry => true
  | .ioRailFail _ => true
  | .ioRailGood _ _ => true
  | .refaFail => true
  | .faultCmd _ => true
  | .wdogKick i _ => okWatchdog i
  | .wdogExpiry i _ _ => okWatchdog i
  | .wdogCtlWrite i _ => okWatchdog i
  | .sleepCmd _ => true
  | .sleepDrainEnd => true
  | .stabledEntry => true
  | .wakeDetect _ => true
  | .wakeEnd _ => true
  | .wakeOut _ => true
  | .wakeOutEnd => true
  | .stripWindowEnd => true
  | .registerWrite a _ _ => okWord a
  | .gatePeerReset g _ _ _ _ => okGate g
  | .startEdge n _ _ _ _ _ _ _ => okPort n
  | .characterReceipt n _ _ _ _ => okPort n
  | .idleTimerExpiry n => okPort n
  | .rawTimeoutExpiry n => okPort n
  | .portModeWrite n _ => okPort n
  | .swapRequest n _ => okPort n
  | .sliceSwap n => okPort n
  | .swapwaitExpiry n => okPort n
  | .forcedSwap n => okPort n
  | .measStart n _ => okPort n
  | .measWindowEnd n _ _ => okPort n
  | .sentenceSelect n => okPort n
  | .txCharacterLoad n _ => okPort n
  | .sentenceTxEnd n _ => okPort n
  | .collisionDetect n _ _ => okPort n
  | .backoffExpiry n => okPort n
  | .dirLeadExpiry n => okPort n
  | .dirTrailExpiry n => okPort n
  | .tilePwrEn k _ => okTile k
  | .pgoodRise k => okTile k
  | .pwrFault k => okTile k
  | .converterRetry k => okTile k
  | .vltUvChange _ => true
  | .rxOpenDetect p => okLinePort p
  | .rxZeroDetect p => okLinePort p
  | .txShort p => okLinePort p
  | .txShortRetry p => okLinePort p
  | .tileOvertemp k => okTile k
  | .tileTempRecover k => okTile k
  | .restDetect p _ _ _ => okLinePort p
  | .parserItem n => okPort n
  | .ctGapExpiry p => okPort p
  | .sweepPass _ => true
  | .rawItem n => okPort n
  | .poolRsvWrite _ => true
  | .tableSwap _ => true
  | .tableCopy _ => true
  | .tableCopyDone => true
  | .stagedUpdate _ _ => true
  | .hmbInWrite m _ => okMailbox m
  | .hmbInboundItem m => okMailbox m
  | .hmbOutRead m => okMailbox m
  | .fifoFlush f _ => okFifo f
  | .emqRdataRead l => okEngine l
  | .refreshLaunch => true
  | .refreshPair clk _ _ => okClock clk
  | .timeLoad => true
  | .timeAtSample => true
  | .timeAdjust => true
  | .timeNowRead => true
  | .timeSrcWrite _ => true
  | .timeRateWrite _ => true
  | .ppsEdge _ => true
  | .ppsWindowMiss => true
  | .leapArm _ => true
  | .ppsoutPulse => true
  | .ppsoutEnd => true
  | .syncSend => true
  | .syncReceive m => okLink m
  | .syncMiss => true
  | .pdReqSend => true
  | .pdReqReceive m => okLink m
  | .pdRespReceive m => okLink m
  | .pdTimeout m => okLink m
  | .shutterRead => true
  | .dlRawEdge k _ _ _ => okLine k
  | .dlEdgeAccept k _ => okLine k
  | .dlPeriodOverflow k => okLine k
  | .dlCfgWrite k _ => okLine k
  | .dlShutDebWrite _ => true
  | .dlOutWrite _ => true
  | .dlOutSet _ => true
  | .dlOutClr _ => true
  | .dlOutTog _ => true
  | .dlPwmPeriod k => okLine k
  | .dlPwmHighEnd k => okLine k
  | .dlHbToggle k => okLine k
  | .dlHbStarve k _ _ => okLine k
  | .dlDriveFault k _ _ => okLine k
  | .ctxStart l c _ => okEngine l && okContext c
  | .ctxStop l c _ => okEngine l && okContext c
  | .engineHold l _ => okEngine l
  | .engineRelease l _ => okEngine l
  | .schedulerSelect l => okEngine l
  | .dispatch l => okEngine l
  | .waitWake l c => okEngine l && okContext c
  | .waitTimeout l c => okEngine l && okContext c
  | .responseArrival l c => okEngine l && okContext c
  | .budgetExpiry l c => okEngine l && okContext c
  | .add l c _ _ _ => okEngine l && okContext c
  | .sub l c _ _ _ => okEngine l && okContext c
  | .and l c _ _ _ => okEngine l && okContext c
  | .or l c _ _ _ => okEngine l && okContext c
  | .xor l c _ _ _ => okEngine l && okContext c
  | .nor l c _ _ _ => okEngine l && okContext c
  | .sll l c _ _ _ => okEngine l && okContext c
  | .srl l c _ _ _ => okEngine l && okContext c
  | .sra l c _ _ _ => okEngine l && okContext c
  | .slt l c _ _ _ => okEngine l && okContext c
  | .sltu l c _ _ _ => okEngine l && okContext c
  | .mul l c _ _ _ => okEngine l && okContext c
  | .mulh l c _ _ _ => okEngine l && okContext c
  | .mulhu l c _ _ _ => okEngine l && okContext c
  | .div l c _ _ _ => okEngine l && okContext c
  | .divu l c _ _ _ => okEngine l && okContext c
  | .rem l c _ _ _ => okEngine l && okContext c
  | .remu l c _ _ _ => okEngine l && okContext c
  | .min l c _ _ _ => okEngine l && okContext c
  | .max l c _ _ _ => okEngine l && okContext c
  | .minu l c _ _ _ => okEngine l && okContext c
  | .maxu l c _ _ _ => okEngine l && okContext c
  | .clz l c _ _ => okEngine l && okContext c
  | .popc l c _ _ => okEngine l && okContext c
  | .addi l c _ _ _ => okEngine l && okContext c
  | .andi l c _ _ _ => okEngine l && okContext c
  | .ori l c _ _ _ => okEngine l && okContext c
  | .xori l c _ _ _ => okEngine l && okContext c
  | .lui l c _ _ => okEngine l && okContext c
  | .slti l c _ _ _ => okEngine l && okContext c
  | .slli l c _ _ _ => okEngine l && okContext c
  | .srli l c _ _ _ => okEngine l && okContext c
  | .srai l c _ _ _ => okEngine l && okContext c
  | .lw l c _ _ _ => okEngine l && okContext c
  | .lh l c _ _ _ => okEngine l && okContext c
  | .lhu l c _ _ _ => okEngine l && okContext c
  | .lb l c _ _ _ => okEngine l && okContext c
  | .lbu l c _ _ _ => okEngine l && okContext c
  | .sw l c _ _ _ => okEngine l && okContext c
  | .sh l c _ _ _ => okEngine l && okContext c
  | .sb l c _ _ _ => okEngine l && okContext c
  | .beq l c _ _ _ => okEngine l && okContext c
  | .bne l c _ _ _ => okEngine l && okContext c
  | .blt l c _ _ _ => okEngine l && okContext c
  | .bge l c _ _ _ => okEngine l && okContext c
  | .bltu l c _ _ _ => okEngine l && okContext c
  | .bgeu l c _ _ _ => okEngine l && okContext c
  | .jal l c _ _ => okEngine l && okContext c
  | .jalr l c _ _ _ => okEngine l && okContext c
  | .nop l c => okEngine l && okContext c
  | .trap l c _ => okEngine l && okContext c
  | .eret l c => okEngine l && okContext c
  | .halt l c => okEngine l && okContext c
  | .ifence l c => okEngine l && okContext c
  | .mfs l c _ _ => okEngine l && okContext c
  | .mts l c _ _ => okEngine l && okContext c
  | .budget l c _ => okEngine l && okContext c
  | .bleft l c _ => okEngine l && okContext c
  | .cstart l c _ _ _ => okEngine l && okContext c
  | .cstop l c _ => okEngine l && okContext c
  | .cstat l c _ _ => okEngine l && okContext c
  | .fpos l c _ _ _ => okEngine l && okContext c
  | .fch l c _ _ _ => okEngine l && okContext c
  | .fcnt l c _ _ => okEngine l && okContext c
  | .fcpy l c _ _ _ _ => okEngine l && okContext c
  | .ftag l c _ _ _ => okEngine l && okContext c
  | .fmatch l c _ _ _ => okEngine l && okContext c
  | .ndec l c _ _ _ _ => okEngine l && okContext c
  | .nhex l c _ _ _ => okEngine l && okContext c
  | .nfmt l c _ _ _ _ => okEngine l && okContext c
  | .nhexf l c _ _ _ => okEngine l && okContext c
  | .cxor l c _ _ _ => okEngine l && okContext c
  | .cxora l c _ _ _ => okEngine l && okContext c
  | .chex l c _ _ => okEngine l && okContext c
  | .cunhex l c _ _ => okEngine l && okContext c
  | .cclass l c _ _ => okEngine l && okContext c
  | .emit l c _ _ => okEngine l && okContext c
  | .efwd l c _ _ _ => okEngine l && okContext c
  | .echain l c _ _ _ => okEngine l && okContext c
  | .emsg l c _ _ => okEngine l && okContext c
  | .tnow l c _ _ => okEngine l && okContext c
  | .tdiff l c _ _ => okEngine l && okContext c
  | .tadd l c _ _ => okEngine l && okContext c
  | .tdl l c _ _ => okEngine l && okContext c
  | .wait l c _ _ _ => okEngine l && okContext c
  | .signal l c _ _ _ => okEngine l && okContext c
  | .yield l c _ _ => okEngine l && okContext c
  | .swe l c _ _ _ => okEngine l && okContext c
  | .dlwrClr l c _ _ => okEngine l && okContext c
  | .dlwrSet l c _ _ => okEngine l && okContext c
  | .dlwrTog l c _ _ => okEngine l && okContext c
  | .dlrd l c _ _ => okEngine l && okContext c
  | .calloc l c _ _ _ => okEngine l && okContext c
  | .cfree l c _ _ _ => okEngine l && okContext c
  | .cld l c _ _ => okEngine l && okContext c
  | .cst l c _ _ => okEngine l && okContext c
  | .crel l c _ _ => okEngine l && okContext c
  | .crd l c _ _ => okEngine l && okContext c
  | .cwr l c _ _ _ => okEngine l && okContext c
  | .clook l c _ _ => okEngine l && okContext c
  | .frd l c _ _ => okEngine l && okContext c
  | .fwr l c _ _ => okEngine l && okContext c
  | .fwrp l c _ _ => okEngine l && okContext c
  | .fblk l c _ _ => okEngine l && okContext c
  | .ffence l c _ _ => okEngine l && okContext c
  | .hostOwnAccess _ _ _ _ _ => true
  | .hostReadFirst _ _ _ _ => true
  | .hostReadRetry _ _ _ _ => true
  | .hostPostedWrite _ _ _ _ => true
  | .hostNonpostedWrite _ _ _ _ => true
  | .hwinAttrWrite _ _ => true
  | .hbFenceRead _ => true
  | .errlogRead => true
  | .transactionResponse => true
  | .retxTimerExpiry _ => true
  | .readHoldExpiry t => okTag t
  | .npTimeoutExpiry => true
  | .pwTimeoutExpiry _ => true
  | .fabricRequestTaken => true
  | .targetExecute => true
  | .replayHistoryExpiry _ _ _ _ => true
  | .frameHeaderDecode m _ _ => okLink m
  | .frameEnd m _ _ _ => okLink m
  | .ringFrameDeliver m => okLink m
  | .txFrameStart m _ _ _ => okLink m
  | .preemptionPoint m _ _ => okLink m
  | .linkSignalChange m _ _ => okLink m
  | .linkSyncChange m _ _ => okLink m
  | .linkUp m => okLink m
  | .ringRateWrite _ => true
  | .modRead _ => true
  | .modWrite _ => true
  | .modAccessDone _ _ => true
  | .helloSend => true
  | .helloReceive m => okLink m
  | .nbrExpiry m => okLink m
  | .admitReqReceive m => okLink m
  | .assignReceive m => okLink m
  | .admGranted _ => true
  | .admRefused _ => true
  | .admEvicted _ => true
  | .claimReceive m => okLink m
  | .electQuietExpiry => true
  | .electionStart => true
  | .electionRestart => true
  | .surveySend => true
  | .surveyReceive m => okLink m
  | .reportReceive m => okLink m
  | .evtFrameReceive m => okLink m
  | .eventSetting n _ => okEvent n
  | .evtHoldoffEnd n => okEvent n
  | .sweSet _ _ => true
  | .canInit k _ _ => okCan k
  | .canIntegrationDone k => okCan k
  | .canFrameReceive k _ _ _ _ _ => okCan k
  | .canFrameDeliver k => okCan k
  | .canRxRead k => okCan k
  | .canTxRequest k b _ => okCan k && okTxBuffer b
  | .canTxAbort k b _ => okCan k && okTxBuffer b
  | .canRecordLoad k => okCan k
  | .canArbitration k => okCan k
  | .canTxDone k _ _ => okCan k
  | .canTxFail k _ _ => okCan k
  | .canLoneRetry k => okCan k
  | .canRecover k _ => okCan k
  | .canRecoveryDone k => okCan k
  | .canSentenceStart k => okCan k
  | .updBegin _ _ _ => true
  | .updBlock _ _ _ _ => true
  | .updVerify _ _ _ => true
  | .updActivate _ _ _ _ => true
  | .liveDrainEnd => true
  | .updConfirm _ _ _ => true
  | .updAbandon _ _ _ => true
  | .updKeyprog _ _ _ _ => true
  | .updUnlistedOp _ _ _ => true
  | .updCommandEnd => true
  | .updOwnerTimeout _ => true
  | .confirmDue => true
  | .confirmWindowExpiry => true
  | .scrubPassStart _ => true
  | .scrubPassEnd _ => true
  | .rtWalkPass _ => true
  | .sliceTest _ => true
  | .sliceRetire _ => true
  | .sliceTestRetire _ => true
  | .sliceCmdEnd _ => true
  | .rotationDue => true
  | .rotMove _ _ => true
  | .rotRetire _ _ => true
  | .moveCopyRound _ => true
  | .moveComplete => true
  | .selfTestEnd e _ _ => okPhysical e
  | .tempSample _ _ _ _ => true
  | .vmonWarn r _ => okRail r
  | .logCmd _ => true
  | .logRecordWrite => true
  | .idleNrReceive m => okLink m
  | .lineLowClear n => okPort n
  | .rxLiveClear p _ => okLinePort p
  | .canReceiveError k _ _ => okCan k
  | .reservedOpcode l c _ => okEngine l && okContext c
  | .helloReadyHoldEnd => true

end Sys2Proof
end

