-- ==== Sys2Proof/Certificates/Slice0/Obligations.lean ====
section
/-!
DEFINITION. The statements about the machine. Each docstring names the rules of the specification that its statement rests on.
-/
open Sys2Proof Sys2Proof.Machine

/-! ### The step -/

/-- A step takes the command at the front of the queue and is exec of it with the queue's rest. The queue is the model's form of a block
(log entry 3). -/
def Obligations.StepRunsFront : Prop :=
  ∀ (c : Instr) (s : State) (r : List Instr), s.pending = c :: r → step s = exec c { s with pending := r }

/-- R12, R661, R668, R767: State.reset waits for the end of a power-on reset: no command waits, the node has no ID, every register reads its
reset value, every byte reads as an unlisted one does, and memory and registers are in canonical form. That it is booting with the loader
not yet run, and what the registers and the bytes without a stated value hold, is the model's choice (log entries 6, 7, 17 and 19). -/
def Obligations.ResetState : Prop :=
  State.reset.pending = [] ∧ State.reset.nodeId = 0 ∧ State.reset.power.phase = .booting ∧ State.reset.power.loaded = false ∧
    (∀ a, getReg State.reset a = regReset a) ∧ (∀ a, memByte State.reset a = memReset a) ∧ Canonical State.reset

/-- Equal contents stay equal data: from every state whose memory and registers are in canonical form, a step gives such a state. -/
def Obligations.StepKeepsCanonical : Prop :=
  ∀ s t : State, Canonical s → step s = .next t → Canonical t

/-- R2, R56: nothing stops the block. From every state a step answers a next state, with one command fewer in the queue, and never changes
what manufacture fixed. -/
def Obligations.StepGoesOn : Prop :=
  ∀ s : State, ∃ t, step s = .next t ∧ SameDevice s t ∧ t.pending = s.pending.tail

/-! ### Power, resets and sleep -/

/-- R661, R663, R664, R767: POWER_ON_RESET, PIN_RESET and an awake node's keyed write of NODE.RST_CMD with KIND 1 hold the node in OFF
with everything but the levels at the pins and the flash at its reset value (`InReset`): every register, but for RST_CAUSE of the last
two, which gets its cause bit, and TILE[k].STAT, which shows whether VLT is good. The engine memories are cleared, and at power-on reset
the sentence store. A write of RST_CMD or FAULT_CMD with another key only sets NODE.STAT.CFG_ERR. Completes: powerOnReset, pinReset,
rstCmdFullSoft. A write of the store in progress when the reset begins leaves its word at the new value or uncorrectable, as the operand
of the reset says, or at the old one (R767). What a reset leaves in the flash and in UPD.BUF is the model's choice (log entries 6 and 7). -/
def Obligations.NodeResets : Prop :=
  ∀ s : State,
    (∃ t, exec .powerOnReset s = .next t ∧ InReset s t ∧
      (∀ a, (∀ k < 4, a ≠ aTile k 0x04) → getReg t a = regReset a) ∧
      (∀ a, memByte t a = if (0x00400000 ≤ a ∧ a < 0x00600000) ∨ (0x01000000 ≤ a ∧ a < 0x01400000) then memReset a else memByte s a)) ∧
    (∃ t, exec .pinReset s = .next t ∧ InReset s t ∧
      getReg t (aNode 0x04) = getReg s (aNode 0x04) ||| 2#32 ∧
      (∀ a, (∀ k < 4, a ≠ aTile k 0x04) → a ≠ aNode 0x04 → getReg t a = regReset a) ∧
      (∀ a, memByte t a = if 0x00400000 ≤ a ∧ a < 0x00600000 then memReset a else memByte s a)) ∧
    (awake s = true → ∃ t, exec (.rstCmdFullSoft 0x5A5A#16) s = .next t ∧ InReset s t ∧
      getReg t (aNode 0x04) = getReg s (aNode 0x04) ||| 4#32 ∧
      (∀ a, (∀ k < 4, a ≠ aTile k 0x04) → a ≠ aNode 0x04 → getReg t a = regReset a) ∧
      (∀ a, memByte t a = if 0x00400000 ≤ a ∧ a < 0x00600000 then memReset a else memByte s a)) ∧
    (∀ (key : BitVec 16) (torn : Option (Nat × Option Nat)), awake s = true → key ≠ 0x5A5A#16 →
      ∀ c ∈ [Instr.rstCmdFullSoft key torn, .rstCmdCoreRestart key torn, .faultCmd key],
      ∃ t, exec c s = .next t ∧ flag t (aNode 0x00) 16 = true ∧ t = { s with regs := t.regs } ∧ RegsKept s t [aNode 0x00]) ∧
    (∀ (w : Nat) (v : Option Nat),
      let u := tornWrite (some (w, v)) s
      let a := 0x01000000 + 8 * (w % 524288)
      exec (.pinReset (some (w, v))) s = exec .pinReset u ∧
      (awake s = true → exec (.rstCmdFullSoft 0x5A5A#16 (some (w, v))) s = exec (.rstCmdFullSoft 0x5A5A#16) u ∧
        exec (.rstCmdCoreRestart 0x5A5A#16 (some (w, v))) s = exec (.rstCmdCoreRestart 0x5A5A#16) u) ∧
      u = { s with mem := u.mem, ecc := u.ecc } ∧
      (v = none → eccOf u (a / 8) = 73 ∧ ∀ b, memByte u b = memByte s b) ∧
      (∀ x, v = some x → memNat u a 8 = x % 2 ^ 64 ∧ eccOf u (a / 8) = 0 ∧ ∀ b, b < a ∨ a + 8 ≤ b → memByte u b = memByte s b))

/-- R663, R667, R668: an awake node's keyed write of NODE.RST_CMD with KIND 0 restarts the core: it adds bit 3 to RST_CAUSE, keeps the boot
mode and every link's state, clears the node ID, and the boot loader has run. The end of another reset samples MODE1:0 (11b without TESTEN
counts as 10b, and is the cause in bit 7) and REFA, and the boot loader has run: the PLLs run from REFA when it is good (R751). Either
leaves the node booting, with nothing that manufacture fixed and no waiting command changed. Completes: rstCmdCoreRestart, resetEnd. R668,
R669: when the boot loader has run, the node enters HALTER, and events 97 and 99 are set; cells, memory, the node ID, the tables, the FIFOs
and the CAN controllers stay. Completes: halterEntry. -/
def Obligations.BootLoader : Prop :=
  (∀ s : State,
     (awake s = true → ∃ t, exec (.rstCmdCoreRestart 0x5A5A#16) s = .next t ∧ t.power.phase = .booting ∧ t.power.loaded = true ∧
       flag t (aNode 0x04) 3 = true ∧ t.power.bootMode = s.power.bootMode ∧ t.nodeId = 0 ∧ (∀ m, lnk t m = lnk s m) ∧
       (s.power.refB = false → t.power.refB = false) ∧
       t.pending = s.pending ∧ SameDevice s t) ∧
     (∀ (mode : BitVec 2) (testen refaGood : Bool), (s.power.phase = .off ∨ (s.power.phase = .booting ∧ s.power.loaded = false)) →
       ∃ t, exec (.resetEnd mode testen refaGood) s = .next t ∧ t.power.phase = .booting ∧ t.power.loaded = true ∧
         t.power.bootMode = (if mode = 3#2 ∧ testen = false then 2#2 else mode) ∧
         (mode = 3#2 → testen = false → flag t (aNode 0x04) 7 = true) ∧
         (refaGood = true → t.power.refB = false) ∧ (refaGood = false → (jRec s).state ≠ 1 → t.power.refB = true) ∧
         t.pending = s.pending ∧ SameDevice s t)) ∧
  (∀ s : State, s.power.phase = .booting → s.power.loaded = true →
     ∃ t, exec .halterEntry s = .next t ∧ t.power = { s.power with phase := .halter } ∧ EventSet 97 t ∧ EventSet 99 t ∧
       t.cells = s.cells ∧ t.mem = s.mem ∧ t.nodeId = s.nodeId ∧ t.tables = s.tables ∧ t.fifos = s.fifos ∧ t.can = s.can ∧
       t.pending = s.pending ∧ SameDevice s t)

/-- R662, R18, R751: a rail that fails or becomes good changes the sensed code of that rail (`railSet`) and, while the node is awake, sets
event 95; nothing else changes. In Stabled the event waits for the wake, and in a reset there is none. When REFA fails the PLLs continue
from REFB. Completes: ioRailFail, ioRailGood, refaFail. R670, R671: a keyed write of NODE.FAULT_CMD takes a node in HALTER or RUNNING, or
one that boots, to FAULT: the cause is recorded, event 99 is set (but for one that boots), both CAN controllers enter INIT with their error
counts at 0, every slice stops, and nothing transmits or drives. In FAULT it only records the cause, and while the clocks stand it does
nothing. Completes: faultCmd. That FAULT only records, event 95 for VHB and VCAN, the event that waits for the wake, and FAULT without the
event at boot, are the model's readings and choices (log entries 23, 47 and 77). -/
def Obligations.SuppliesAndFaults : Prop :=
  (∀ (s : State) (r : Rail), railOk r = true →
     (∀ c ∈ [(Instr.ioRailFail r, (0 : Nat))] ++ ((List.range 4).filter (fun x => railCode r (BitVec.ofNat 2 x))).map
         (fun x => (Instr.ioRailGood r (BitVec.ofNat 2 x), x)),
       (awake s = true → ∃ t, exec c.1 s = .next t ∧ EventSet 95 t ∧ t = withEvents (railSet r c.2 s) t ∧ RegsKeptE s t []) ∧
       (s.power.phase = .stabled →
         exec c.1 s = .next { railSet r c.2 s with power := { (railSet r c.2 s).power with supplyPend := true } }) ∧
       (s.power.phase = .off → exec c.1 s = .next (railSet r c.2 s)) ∧
       (r = .vhb → railSet r c.2 s = { s with power := { s.power with vhb := c.2 } }) ∧
       (r = .vcan → railSet r c.2 s = { s with power := { s.power with vcanOk := decide (c.2 ≠ 0) } }) ∧
       (∀ j, r = .vio j → railSet r c.2 s = { s with power := { s.power with vio := (railSet r c.2 s).power.vio } } ∧
         ∀ i, tabGet (fun _ => 3) (railSet r c.2 s).power.vio i = if i = j then c.2 else tabGet (fun _ => 3) s.power.vio i)) ∧
     exec .refaFail s = .next { s with power := { s.power with refB := true } }) ∧
  (∀ s : State,
     ((s.power.phase = .halter ∨ s.power.phase = .running ∨ s.power.phase = .booting) →
       ∃ t, exec (.faultCmd 0x5A5A#16) s = .next t ∧ t.power = { s.power with phase := .fault, entering := false, drained := false } ∧
         flag t (aNode 0x00) 8 = true ∧ (s.power.phase ≠ .booting → EventSet 99 t) ∧ (∀ k < 2, canState t k = 0 ∧ canTec t k = 0 ∧ canRec t k = 0) ∧
         (∀ n, slice t n = sliceStop (slice s n)) ∧
         (∀ n < 272, getReg t (aPort n 0x18) = getReg s (aPort n 0x18) &&& 0xFFFFFFBC#32) ∧ (∀ p < 16, drvOn t p = false) ∧
         t.queues = s.queues ∧ t.fifos = s.fifos ∧ t.mem = s.mem ∧ t.cells = s.cells ∧ t.tables = s.tables ∧ t.engs = s.engs ∧
         t.nodeId = s.nodeId ∧ t.pending = s.pending) ∧
     (s.power.phase = .fault →
       ∃ t, exec (.faultCmd 0x5A5A#16) s = .next t ∧ flag t (aNode 0x00) 8 = true ∧ t = { s with regs := t.regs } ∧
         RegsKept s t [aNode 0x00]) ∧
     (awake s = false → ∀ key, exec (.faultCmd key) s = .next s))

/-- R672: with EN 1 a write of 0000_5A5Ah to KICK is a service and restarts the count, also in the clock of expiry; any other value acts as
the expiry. With EN 0, and while the clocks stand, neither a write nor the end of the count has an effect. Completes: wdogKick. R672, R673:
an expiry of a watchdog with EN 1 and no service in that clock sets EXP and event 98 and acts by ACTION: 00b restarts the count, 01b
restarts it and takes a node in HALTER or RUNNING to FAULT with its cause, 10b restarts the core with the watchdog's cause. Completes:
wdogExpiry (a write of the store in progress at that restart is torn as R767 says). R674: a write of WDOG[i].CTL with a TIMEOUT and an
ACTION of its range is taken while EN is 0, and while EN is 1 only when it changes neither; EN stays 1 once it is, a write of 1 clears EXP,
and setting EN starts the count. Any other write is refused with NODE.STAT.CFG_ERR and changes nothing else. Completes: wdogCtlWrite. -/
def Obligations.Watchdogs : Prop :=
  (∀ (s : State) (i : Nat), i < 2 →
     (awake s = true → flag s (aWdog i) 31 = true → ∃ t, exec (.wdogKick i 0x5A5A#32) s = .next t ∧
       exec (.wdogExpiry i true) s = .next t ∧ t = { s with power := { s.power with wdogAt := t.power.wdogAt } } ∧
       ∀ j, tabGet (fun _ => 0) t.power.wdogAt j = if j = i then s.now else tabGet (fun _ => 0) s.power.wdogAt j) ∧
     (awake s = true → flag s (aWdog i) 31 = true → ∀ v : Word, v ≠ 0x5A5A#32 → exec (.wdogKick i v) s = exec (.wdogExpiry i false) s) ∧
     (∀ (b : Bool) (torn : Option (Nat × Option Nat)), (b = true ∨ fld s (aWdog i) 30 29 ≠ 2) →
       exec (.wdogExpiry i b torn) s = exec (.wdogExpiry i b) s) ∧
     (∀ (v : Word) (b : Bool) (torn : Option (Nat × Option Nat)), (flag s (aWdog i) 31 = false ∨ awake s = false) →
       exec (.wdogKick i v) s = .next s ∧ exec (.wdogExpiry i b torn) s = .next s)) ∧
  (∀ (s : State) (i : Nat), i < 2 → awake s = true → flag s (aWdog i) 31 = true →
     (fld s (aWdog i) 30 29 = 0 →
       ∃ t, exec (.wdogExpiry i false) s = .next t ∧ flag t (aWdog i) 28 = true ∧ EventSet 98 t ∧
         (∀ j, tabGet (fun _ => 0) t.power.wdogAt j = if j = i then s.now else tabGet (fun _ => 0) s.power.wdogAt j) ∧
         t = withEvents { s with power := { s.power with wdogAt := t.power.wdogAt } } t ∧ RegsKeptE s t [aWdog i]) ∧
     ((s.power.phase = .halter ∨ s.power.phase = .running) → fld s (aWdog i) 30 29 = 1 →
       ∃ t, exec (.wdogExpiry i false) s = .next t ∧ flag t (aWdog i) 28 = true ∧ EventSet 98 t ∧ flag t (aNode 0x00) 9 = true ∧
         t.power.phase = .fault ∧ (∀ n, slice t n = sliceStop (slice s n)) ∧
         (∀ j, tabGet (fun _ => 0) t.power.wdogAt j = if j = i then s.now else tabGet (fun _ => 0) s.power.wdogAt j) ∧
         t.mem = s.mem ∧ t.cells = s.cells ∧ t.tables = s.tables ∧ t.engs = s.engs ∧ t.pending = s.pending) ∧
     (fld s (aWdog i) 30 29 = 2 →
       (∀ torn, exec (.wdogExpiry i false torn) s = exec (.wdogExpiry i false) (tornWrite torn s)) ∧
       ∃ t, exec (.wdogExpiry i false) s = .next t ∧ t.power.phase = .booting ∧ t.power.loaded = true ∧ t.nodeId = 0 ∧
         flag t (aNode 0x04) (4 + i) = true ∧ t.pending = s.pending ∧ SameDevice s t)) ∧
  (∀ (s : State) (i : Nat) (v : Word), i < 2 → awake s = true →
     (bits v 15 0 ≠ 0 → bits v 30 29 ≠ 3 →
       (flag s (aWdog i) 31 = false ∨ (bits v 15 0 = fld s (aWdog i) 15 0 ∧ bits v 30 29 = fld s (aWdog i) 30 29)) →
       ∃ t, exec (.wdogCtlWrite i v) s = .next t ∧ fld t (aWdog i) 15 0 = bits v 15 0 ∧ fld t (aWdog i) 30 29 = bits v 30 29 ∧
         flag t (aWdog i) 31 = (flag s (aWdog i) 31 || bit v 31) ∧ flag t (aWdog i) 28 = (flag s (aWdog i) 28 && !bit v 28) ∧
         (∀ j, tabGet (fun _ => 0) t.power.wdogAt j = if j = i ∧ flag s (aWdog i) 31 = false ∧ bit v 31 = true then s.now
           else tabGet (fun _ => 0) s.power.wdogAt j) ∧
         t = { s with regs := t.regs, power := { s.power with wdogAt := t.power.wdogAt } } ∧ RegsKept s t [aWdog i]) ∧
     ((bits v 15 0 = 0 ∨ bits v 30 29 = 3 ∨
         (flag s (aWdog i) 31 = true ∧ (bits v 15 0 ≠ fld s (aWdog i) 15 0 ∨ bits v 30 29 ≠ fld s (aWdog i) 30 29))) →
       ∃ t, exec (.wdogCtlWrite i v) s = .next t ∧ flag t (aNode 0x00) 16 = true ∧ t = { s with regs := t.regs } ∧
         RegsKept s t [aNode 0x00]))

/-- R675: a keyed write of SLEEP_CMD with GO in HALTER or RUNNING begins the entry into Stabled; GO at another time, or another key for
SLEEP_CMD or WAKE_OUT, only sets NODE.STAT.CFG_ERR. At the end of the drain no port has a unit in its parser, and no sentence waits in a CAN
sender: those are counted. When what was started has been sent and completed (`entryReady`), the clocks stop: the node is STABLED, event 99
is set, CNT_SLEEP counts, and without RING_KEEP the links go dark; memory, tables, engines and CAN controllers stay. Completes: sleepCmd,
sleepDrainEnd, stabledEntry. R679, R130, R619: a source that sees its condition in Stabled and whose WAKE_EN bit is 1 starts the wake time
with WAKE_SRC showing it alone; a port's slice keeps the low level it saw, and a CAN controller sets STAT.WAKE. A source seen during the
wake time only adds its bit to WAKE_SRC. R680: at the end of the wake time the node is in the state it slept from, with event 96; events set
in Stabled are taken up then, and a cause of FAULT acts. Completes: wakeDetect, wakeEnd. R682, R665: a keyed write of WAKE_OUT by an awake
node sends WAKE sets on the named links that are UP, until the 1 ms ends; 100 ms after a core restart the stripping of the former ID ends.
Completes: wakeOut, wakeOutEnd, stripWindowEnd. That contexts and mover stand still meanwhile (log entry 45), STAT.WAKE and the low level of
a port (46), what waits for the wake and a second WAKE_OUT (77) and the count of the CAN sender (81) are the model's readings and choices.
-/
def Obligations.SleepAndWake : Prop :=
  (∀ s : State,
     ((s.power.phase = .halter ∨ s.power.phase = .running) → s.power.entering = false → ∀ v : Word, bits v 31 16 = 0x5A5A →
       bit v 0 = true → exec (.sleepCmd v) s = .next { s with power := { s.power with entering := true, drained := false } }) ∧
     (∀ v : Word, awake s = true →
       (bits v 31 16 ≠ 0x5A5A ∨ (bit v 0 = true ∧ (s.power.entering = true ∨ (s.power.phase ≠ .halter ∧ s.power.phase ≠ .running)))) →
       ∃ t, exec (.sleepCmd v) s = .next t ∧ (bits v 31 16 ≠ 0x5A5A → exec (.wakeOut v) s = .next t) ∧
         flag t (aNode 0x00) 16 = true ∧ t = { s with regs := t.regs } ∧ RegsKept s t [aNode 0x00]) ∧
     (s.power.entering = true → s.power.drained = false →
       ∃ t, exec .sleepDrainEnd s = .next t ∧ t.power = { s.power with drained := true } ∧
         (∀ n < portCount s, (parser t n).cur = none) ∧ t.nodeId = s.nodeId ∧ t.tables = s.tables ∧
         t.engs = s.engs ∧ t.pending = s.pending ∧ (∀ k < 2, canSt t k = { canSt s k with sq := [] } ∧
           getReg t (aCan k 0x7C) = satAdd (getReg s (aCan k 0x7C)) (canSt s k).sq.length)) ∧
     (entryReady s = true →
       ∃ t, exec .stabledEntry s = .next t ∧ t.power.phase = .stabled ∧ t.power.sleepFrom = s.power.phase ∧ t.power.entering = false ∧
         t.power.sleptAt = s.now ∧ getReg t (aNode 0x2C) = getReg s (aNode 0x2C) + 1 ∧ EventSet 99 t ∧
         (∀ m < 4, flag s (aNode 0x10) 31 = false → (lnk t m).dark = true) ∧ t.mem = s.mem ∧
         t.tables = s.tables ∧ t.engs = s.engs ∧ t.can = s.can ∧ t.nodeId = s.nodeId ∧ t.pending = s.pending)) ∧
  (∀ s : State, s.power.phase = .stabled →
     (∀ w : WakeSrc, wakeSees s w = true → flag s (aNode 0x18) (wakeBit w) = true →
       (s.power.waking = false →
         ∃ t, exec (.wakeDetect [w]) s = .next t ∧ getReg t (aNode 0x1C) = wd (2 ^ wakeBit w) ∧
           (∀ n tx, w = .port n tx → slice t n = { slice s n with wakeLow := true }) ∧
           (∀ j, (∀ tx, w ≠ .port j tx) → slice t j = slice s j) ∧
           (∀ k, w = .canPattern k → flag t (aCan k 0x04) 17 = true) ∧
           (∀ k ide id dlc data, w = .canFrame k ide id dlc data → flag t (aCan k 0x04) 17 = true) ∧
           t = { s with regs := t.regs, slices := t.slices, power := { s.power with waking := true } } ∧
           RegsKept s t [aNode 0x1C, aCan 0 0x04, aCan 1 0x04] ∧
           ((∀ k, w ≠ .canPattern k) → (∀ k ide id dlc data, w ≠ .canFrame k ide id dlc data) → RegsKept s t [aNode 0x1C])) ∧
       (s.power.waking = true →
         ∃ t, exec (.wakeDetect [w]) s = .next t ∧ getReg t (aNode 0x1C) = getReg s (aNode 0x1C) ||| wd (2 ^ wakeBit w) ∧
           (∀ j, (∀ tx, w ≠ .port j tx) → slice t j = slice s j) ∧ t = { s with regs := t.regs, slices := t.slices } ∧
           RegsKept s t [aNode 0x1C])) ∧
     (∀ slept : Nat, s.power.waking = true →
       ∃ t, exec (.wakeEnd slept) s = .next t ∧ t.power.waking = false ∧ pulseSt t 96 ≠ .idle ∧
         (s.power.faultDue = [] → t.power.phase = s.power.sleepFrom) ∧
         ((s.power.sleepFrom = .halter ∨ s.power.sleepFrom = .running) →
           (s.power.faultDue ≠ [] → t.power.phase = .fault ∧ ∀ b ∈ s.power.faultDue, b < 32 → flag t (aNode 0x00) b = true) ∧
           t.evtDue = [] ∧ t.peerDue = [] ∧ t.power.faultDue = [] ∧
           ∀ e ∈ s.evtDue, evtReserved s e = false → flag t (aEvtStat e) (e % 32) = true) ∧
         ((∀ n, (slice s n).rx = none) → t.mem = s.mem) ∧ t.tables = s.tables ∧ t.engs = s.engs ∧ t.nodeId = s.nodeId ∧
         t.pending = s.pending)) ∧
  (∀ s : State,
     (∀ v : Word, awake s = true → bits v 31 16 = 0x5A5A → ∃ t, exec (.wakeOut v) s = .next t ∧
       t = { s with power := { s.power with wakeOut := t.power.wakeOut } } ∧
       ∀ m, m ∈ t.power.wakeOut ↔ m ∈ s.power.wakeOut ∨ (m < 4 ∧ bit v m = true ∧ linkUp s m = true)) ∧
     exec .wakeOutEnd s = .next { s with power := { s.power with wakeOut := [] } } ∧
     exec .stripWindowEnd s = .next { s with ring := { s.ring with stripOn := false } })

/-- R650, R664, R671, R484: what the balls show. In a reset other than a core restart every output is released but TXDIS, which is high,
FAULT_N, low, and SLEEPST, low; in FAULT, FAULT_N is low, no line driver drives and no discrete line is at its active level; SLEEPST is
high exactly in Stabled. With VHB good, HINT_Nj is low exactly while an event is pending on line j and MASKj is 0. FAULT_N low while
booting is the model's reading (log entry 78). -/
def Obligations.OutputBalls : Prop :=
  ∀ s : State,
    (s.power.phase = .off → (∀ m, txDisBall s m = .high) ∧ faultBall s = .low ∧ sleepBall s = .low ∧ (∀ j, hintBall s j = .released) ∧
      (∀ n k, stxBall s n k = .released) ∧ (∀ n, sdirBall s n = .released) ∧ (∀ p k, lineBall s p k = .released) ∧
      (∀ k, dlBall s k = .released) ∧ ppsOutBall s = .released) ∧
    (s.power.phase = .fault → faultBall s = .low ∧ (∀ p k, lineBall s p k = .released) ∧ ∀ k, dlActive s k = false) ∧
    (sleepBall s = .high ↔ s.power.phase = .stabled) ∧
    (∀ j, s.power.phase ≠ .off → s.power.vhb ≠ 0 →
      (hintBall s j = .low ↔ (∃ n < 128, evtPending s j n = true) ∧ flag s (aNode 0x1050) (4 + j) = false))

/-! ### Ports, raw blocks and line tiles -/

/-- R93–R96, R110–R114, R206: an armed slice that sees a start candidate longer than GLITCH clocks, with at most one of its three start
samples high, is in reception: RX_BUSY is set, IDLE cleared, the timers stop, and the edge's clock, without the delay of the
synchroniser and of a line tile, is kept with the noise of the samples.
With two or three high samples, or a candidate too short, it is a false start: counted and flagged; the first of these also clears IDLE
and restarts the timers, or waits for the line when it is low; the second changes nothing else of the slice unless a timer expired in that
clock. Completes: startEdge. -/
def Obligations.StartEdges : Prop :=
  ∀ (s : State) (n : Nat) (tx : Bool) (ago : Word) (low : Nat) (v : BitVec 3) (echo idleDue tmoDue : Bool),
    rxArmed s n tx echo = true → low ≠ 0 →
    (fld s (aPort n 0x0C) 4 2 + 1 ≤ low → maj v = false →
      ∃ t, exec (.startEdge n ago low v echo idleDue tmoDue tx) s = .next t ∧
        (slice t n).rx = some (s.time.ppCount - ago - 2#32 - (if 256 ≤ n then 9#32 else 0#32), decide (v ≠ 0#3)) ∧
        (slice t n).idleRun = false ∧ (slice t n).tmoRun = false ∧ flag t (aPort n 0x18) 0 = true ∧ flag t (aPort n 0x18) 2 = false ∧
        (slice t n).rxFmt = (if flag s (aPort n 0x18) 4 && !flag s (aPort n 0x00) 4 then getReg s (aPort n 0x08) else (slice s n).rxFmt) ∧
        (slice t n).rxBaud = (if flag s (aPort n 0x18) 4 && !flag s (aPort n 0x00) 4 then getReg s (aPort n 0x04) else (slice s n).rxBaud) ∧
        t = { s with regs := t.regs, slices := t.slices } ∧ RegsKept s t [aPort n 0x18] ∧ ∀ j, j ≠ n → slice t j = slice s j) ∧
    (fld s (aPort n 0x0C) 4 2 + 1 ≤ low → maj v = true →
      ∃ t, exec (.startEdge n ago low v echo idleDue tmoDue tx) s = .next t ∧ (slice t n).rx = none ∧
        (slice t n).idleRun = v.getLsbD 2 ∧ (slice t n).tmoRun = v.getLsbD 2 ∧ flag t (aPort n 0x18) 3 = !v.getLsbD 2 ∧
        flag t (aPort n 0x18) 2 = false ∧ flag t (aPort n 0x18) 15 = true ∧
        getReg t (aPort n 0xB8) = satAdd (getReg s (aPort n 0xB8)) 1 ∧
        t = withEvents { s with slices := t.slices } t ∧ RegsKeptE s t [aPort n 0x18, aPort n 0xB8] ∧ ∀ j, j ≠ n → slice t j = slice s j) ∧
    (low ≤ fld s (aPort n 0x0C) 4 2 → tmoDue = false →
      ∃ t, exec (.startEdge n ago low v echo idleDue tmoDue tx) s = .next t ∧ getReg t (aPort n 0xB8) = satAdd (getReg s (aPort n 0xB8)) 1 ∧
        flag t (aPort n 0x18) 15 = true ∧ flag t (aPort n 0x18) 2 = (flag s (aPort n 0x18) 2 || (idleDue && (slice s n).idleRun)) ∧
        slice t n = { slice s n with idleRun := (slice s n).idleRun && !idleDue } ∧ (∀ j, j ≠ n → slice t j = slice s j) ∧
        t = withEvents { s with slices := t.slices } t ∧ RegsKeptE s t [aPort n 0x18, aPort n 0xB8]) ∧
    (low ≤ fld s (aPort n 0x0C) 4 2 → idleDue = false →
      ∃ u, exec (.startEdge n ago low v echo false false tx) s = .next u ∧
        exec (.startEdge n ago low v echo false true tx) s = exec (.rawTimeoutExpiry n) u)

/-- R98–R107, R20, R208: a character in reception becomes one item of the port's gate, which holds four: the item carries the value, the
edge and the errors of its samples, each error is counted once and flagged, and with a full gate the item is lost, counted, and the next
one carries LOST. The slice waits for the line after a break or a low last sample that is no new edge; otherwise the idle timer and the
receive timeout start. On a line port whose tile is ready the line's amplitude is noted. With that the character boundary is reached,
which changes nothing unless a new MODE is pending. Completes: characterReceipt. R106, R110, R187: the idle timer sets IDLE; a line that
has been high again ends the wait of a slice and starts both timers unless it receives in OFF; the receive timeout of a RAW or TUNNEL port
puts its marker behind the waiting characters, and with none waiting closes the block in progress: an empty one stays, one of a RAW port
is written back to its descriptor with TMO, its flags and its length, and counted. Completes: idleTimerExpiry, lineLowClear,
rawTimeoutExpiry. R183–R188, R190: a character with an edge that the switch takes from a RAW port's gate and that leaves room in its block
is stored at the block's next byte (two bytes with 9 data bits), FILL grows, and nothing else in memory changes; the first of a block
takes the descriptor's buffer and its own stamp. When the descriptor is not owned by the device the character is dropped and counted. A
TUNNEL port keeps the bytes for its frame. A mode change that waits behind the character follows. Completes: rawItem (RAW with no word of
memory in error). The mode change behind the items (log entry 11), a wait for the line that ends in OFF (71) and the bytes of an item by the
format then in force (72) are the model's readings and choices. -/
def Obligations.CharacterReceipt : Prop :=
  (∀ (s : State) (n : Nat) (votes : List (BitVec 3)) (fresh : Bool) (amp : Nat) (cm : Int) (e : Word) (noisy : Bool),
     portRuns s n = true → (slice s n).rx = some (e, noisy) →
     ∃ u, exec (.characterReceipt n votes amp cm fresh) s = .next (rxBoundary n u) ∧
       (fld s (aPort n 0x00) 1 0 = (slice s n).rxMode → rxBoundary n u = u) ∧ (slice u n).rx = none ∧
       (let it := rxForm (slice s n).rxFmt e noisy votes
        let full := decide (4 ≤ ((slice s n).rxq.filter (fun i => !i.marker && i.mode.isNone)).length)
        let stop := votes.getD (bits (slice s n).rxFmt 3 0 + (if bits (slice s n).rxFmt 6 4 = 0 then 0 else 1)) 7#3
        (slice u n).rxq = (if full then (slice s n).rxq
          else (slice s n).rxq ++ [{ it with lost := (slice s n).lost, wake := (slice s n).lost && (slice s n).wakeLost }]) ∧
        (slice u n).lost = full ∧ (slice u n).wakeLost = ((slice s n).wakeLost && (full || !(slice s n).lost)) ∧
        flag u (aPort n 0x18) 3 = (it.brk || (!stop.getLsbD 2 && !fresh)) ∧
        (slice u n).idleRun = !(it.brk || (!stop.getLsbD 2 && !fresh)) ∧ (slice u n).tmoRun = !(it.brk || (!stop.getLsbD 2 && !fresh)) ∧
        getReg u (aPort n 0xA0) = getReg s (aPort n 0xA0) + 1 ∧
        getReg u (aPort n 0xA8) = (if it.fe then satAdd (getReg s (aPort n 0xA8)) 1 else getReg s (aPort n 0xA8)) ∧
        getReg u (aPort n 0xAC) = (if it.pe then satAdd (getReg s (aPort n 0xAC)) 1 else getReg s (aPort n 0xAC)) ∧
        getReg u (aPort n 0xB0) = (if it.brk then satAdd (getReg s (aPort n 0xB0)) 1 else getReg s (aPort n 0xB0)) ∧
        getReg u (aPort n 0xB4) = (if it.noise then satAdd (getReg s (aPort n 0xB4)) 1 else getReg s (aPort n 0xB4)) ∧
        getReg u (aPort n 0xBC) = (if full then satAdd (getReg s (aPort n 0xBC)) 1 else getReg s (aPort n 0xBC)) ∧
        (∀ b ∈ [(8, it.fe), (9, it.pe), (10, it.brk), (11, it.noise), (12, full)],
          flag u (aPort n 0x18) b.1 = (flag s (aPort n 0x18) b.1 || b.2))) ∧
       flag u (aPort n 0x18) 0 = false ∧
       (256 ≤ n → (tile s ((n - 256) / 4)).ready = true → fld u (aLine (n - 256) 0x10) 15 0 = min amp 15000) ∧
       u = withEvents { s with slices := u.slices } u ∧ (∀ j, j ≠ n → slice u j = slice s j) ∧
       RegsKeptE s u ([aPort n 0x18, aPort n 0xA0, aPort n 0xA8, aPort n 0xAC, aPort n 0xB0, aPort n 0xB4, aPort n 0xBC] ++
         (if 256 ≤ n then [aLine (n - 256) 0x04, aLine (n - 256) 0x10, aLine (n - 256) 0x14, aLine (n - 256) 0x20] else []))) ∧
  (∀ (s : State) (n : Nat),
     (portRuns s n = true → (slice s n).idleRun = true → (slice s n).rx = none →
       ∃ t, exec (.idleTimerExpiry n) s = .next t ∧ slice t n = { slice s n with idleRun := false } ∧ flag t (aPort n 0x18) 2 = true ∧
         (∀ j, j ≠ n → slice t j = slice s j) ∧ t = { s with regs := t.regs, slices := t.slices } ∧ RegsKept s t [aPort n 0x18]) ∧
     (portRuns s n = true → flag s (aPort n 0x18) 3 = true →
       ∃ t, exec (.lineLowClear n) s = .next t ∧
         slice t n = { slice s n with idleRun := decide ((slice s n).rxMode ≠ 0), tmoRun := decide ((slice s n).rxMode ≠ 0) } ∧
         flag t (aPort n 0x18) 3 = false ∧ (∀ j, j ≠ n → slice t j = slice s j) ∧
         t = { s with regs := t.regs, slices := t.slices } ∧ RegsKept s t [aPort n 0x18]) ∧
     (awake s = true → (slice s n).tmoRun = true → fld s (aPort n 0x80) 15 8 ≠ 0 → ((slice s n).rxMode = 2 ∨ (slice s n).rxMode = 3) →
       ((slice s n).rxq ≠ [] → ∃ t, exec (.rawTimeoutExpiry n) s = .next t ∧
         slice t n = { slice s n with tmoRun := false, rxq := (slice s n).rxq ++ [{ marker := true }] } ∧
         (∀ j, j ≠ n → slice t j = slice s j) ∧ t = { s with slices := t.slices }) ∧
       ((slice s n).rxq = [] → rawFill s n = 0 → ∃ t, exec (.rawTimeoutExpiry n) s = .next t ∧
         slice t n = { slice s n with tmoRun := false } ∧
         (∀ j, j ≠ n → slice t j = slice s j) ∧ t = { s with slices := t.slices }) ∧
       ((slice s n).rxq = [] → rawFill s n ≠ 0 → (slice s n).rxMode = 2 → ∃ t, exec (.rawTimeoutExpiry n) s = .next t ∧
         slice t n = { slice s n with tmoRun := false } ∧ rawFill t n = 0 ∧ flag t (aPort n 0x8C) 0 = true ∧
         memNat t (rawDesc s n (rawIdx s n) + 4) 4 =
           2 ^ 30 + b2n (raw s n).lost * 2 ^ 29 + b2n (raw s n).err * 2 ^ 28 + rawFill s n ∧
         memNat t (rawDesc s n (rawIdx s n) + 8) 8 = (raw s n).stamp.toNat ∧
         (∀ a, a < rawDesc s n (rawIdx s n) + 4 ∨ rawDesc s n (rawIdx s n) + 16 ≤ a → memByte t a = memByte s a) ∧
         getReg t (aPort n 0x90) = getReg s (aPort n 0x90) + 1 ∧
         t = withEvents { s with slices := t.slices, raws := t.raws, mem := t.mem, ecc := t.ecc } t ∧
         RegsKeptE s t [aPort n 0x88, aPort n 0x8C, aPort n 0x90]))) ∧
  (∀ (s : State) (n : Nat) (it : RxItem) (r : List RxItem) (d : DWord), (slice s n).rxq = it :: r → awake s = true →
     ftOfCount s (portClock n) it.edge = some d → it.marker = false → ((slice s n).swMode = 2 → s.ecc = []) →
     (let bs := rawBytes (slice s n).rxFmt it
      let own := decide (2 ^ 31 ≤ memNat s (rawDesc s n (rawIdx s n) + 4) 4)
      ((slice s n).swMode = 2 → own = true → (rawFill s n = 0 → rawBad s n (rawDesc s n (rawIdx s n)) = false) →
        rawFill s n + bs.length < (if rawFill s n = 0 then rawSize s n false else (raw s n).size) → rawFill s n + bs.length < 2 ^ 13 →
        ∃ u, exec (.rawItem n) s = .next (swModes n (slice s n).rxq.length u) ∧
          (r.head?.bind (·.mode) = none → swModes n (slice s n).rxq.length u = u) ∧
          slice u n = { slice s n with rxq := r } ∧ rawFill u n = rawFill s n + bs.length ∧
          (rawFill s n = 0 → (raw u n).stamp = d) ∧
          (∀ a, memByte u a =
            (let b := 0x01000000 + (if rawFill s n = 0 then memNat s (rawDesc s n (rawIdx s n)) 4 % 2 ^ 22 else (raw s n).base) + rawFill s n
             if b ≤ a ∧ a < b + bs.length then bs.getD (a - b) 0 else memByte s a)) ∧
          (∀ j, j ≠ n → raw u j = raw s j) ∧
          u = { s with regs := u.regs, slices := u.slices, raws := u.raws, mem := u.mem, ecc := u.ecc, parsers := u.parsers } ∧
          RegsKept s u [aPort n 0x88]) ∧
      ((slice s n).swMode = 2 → own = false →
        ∃ u, exec (.rawItem n) s = .next (swModes n (slice s n).rxq.length u) ∧ slice u n = { slice s n with rxq := r } ∧
          (raw u n).dropped = true ∧ getReg u (aPort n 0x94) = satAdd (getReg s (aPort n 0x94)) 1 ∧ flag u (aPort n 0x8C) 1 = true ∧
          u = withEvents { s with slices := u.slices, raws := u.raws, parsers := u.parsers } u ∧
          RegsKeptE s u [aPort n 0x8C, aPort n 0x94]) ∧
      ((slice s n).swMode = 3 →
        rawFill s n + bs.length < (if rawFill s n = 0 then rawSize s n true else (raw s n).size) → rawFill s n + bs.length < 2 ^ 13 →
        ∃ u, exec (.rawItem n) s = .next (swModes n (slice s n).rxq.length u) ∧ slice u n = { slice s n with rxq := r } ∧
          rawFill u n = rawFill s n + bs.length ∧ (raw u n).buf = (if rawFill s n = 0 then [] else (raw s n).buf) ++ bs ∧
          u = { s with regs := u.regs, slices := u.slices, raws := u.raws, parsers := u.parsers } ∧ RegsKept s u [aPort n 0x88])))

/-- R78, R90, R671, R726: a write of PORT[n].MODE of an awake node stores MODE and HOLD. In FAULT, and in the middle of a character of both
directions, nothing else happens; a direction without a character in its shifter takes the new mode, the other keeps its own, and no other
port's mode changes. A slice that is OFF with nothing waiting takes the new mode and changes nothing but itself, its block and its parser. A
port without a slice refuses a mode other than OFF with CFG_ERR. Completes: portModeWrite. R87, R88, R118, R119: a write of MEAS_CTL with a
window stores WINDOW and CONT, and START starts a window; a window of 0 only sets CFG_ERR. The end of a window stores the shortest stable
pulse between confirmed edges and their number and sets MEAS_DONE, and START stays 1 only with CONT. Completes: measStart, measWindowEnd.
Which items a mode change meets (log entry 11), START written while a window runs (71) and the edges at a rejected glitch (81) are the
model's readings and choices. -/
def Obligations.PortModes : Prop :=
  (∀ (s : State) (n : Nat) (v : Word), n < portCount s → awake s = true →
     (fld s (aPort n 0x20) 8 0 ≠ 0x1FF →
       ((inFault s = true ∨ ((slice s n).rx ≠ none ∧ (slice s n).shifter ≠ none)) →
         ∃ t, exec (.portModeWrite n v) s = .next t ∧ getReg t (aPort n 0x00) = v &&& 0x13#32 ∧ t = { s with regs := t.regs } ∧
           RegsKept s t [aPort n 0x00]) ∧
       (inFault s = false →
         ∃ t, exec (.portModeWrite n v) s = .next t ∧ getReg t (aPort n 0x00) = v &&& 0x13#32 ∧
           (slice t n).rxMode = (if (slice s n).rx = none then bits v 1 0 else (slice s n).rxMode) ∧
           (slice t n).txMode = (if (slice s n).shifter = none then bits v 1 0 else (slice s n).txMode) ∧
           ∀ j, j ≠ n → (slice t j).rxMode = (slice s j).rxMode ∧ (slice t j).txMode = (slice s j).txMode) ∧
       (inFault s = false → (slice s n).rx = none → (slice s n).shifter = none → (slice s n).rxMode = 0 →
         (slice s n).txMode = 0 → (slice s n).swMode = 0 → (slice s n).rxq = [] →
         ∃ t, exec (.portModeWrite n v) s = .next t ∧ (∀ j, j ≠ n → slice t j = slice s j) ∧
           t = { s with regs := t.regs, slices := t.slices, raws := t.raws, parsers := t.parsers } ∧
           RegsKept s t [aPort n 0x00, aPort n 0x18, aPort n 0x88])) ∧
     (fld s (aPort n 0x20) 8 0 = 0x1FF → bits v 1 0 ≠ 0 →
       ∃ t, exec (.portModeWrite n v) s = .next t ∧ flag t (aPort n 0x18) 18 = true ∧ t = withEvents s t ∧ RegsKeptE s t [aPort n 0x18])) ∧
  (∀ (s : State) (n : Nat), n < portCount s → awake s = true →
     (∀ v : Word, bits v 15 0 ≠ 0 →
       ∃ t, exec (.measStart n v) s = .next t ∧ fld t (aPort n 0x28) 15 0 = bits v 15 0 ∧ flag t (aPort n 0x28) 17 = bit v 17 ∧
         flag t (aPort n 0x28) 16 = (flag s (aPort n 0x28) 16 || bit v 16) ∧ t = { s with regs := t.regs } ∧ RegsKept s t [aPort n 0x28]) ∧
     (∀ v : Word, bits v 15 0 = 0 →
       ∃ t, exec (.measStart n v) s = .next t ∧ flag t (aPort n 0x18) 18 = true ∧ t = withEvents s t ∧ RegsKeptE s t [aPort n 0x18]) ∧
     (∀ (runs : List Nat) (after : Nat), flag s (aPort n 0x28) 16 = true →
       let es := measEdges (fld s (aPort n 0x0C) 4 2) after runs
       ∃ t, exec (.measWindowEnd n runs after) s = .next t ∧ getReg t (aPort n 0x2C) = wd (measMin (edgePulses es)) ∧
         getReg t (aPort n 0x30) = wd es.length ∧ flag t (aPort n 0x28) 16 = flag s (aPort n 0x28) 17 ∧ flag t (aPort n 0x18) 16 = true ∧
         t = withEvents s t ∧ RegsKeptE s t [aPort n 0x18, aPort n 0x28, aPort n 0x2C, aPort n 0x30]))

/-- R85, R132–R136: a swap request of an awake node for a free slice that may serve the port, and that no slice command names, stores
FORCE and TARGET and starts the wait; a request for another slice only sets CFG_ERR. With the transmit shifter empty and the line idle the
port moves to slice TARGET with RESULT 1, the old slice is free, event 93 is set and CS.GENERATION grows by 2. When SWAPWAIT ends first
the request ends with RESULT 3, or with FORCE the port moves at the character boundary with RESULT 2, a character in reception being lost
and counted. Completes: swapRequest, sliceSwap, swapwaitExpiry, forcedSwap. That a request replaces a pending one, and that TARGET is looked
at again at the move, which ends with RESULT 3 and no move when that slice is no free one that may serve the port, are the model's choices
(log entry 71). -/
def Obligations.SliceMoves : Prop :=
  ∀ (s : State) (n : Nat),
    (∀ v : Word, n < portCount s → awake s = true → bit v 28 = true →
      (mayServe n (bits v 24 16) = true → sliceMap s (bits v 24 16) / 0x4000 = 0 → sliceBusy s (bits v 24 16) = false →
        ∃ t, exec (.swapRequest n v) s = .next t ∧ flag t (aPort n 0x20) 28 = true ∧ flag t (aPort n 0x20) 29 = bit v 29 ∧
          fld t (aPort n 0x20) 24 16 = bits v 24 16 ∧ slice t n = { slice s n with waitRun := true, forcePend := false } ∧
          (∀ j, j ≠ n → slice t j = slice s j) ∧ t = { s with regs := t.regs, slices := t.slices } ∧ RegsKept s t [aPort n 0x20]) ∧
      (mayServe n (bits v 24 16) = false ∨ sliceMap s (bits v 24 16) / 0x4000 ≠ 0 ∨ sliceBusy s (bits v 24 16) = true →
        ∃ t, exec (.swapRequest n v) s = .next t ∧ flag t (aPort n 0x18) 18 = true ∧ t = withEvents s t ∧
          RegsKeptE s t [aPort n 0x18])) ∧
    (∀ c ∈ [Instr.sliceSwap n, .swapwaitExpiry n], portRuns s n = true → flag s (aPort n 0x20) 28 = true → (slice s n).waitRun = true →
      swapReady s n = true → swapFits s n (swapTarget s n) = true →
      ∃ t, exec c s = .next t ∧ fld t (aPort n 0x20) 8 0 = fld s (aPort n 0x20) 24 16 ∧ fld t (aPort n 0x20) 31 30 = 1 ∧
        flag t (aPort n 0x20) 28 = false ∧ flag t (aPort n 0x18) 17 = true ∧ EventSet 93 t ∧
        slice t n = { slice s n with waitRun := false, forcePend := false } ∧
        (∀ x, sliceMap t x = if x = fld s (aPort n 0x20) 24 16 then 0x4000 + n
          else if x = fld s (aPort n 0x20) 8 0 then 0x01FF else sliceMap s x) ∧
        t = withEvents { s with sliceMap := t.sliceMap, csGen := s.csGen + 2, slices := t.slices } t ∧
        RegsKeptE s t [aPort n 0x20, aPort n 0x18]) ∧
    (portRuns s n = true → flag s (aPort n 0x20) 28 = true → (slice s n).waitRun = true → swapReady s n = false →
      flag s (aPort n 0x20) 29 = false →
      ∃ t, exec (.swapwaitExpiry n) s = .next t ∧ fld t (aPort n 0x20) 31 30 = 3 ∧ flag t (aPort n 0x20) 28 = false ∧
        fld t (aPort n 0x20) 8 0 = fld s (aPort n 0x20) 8 0 ∧ flag t (aPort n 0x18) 17 = true ∧
        slice t n = { slice s n with waitRun := false, forcePend := false } ∧ t = withEvents { s with slices := t.slices } t ∧
        RegsKeptE s t [aPort n 0x20, aPort n 0x18]) ∧
    (portRuns s n = true → flag s (aPort n 0x20) 28 = true → (slice s n).waitRun = true → swapReady s n = false →
      flag s (aPort n 0x20) 29 = true → (slice s n).shifter ≠ none →
      ∃ t, exec (.swapwaitExpiry n) s = .next t ∧ slice t n = { slice s n with waitRun := false, forcePend := true } ∧
        (∀ j, j ≠ n → slice t j = slice s j) ∧ t = { s with slices := t.slices }) ∧
    (∀ c ∈ [(Instr.sliceSwap n, true), (.swapwaitExpiry n, true), (.forcedSwap n, false)], portRuns s n = true →
      swapFits s n (swapTarget s n) = false →
      (if c.2 then flag s (aPort n 0x20) 28 = true ∧ (slice s n).waitRun = true ∧ swapReady s n = true else (slice s n).forcePend = true) →
      ∃ t, exec c.1 s = .next t ∧ fld t (aPort n 0x20) 31 30 = 3 ∧ flag t (aPort n 0x20) 28 = false ∧
        fld t (aPort n 0x20) 8 0 = fld s (aPort n 0x20) 8 0 ∧ flag t (aPort n 0x18) 17 = true ∧
        slice t n = { slice s n with waitRun := false, forcePend := false } ∧ t = withEvents { s with slices := t.slices } t ∧
        RegsKeptE s t [aPort n 0x20, aPort n 0x18]) ∧
    (portRuns s n = true → (slice s n).forcePend = true → swapFits s n (swapTarget s n) = true →
      ((slice s n).rx = none ∨ fld s (aPort n 0x00) 1 0 = (slice s n).rxMode) →
      ∃ t, exec (.forcedSwap n) s = .next t ∧ fld t (aPort n 0x20) 8 0 = fld s (aPort n 0x20) 24 16 ∧ fld t (aPort n 0x20) 31 30 = 2 ∧
        flag t (aPort n 0x20) 28 = false ∧ flag t (aPort n 0x18) 17 = true ∧ EventSet 93 t ∧
        sliceMap t (fld s (aPort n 0x20) 24 16) = 0x4000 + n ∧ (slice t n).rx = none ∧
        getReg t (aPort n 0xC8) = (if (slice s n).rx = none then getReg s (aPort n 0xC8) else satAdd (getReg s (aPort n 0xC8)) 1) ∧
        (slice t n).lost = ((slice s n).lost || (slice s n).rx.isSome) ∧
        t = withEvents { s with sliceMap := t.sliceMap, csGen := s.csGen + 2, slices := t.slices } t ∧
        RegsKeptE s t [aPort n 0x20, aPort n 0x18, aPort n 0xC8])

/-- R310, R311, R315, R321, R100, R127, R128, for a port that runs, with no new MODE pending and no word of memory in error: a free
transmitter takes the first sentence of the highest class that waits, with its TAG block when the route adds one; the next character's frame
goes into the shifter, its start bit applies a pending format, and the one before is counted; the lead of the direction output ends with the
first character; the last stop bit counts the sentence unless its tail is fogged and starts the trail of a burst with no next sentence; the
end of the trail releases the direction output. Completes: sentenceSelect, txCharacterLoad, dirLeadExpiry, sentenceTxEnd, dirTrailExpiry.
R330–R333: when the gap timer of a listener that sends by cut-through expires with its next character still missing, its sentence ends with
a fogged tail, the talker's unit loses the listener, and FOG and CTGAP are flagged and counted. Completes: ctGapExpiry. -/
def Obligations.PortTransmission : Prop :=
  (∀ (s : State) (n : Nat), portRuns s n = true → s.ecc = [] → fld s (aPort n 0x00) 1 0 = (slice s n).txMode →
     (∀ i, (queue s n).started = none → ((slice s n).txMode = 1 ∨ (slice s n).txMode = 3) → (slice s n).backoff = none →
       flag s (aPort n 0x20) 28 = false → (flag s (aPort n 0x0C) 6 = false ∨ (queue s n).ending ≠ none ∨ idle s n = true) →
       topItem (queue s n).items = some i → isStale s (cellDeadline s i.cell) = false →
       ∃ t, exec (.sentenceSelect n) s = .next t ∧
         (∃ p, (queue t n).started = some { item := i, pre := p } ∧
           p = if i.tag && !i.tun then
             tagBlock (fld s (aPort n 0x60) 14 13) (cellStamp s i.cell) (cellNode s i.cell) (cellSrc s i.cell) else []) ∧
         (queue t n).items = (queue s n).items.filter (fun j => decide (j.cell ≠ i.cell)) ∧
         (flag s (aPort n 0x10) 8 = true → flag t (aPort n 0x18) 6 = true) ∧ (∀ j, j ≠ n → queue t j = queue s j) ∧
         (∀ j, j ≠ n → slice t j = slice s j) ∧ t.sweep = (sweepForget n i.cell s).sweep ∧
         t = { s with regs := t.regs, slices := t.slices, queues := t.queues, sweep := t.sweep } ∧ RegsKept s t [aPort n 0x18]) ∧
     (∀ u v last load, (queue s n).started = some u → (queue s n).ending = none → (slice s n).backoff = none →
       (u.pos ≠ 0 ∨ flag s (aPort n 0x0C) 6 = false ∨ (idle s n = true ∧ (slice s n).rx = none)) →
       (u.pos ≠ 0 ∨ flag s (aPort n 0x10) 8 = false ∨ flag s (aPort n 0x18) 6 = true) → txNext s u = .char v last →
       ∀ c ∈ [(Instr.txCharacterLoad n load, false, load), (.dirLeadExpiry n, true, 0)], (slice s n).leadWait = c.2.1 →
         (c.2.1 = true → (slice s n).shifter = none) →
         ∃ t, exec c.1 s = .next t ∧ (slice t n).leadWait = false ∧
           (slice t n).shifter = some (txFrame (if flag s (aPort n 0x18) 5 && !flag s (aPort n 0x00) 4 then getReg s (aPort n 0x08)
             else (slice s n).txFmt) v) ∧
           (queue t n).started = (if last then none else some (txAdvance s u v)) ∧
           (queue t n).ending = (if last then some u.item else none) ∧ flag t (aPort n 0x18) 1 = true ∧
           getReg t (aPort n 0xA4) = (if (slice s n).shifter = none then getReg s (aPort n 0xA4) else getReg s (aPort n 0xA4) + 1) ∧
           (∀ j, j ≠ n → slice t j = slice s j) ∧ (∀ j, j ≠ n → queue t j = queue s j) ∧
           t = withEvents { s with slices := t.slices, queues := t.queues, lines := t.lines } t ∧
           (n < 256 → t.lines = s.lines) ∧
           RegsKeptE s t ([aPort n 0x18, aPort n 0xA4] ++
             (if 256 ≤ n then [aLine (n - 256) 0x04, aLine (n - 256) 0x18, aLine (n - 256) 0x34] else []))) ∧
     (∀ it load, (queue s n).ending = some it → (slice s n).shifter ≠ none →
       ∃ t, exec (.sentenceTxEnd n load) s = .next t ∧ (queue t n).ending = none ∧ (slice t n).shifter = none ∧
         (flag s (aPort n 0x18) 6 = true → (queue s n).started = none → (slice t n).trailRun = true) ∧
         getReg t (aPort n 0xA4) = getReg s (aPort n 0xA4) + 1 ∧
         getReg t (aPort n 0xE8) = (if (queue s n).endFog then getReg s (aPort n 0xE8) else getReg s (aPort n 0xE8) + 1) ∧
         (∀ j, j ≠ n → slice t j = slice s j) ∧ (∀ j, j ≠ n → queue t j = queue s j) ∧
         t = withEvents { s with slices := t.slices, queues := t.queues, cells := t.cells, lines := t.lines } t ∧
         (n < 256 → t.lines = s.lines) ∧
         RegsKeptE s t ([aPort n 0x18, aPort n 0xA4, aPort n 0xE8] ++
           (if 256 ≤ n then [aLine (n - 256) 0x04, aLine (n - 256) 0x18, aLine (n - 256) 0x34] else []))) ∧
     ((slice s n).trailRun = true → (queue s n).started = none →
       ∃ t, exec (.dirTrailExpiry n) s = .next t ∧ slice t n = { slice s n with trailRun := false } ∧ flag t (aPort n 0x18) 6 = false ∧
         (∀ j, j ≠ n → slice t j = slice s j) ∧ t = { s with regs := t.regs, slices := t.slices } ∧ RegsKept s t [aPort n 0x18])) ∧
  (∀ (s : State) (p n : Nat) (u : Started) (v : UnitSt), portRuns s p = true → (queue s p).started = some u → u.ct = some n →
     (slice s p).shifter = none → u.pos ≠ 0 → txNext s u = .wait → (parser s n).cur = some v →
     ∃ t, exec (.ctGapExpiry p) s = .next t ∧
       (queue t p).started = some { u with pre := u.pre.take u.pos, ct := none, tail := some (fogTail u) } ∧
       (parser t n).cur = some { v with cutOn := v.cutOn.filter (· ≠ p), cutGap := v.cutGap ++ [p], gapFog := true } ∧
       flag t (aPort p 0x70) 11 = true ∧ flag t (aPort p 0x70) 12 = true ∧
       getReg t (aPort p 0xFC) = satAdd (getReg s (aPort p 0xFC)) 1 ∧ getReg t (aPort p 0x7C) = satAdd (getReg s (aPort p 0x7C)) 1 ∧
       (∀ j, j ≠ p → queue t j = queue s j) ∧
       t = withEvents { s with queues := t.queues, parsers := t.parsers } t ∧ RegsKeptE s t [aPort p 0x70, aPort p 0x7C, aPort p 0xFC])

/-- R123–R125: when the level read back at bit k of the frame that a single-wire port sends differs from the level driven, with no new
MODE pending, the character and the sentence are abandoned: CNT_COLL counts, COLL is set, the direction output is released, a back-off of
1 to 16 ct begins, and the sentence returns to the head of its class, or is dropped and counted once it has been abandoned RETRY + 1
times. The end of the back-off on an idle line frees the transmitter. Completes: collisionDetect, backoffExpiry. The back-off is a free
value in that range (log entry 4). That a sentence sent by cut-through or with a fogged tail is dropped at once, its talker no longer
serving the port, is the model's choice (log entry 71). -/
def Obligations.Collisions : Prop :=
  ∀ (s : State) (n : Nat), portRuns s n = true →
    (∀ u k level frame, flag s (aPort n 0x0C) 6 = true → (slice s n).shifter = some frame → frame[k]? = some (!level) →
      (queue s n).ending = none → (queue s n).started = some u → fld s (aPort n 0x00) 1 0 = (slice s n).txMode →
      ∃ t, exec (.collisionDetect n k level) s = .next t ∧ (slice t n).shifter = none ∧
        (∃ x, (slice t n).backoff = some x ∧ 1 ≤ x ∧ x ≤ 16) ∧ flag t (aPort n 0x18) 6 = false ∧ flag t (aPort n 0x18) 13 = true ∧
        (queue t n).started = none ∧ getReg t (aPort n 0xC0) = satAdd (getReg s (aPort n 0xC0)) 1 ∧ t.free = s.free + 1 ∧
        (u.item.tries + 1 ≤ fld s (aPort n 0x14) 3 0 → u.ct = none → u.tail = none →
          (queue t n).items = qReturn (queue s n).items { u.item with tries := u.item.tries + 1 } ∧
          t = withEvents { s with slices := t.slices, queues := t.queues, free := t.free } t ∧
          RegsKeptE s t [aPort n 0x18, aPort n 0xC0]) ∧
        (fld s (aPort n 0x14) 3 0 < u.item.tries + 1 ∨ u.ct ≠ none ∨ u.tail ≠ none →
          (queue t n).items = (queue s n).items ∧ getReg t (aPort n 0xC4) = satAdd (getReg s (aPort n 0xC4)) 1 ∧
          flag t (aPort n 0x18) 14 = true ∧ (u.ct = none → t.parsers = s.parsers) ∧
          (∀ m w, u.ct = some m → (parser s m).cur = some w →
            (parser t m).cur = some { w with cutOn := w.cutOn.filter (· ≠ n), cutGone := w.cutGone ++ [n] }) ∧
          t = withEvents { s with slices := t.slices, queues := t.queues, parsers := t.parsers, cells := t.cells, free := t.free } t ∧
          RegsKeptE s t [aPort n 0x18, aPort n 0xC0, aPort n 0xC4])) ∧
    ((slice s n).backoff ≠ none → idle s n = true →
      ∃ t, exec (.backoffExpiry n) s = .next t ∧ slice t n = { slice s n with backoff := none } ∧
        (∀ j, j ≠ n → slice t j = slice s j) ∧ t = { s with slices := t.slices })

/-- R196, R198–R200, R215, for a device with line tiles: PWR_EN of an awake node runs the converter while VLT is good and stops it; PGOOD
rises when a converter that may run does, and its receivers reach the slices; a fall of PGOOD with VLT good sets PWR_FAULT and event 108
and counts, and the retry runs the converter again; VLT under voltage stops all four and sets event 108 unless a reset is in force, and
its return runs those that may run; over-temperature sets OVERTEMP and disables the drivers until the tile is cooler. Completes:
tilePwrEn, pgoodRise, pwrFault, converterRetry, vltUvChange, tileOvertemp, tileTempRecover. That PWR_EN written 1 again while the retry is
awaited runs the converter at once (log entry 79), and one command for the rise and its 10 µs (77), are the model's choices. -/
def Obligations.TilePower : Prop :=
  ∀ (s : State) (k : Nat), hasTile s k = true →
    (∀ v : Word, awake s = true → bit v 0 = true →
      ∃ t, exec (.tilePwrEn k v) s = .next t ∧ getReg t (aTile k 0x00) = v &&& 1#32 ∧
        tile t k = (if flag s (aTile k 0x04) 0 then tile s k else { tile s k with run := !flag s (aTile k 0x04) 4 }) ∧
        (∀ j, j ≠ k → tile t j = tile s j) ∧
        t = { s with regs := t.regs, tiles := t.tiles } ∧ RegsKept s t [aTile k 0x00]) ∧
    (∀ v : Word, awake s = true → bit v 0 = false →
      ∃ t, exec (.tilePwrEn k v) s = .next t ∧ flag t (aTile k 0x00) 0 = false ∧ flag t (aTile k 0x04) 0 = false ∧
        tile t k = { tile s k with run := false, ready := false } ∧ (∀ j, j ≠ k → tile t j = tile s j) ∧
        t = { s with regs := t.regs, tiles := t.tiles } ∧ RegsKept s t [aTile k 0x00, aTile k 0x04]) ∧
    (tileMay s k = true → (tile s k).run = true → flag s (aTile k 0x04) 0 = false →
      ∃ t, exec (.pgoodRise k) s = .next t ∧ flag t (aTile k 0x04) 0 = true ∧ tile t k = { tile s k with ready := true } ∧
        (∀ j, j ≠ k → tile t j = tile s j) ∧ t = { s with regs := t.regs, tiles := t.tiles } ∧ RegsKept s t [aTile k 0x04]) ∧
    (flag s (aTile k 0x00) 0 = true → flag s (aTile k 0x04) 4 = false → flag s (aTile k 0x04) 0 = true →
      ∃ t, exec (.pwrFault k) s = .next t ∧ flag t (aTile k 0x04) 0 = false ∧ flag t (aTile k 0x04) 1 = true ∧ EventSet 108 t ∧
        getReg t (aTile k 0x0C) = satAdd (getReg s (aTile k 0x0C)) 1 ∧ tile t k = { tile s k with run := false, ready := false } ∧
        (∀ j, j ≠ k → tile t j = tile s j) ∧
        t = withEvents { s with tiles := t.tiles } t ∧ RegsKeptE s t [aTile k 0x04, aTile k 0x0C]) ∧
    (tileMay s k = true → flag s (aTile k 0x04) 4 = false → flag s (aTile k 0x04) 0 = false →
      ∃ t, exec (.converterRetry k) s = .next t ∧ tile t k = { tile s k with run := true } ∧
        (∀ j, j ≠ k → tile t j = tile s j) ∧ t = { s with tiles := t.tiles }) ∧
    (s.power.vltOk = true →
      ∃ t, exec (.vltUvChange true) s = .next t ∧ t.power.vltOk = false ∧ flag t (aTile k 0x04) 4 = true ∧ flag t (aTile k 0x04) 0 = false ∧
        tile t k = { tile s k with run := false, ready := false } ∧ (s.power.phase ≠ .off → EventSet 108 t) ∧
        t = withEvents { s with power := { s.power with vltOk := false }, tiles := t.tiles } t ∧
        RegsKeptE s t [aTile 0 0x04, aTile 1 0x04, aTile 2 0x04, aTile 3 0x04]) ∧
    (s.power.vltOk = false →
      ∃ t, exec (.vltUvChange false) s = .next t ∧ t.power.vltOk = true ∧ flag t (aTile k 0x04) 4 = false ∧
        tile t k = { tile s k with run := tileMay s k } ∧
        t = { s with regs := t.regs, power := { s.power with vltOk := true }, tiles := t.tiles } ∧
        RegsKept s t [aTile 0 0x04, aTile 1 0x04, aTile 2 0x04, aTile 3 0x04]) ∧
    (s.power.phase ≠ .off →
      ∃ t, exec (.tileOvertemp k) s = .next t ∧ flag t (aTile k 0x04) 2 = true ∧ tile t k = { tile s k with hot := true } ∧
        (∀ p, p / 4 = k → drvOn t p = false) ∧
        (∀ j, j ≠ k → tile t j = tile s j) ∧ t = withEvents { s with tiles := t.tiles } t ∧ RegsKeptE s t [aTile k 0x04]) ∧
    (∃ t, exec (.tileTempRecover k) s = .next t ∧ tile t k = { tile s k with hot := false } ∧
      (∀ j, j ≠ k → tile t j = tile s j) ∧ t = { s with tiles := t.tiles })

/-- R211, R212, R214, R216–R218, of a line whose tile is ready: an open line (with BIAS) and a line with no differential set their live
bit and their sticky bit and count once, and a sample outside the band clears the live bit; a driver in current limit is disabled, flagged
and counted, until the retry; with AUTOPOL an awake node counts rests at space level that follow 8 transitions, a rest at stop level or a
write of CTL sets the count to 0, and the fourth toggles RXSWAP, flags and counts it, unless a write of CTL falls in that clock.
Completes: rxOpenDetect, rxZeroDetect, rxLiveClear, txShort, txShortRetry, restDetect. -/
def Obligations.LineConditions : Prop :=
  ∀ (s : State) (p : Nat), hasLine s p = true →
    (s.power.phase ≠ .off → (tile s (p / 4)).ready = true → flag s (aLine p 0x00) 8 = true → flag s (aLine p 0x04) 1 = false →
      ∃ t, exec (.rxOpenDetect p) s = .next t ∧ flag t (aLine p 0x04) 1 = true ∧ flag t (aLine p 0x04) 8 = true ∧
        getReg t (aLine p 0x24) = satAdd (getReg s (aLine p 0x24)) 1 ∧ t = withEvents s t ∧ RegsKeptE s t [aLine p 0x04, aLine p 0x24]) ∧
    (s.power.phase ≠ .off → (tile s (p / 4)).ready = true → flag s (aLine p 0x04) 2 = false →
      ∃ t, exec (.rxZeroDetect p) s = .next t ∧ flag t (aLine p 0x04) 2 = true ∧ flag t (aLine p 0x04) 9 = true ∧
        getReg t (aLine p 0x28) = satAdd (getReg s (aLine p 0x28)) 1 ∧ t = withEvents s t ∧ RegsKeptE s t [aLine p 0x04, aLine p 0x28]) ∧
    (∀ vd : Int, (tile s (p / 4)).ready = true → ∃ t, exec (.rxLiveClear p vd) s = .next t ∧
      flag t (aLine p 0x04) 1 = (flag s (aLine p 0x04) 1 && decide (-650 ≤ vd ∧ vd ≤ -250)) ∧
      flag t (aLine p 0x04) 2 = (flag s (aLine p 0x04) 2 && decide (vd.natAbs < 100)) ∧
      t = { s with regs := t.regs } ∧ RegsKept s t [aLine p 0x04]) ∧
    (drvOn s p = true →
      ∃ t, exec (.txShort p) s = .next t ∧ flag t (aLine p 0x04) 4 = true ∧ flag t (aLine p 0x04) 13 = true ∧ drvOn t p = false ∧
        getReg t (aLine p 0x2C) = satAdd (getReg s (aLine p 0x2C)) 1 ∧ t = withEvents s t ∧ RegsKeptE s t [aLine p 0x04, aLine p 0x2C]) ∧
    (∃ t, exec (.txShortRetry p) s = .next t ∧ flag t (aLine p 0x04) 4 = false ∧ t = { s with regs := t.regs } ∧
      RegsKept s t [aLine p 0x04]) ∧
    (awake s = true → (tile s (p / 4)).ready = true → flag s (aLine p 0x00) 12 = true →
      (∀ space moved written, (space = false ∨ written = true) → ∃ t, exec (.restDetect p space moved written) s = .next t ∧
        line t p = { line s p with cand := 0 } ∧ (∀ q, q ≠ p → line t q = line s q) ∧ t = { s with lines := t.lines }) ∧
      exec (.restDetect p true false false) s = .next s ∧
      ((line s p).cand + 1 < 4 → ∃ t, exec (.restDetect p true true false) s = .next t ∧
        line t p = { line s p with cand := (line s p).cand + 1 } ∧ (∀ q, q ≠ p → line t q = line s q) ∧ t = { s with lines := t.lines }) ∧
      (4 ≤ (line s p).cand + 1 → ∃ t, exec (.restDetect p true true false) s = .next t ∧ line t p = { line s p with cand := 0 } ∧
        (∀ q, q ≠ p → line t q = line s q) ∧
        flag t (aLine p 0x00) 10 = !flag s (aLine p 0x00) 10 ∧ flag t (aLine p 0x04) 12 = true ∧
        getReg t (aLine p 0x30) = satAdd (getReg s (aLine p 0x30)) 1 ∧
        t = withEvents { s with lines := t.lines } t ∧ RegsKeptE s t [aLine p 0x00, aLine p 0x04, aLine p 0x30]))

/-! ### The switch: gates, parsers, FIFOs, the pool, tables, registers -/

/-- R149–R151, R153, R155, of a gate with a side that R143 lets be reset alone, outside a reset of the node: the side's epoch bit toggles.
A FIFO gate discards what it holds, adds to GATE.LOST what the surviving side saw lost, and sets PEER_RST with the side that was reset,
and LOSS_UNC when the loss is uncertain; a busy pulse gate becomes idle with PEER_RST and LOSS_UNC, an idle one shows nothing; a value
gate sets PEER_RST. Event 101 is set when PEER_RST changes to 1. In Stabled the gate empties, and the rest waits for the wake. The reset of
a side that cannot be reset alone changes nothing. Completes: gatePeerReset. That an idle pulse gate shows nothing (log entry 64), what a
gate holds between commands and the operands for the pointers' lag (74), and what waits for the wake (77), are the model's readings and
choices. -/
def Obligations.GatePeerReset : Prop :=
  ∀ (s : State) (g : Nat) (dst : Bool) (lag : Nat) (recent : Bool) (part : Nat),
    let n := gateHeld s g + min part (gateDepth g - gateHeld s g)
    let seen := min (gateDepth g) (n + lag)
    let d : PeerDue := { gate := g, dst := dst, lost := if dst then seen - 4 else n - lag, unc := if dst then decide (0 < seen) else recent }
    let Told := fun t : State => flag t (aGateStat g) 1 = true ∧ flag t (aGateStat g) 4 = dst ∧
      (flag s (aGateStat g) 1 = false → EventSet 101 t) ∧ RegsKeptE s t []
    let Toggled := fun t : State => ∀ x b, tabGet (fun _ => false) t.epochs (2 * x + b2n b) =
      Bool.xor (tabGet (fun _ => false) s.epochs (2 * x + b2n b)) (decide (x = g ∧ b = dst))
    (s.power.phase ≠ .off → resetsAlone g dst = true →
      (gateKind s g = 0 → ∃ t, exec (.gatePeerReset g dst lag recent part) s = .next t ∧ Toggled t ∧
        (s.power.phase ≠ .stabled → Told t ∧ flag t (aGateStat g) 2 = (flag s (aGateStat g) 2 || d.unc) ∧
          getReg t (aGateLost g) = satAdd (getReg s (aGateLost g)) d.lost) ∧
        (s.power.phase = .stabled → t.regs = s.regs ∧ t.peerDue = s.peerDue ++ [d]) ∧
        ((g < 64 ∨ (81 < g ∧ g < 96)) → gateHeld t g = 0) ∧
        (64 ≤ g → g ≤ 81 → (tabGet (fun _ => {}) t.engs (engOn s (g - 64))).gate =
          (tabGet (fun _ => {}) s.engs (engOn s (g - 64))).gate.drop (gateHeld s g)) ∧
        (96 ≤ g → (fifo t (fEmq (engOn s (g - 96)))).words = (fifo s (fEmq (engOn s (g - 96)))).words.drop (gateHeld s g)) ∧
        (g < 82 → t.fifos = s.fifos) ∧ t.mem = s.mem ∧ t.tables = s.tables ∧ t.queues = s.queues ∧ t.pending = s.pending) ∧
      (gateKind s g = 1 → pulseSt s (g - 128) = .idle → ∃ t, exec (.gatePeerReset g dst lag recent part) s = .next t ∧
        Toggled t ∧ t = { s with epochs := t.epochs }) ∧
      (gateKind s g = 1 → pulseSt s (g - 128) ≠ .idle → ∃ t, exec (.gatePeerReset g dst lag recent part) s = .next t ∧ Toggled t ∧
        (s.power.phase ≠ .stabled → Told t ∧ flag t (aGateStat g) 2 = true ∧ t = withEvents { s with epochs := t.epochs } t) ∧
        (s.power.phase = .stabled → pulseSt t (g - 128) = .idle ∧ t = { s with
          epochs := t.epochs, pulses := t.pulses, peerDue := s.peerDue ++ [{ gate := g, dst := dst, lost := 0, unc := true }] })) ∧
      (gateKind s g = 2 → ∃ t, exec (.gatePeerReset g dst lag recent part) s = .next t ∧ Toggled t ∧
        (s.power.phase ≠ .stabled → Told t ∧ t = withEvents { s with epochs := t.epochs, time := t.time } t) ∧
        (s.power.phase = .stabled → t = { s with
          epochs := t.epochs, time := t.time, peerDue := s.peerDue ++ [{ gate := g, dst := dst, lost := 0, unc := false }] }))) ∧
    ((s.power.phase = .off ∨ resetsAlone g dst = false ∨ gateKind s g = 3) → exec (.gatePeerReset g dst lag recent part) s = .next s)

/-- R230, R228, R241, R259, R262, of an item without LOST that the parser takes from a SENTENCE port's gate: between units a character
that opens nothing is passed over, in SKIP the parser waits for LF, and an opening character takes the pool's cell, stores the character
at its start and the FTIME of its edge in the header. A character with a framing, parity or break error ends the unit it falls in and is
passed over between units. A mode change that waits behind the character follows. Completes: parserItem. Which items a mode
change meets is the model's reading (log entry 11). -/
def Obligations.ParserItems : Prop :=
  ∀ (s : State) (n : Nat) (it : RxItem) (r : List RxItem) (d : DWord), awake s = true → (slice s n).rxq = it :: r → (slice s n).swMode = 1 →
    ftOfCount s (portClock n) it.edge = some d → it.lost = false →
    ∃ u, exec (.parserItem n) s = .next (swModes n (slice s n).rxq.length u) ∧
      (r.head?.bind (·.mode) = none → swModes n (slice s n).rxq.length u = u) ∧ slice u n = { slice s n with rxq := r } ∧
      ((it.fe || it.pe || it.brk) = true →
        (parser u n).cur = none ∧ ((parser s n).cur = none → u = { s with slices := u.slices })) ∧
      ((it.fe || it.pe || it.brk) = false → (parser s n).cur = none →
        ((parser s n).skip = false → isOpening it.value = false → isTagDelim it.value = false → u = { s with slices := u.slices }) ∧
        ((parser s n).skip = true → (parser u n).skip = decide (it.value ≠ 0x0A) ∧ (parser u n).cur = none ∧
          (∀ j, j ≠ n → parser u j = parser s j) ∧ u = { s with slices := u.slices, parsers := u.parsers }) ∧
        (∀ c, (parser s n).skip = false → isOpening it.value = true → n < 272 → poolFloor s true < poolFree s → poolFirst s = some c →
          ∃ x, (parser u n).cur = some x ∧ x.cell = c ∧
            x.len = 1 ∧ cellSt u c = .filling n 0 ∧ memByte u (aCell c + 0x20) = BitVec.ofNat 8 it.value ∧
            memNat u (aCell c) 8 = d.toNat ∧
            (∀ a, (a < aCell c ∨ aCell c + 8 ≤ a) → a ≠ aCell c + 0x20 → memByte u a = memByte s a) ∧
            u = withEvents { s with slices := u.slices, parsers := u.parsers, cells := u.cells, mem := u.mem, ecc := u.ecc } u ∧
            RegsKeptE s u [aSw 0x00, aSw 0x14]))

/-- R322: tests of the sweep remove only stale sentences from the queues. A pass that begins and has as many tests as sentences wait ends
with no stale one left, and a pass that ends writes its length, at most 140 µs. In FAULT nothing changes. Completes: sweepPass. R267: of
an awake node, POOL_RSV takes a value up to 32768 while no cell of the pool is in use; otherwise the write only sets CFG_ERR. Completes:
poolRsvWrite. SWEEP_LAST is a free value within its bound (log entry 4). -/
def Obligations.SweepAndReserve : Prop :=
  (∀ (s : State) (k : Nat),
     (inFault s = true → exec (.sweepPass k) s = .next s) ∧
     (awake s = true → inFault s = false →
       ∃ t, exec (.sweepPass k) s = .next t ∧ (t.sweep = none → (getReg t (aSw 0x284)).toNat ≤ 140) ∧
         (∀ n, (∀ i ∈ (queue t n).items, i ∈ (queue s n).items) ∧ (queue t n).started = (queue s n).started ∧
           ∀ i ∈ (queue s n).items, i ∈ (queue t n).items ∨ isStale s (cellDeadline s i.cell) = true) ∧
         (s.sweep = none → ((List.range (portCount s)).map (fun n => (queue s n).items.length)).sum ≤ k → t.sweep = none ∧
           ∀ n < portCount s, ∀ i ∈ (queue t n).items, isStale s (cellDeadline s i.cell) = false) ∧
         (∀ a, (∀ n, a ≠ aPort n 0x70 ∧ a ≠ aPort n 0xEC) → a ≠ aSw 0x284 → a ≠ aSw 0x288 → evtReg a = false → getReg t a = getReg s a) ∧
         t = withEvents { s with queues := t.queues, cells := t.cells, free := t.free, sweep := t.sweep } t)) ∧
  (∀ (s : State) (v : Word), awake s = true →
     (bits v 15 0 ≤ 32768 → (∀ e ∈ s.cells, e.1 < poolRsv s) →
       ∃ t, exec (.poolRsvWrite v) s = .next t ∧ getReg t (aSw 0x08) = wd (bits v 15 0) ∧ t = withEvents s t ∧
         RegsKeptE s t [aSw 0x00, aSw 0x08, aSw 0x14]) ∧
     (32768 < bits v 15 0 ∨ (∃ e ∈ s.cells, poolRsv s ≤ e.1) →
       ∃ t, exec (.poolRsvWrite v) s = .next t ∧ flag t (aSw 0x00) 0 = true ∧ t = { s with regs := t.regs } ∧ RegsKept s t [aSw 0x00]))

/-- R296–R301, R304, R305, of an awake node: SWAP makes the other bank active, counts and sets event 23, COPY marks the copy busy, and its
end makes the inactive bank equal to the active one; SWAP with COPY, or either during a copy, only sets CFG_ERR. A staged update with a
good image replaces the named entry of the active bank and no other word: HITS stays, or with CLRHITS is 0, or 1 when a commit of the same
clock counts the entry, and CLRDEC clears the entry's decimation state; any other only sets ERR and CFG_ERR. Completes: tableSwap,
tableCopy, tableCopyDone, stagedUpdate. That the copy shows at its end and a staged update at its write are the model's readings (log
entry 64). -/
def Obligations.TableBanks : Prop :=
  ∀ s : State, awake s = true →
    (∀ v : Word, bit v 3 = false → s.tables.busy = false →
      ∃ t, exec (.tableSwap v) s = .next t ∧ flag t (aSw 0x200) 0 = !s.tables.active ∧ flag t (aSw 0x200) 1 = bit v 1 ∧
        getReg t (aSw 0x218) = getReg s (aSw 0x218) + 1 ∧ EventSet 23 t ∧
        t = withEvents { s with tables := { s.tables with active := !s.tables.active } } t ∧ RegsKeptE s t [aSw 0x200, aSw 0x218]) ∧
    (∀ v : Word, bit v 2 = false → s.tables.busy = false →
      ∃ t, exec (.tableCopy v) s = .next t ∧ flag t (aSw 0x200) 4 = true ∧ flag t (aSw 0x200) 1 = bit v 1 ∧
        t = { s with regs := t.regs, tables := { s.tables with busy := true } } ∧ RegsKept s t [aSw 0x200]) ∧
    (∀ v : Word, ∀ e ∈ [(Instr.tableSwap v, bit v 3), (.tableCopy v, bit v 2)], (e.2 = true ∨ s.tables.busy = true) →
      ∃ t, exec e.1 s = .next t ∧ flag t (aSw 0x00) 0 = true ∧ t = { s with regs := t.regs } ∧ RegsKept s t [aSw 0x00]) ∧
    (s.tables.busy = true → ∃ t, exec .tableCopyDone s = .next t ∧ flag t (aSw 0x200) 4 = false ∧ t.tables.busy = false ∧
      (∀ tbl o, tblWord t (!s.tables.active) tbl o = tblWord s s.tables.active tbl o) ∧
      (∀ tbl o, tblWord t s.tables.active tbl o = tblWord s s.tables.active tbl o) ∧
      t = { s with regs := t.regs, tables := t.tables } ∧ RegsKept s t [aSw 0x200]) ∧
    (∀ (v : Word) (counted : Bool),
      (bits v 25 24 ≤ 2 → bits v 11 0 < tblCount (bits v 25 24) → s.tables.busy = false →
        imageRefused s (bits v 25 24) (bits v 11 0) ((List.range 16).map (fun w => getReg s (aSw (0x240 + 4 * w)))) = false →
        ∃ t, exec (.stagedUpdate v counted) s = .next t ∧ flag t (aSw 0x204) 30 = false ∧
          (let tbl := bits v 25 24
           let size := tblEntry tbl
           let base := bits v 11 0 * size
           (∀ w < size / 4, tblWord t s.tables.active tbl (base + 4 * w) =
             if tblHits tbl = some (4 * w) then (if bit v 29 then (if counted then 1#32 else 0#32)
               else tblWord s s.tables.active tbl (base + 4 * w))
             else getReg s (aSw (0x240 + 4 * w)) &&& imageMask tbl w) ∧
           (∀ b k o, (b ≠ s.tables.active ∨ k ≠ tbl ∨ o < base ∨ base + size ≤ o) → k ≤ 2 → tblWord t b k o = tblWord s b k o) ∧
           (bit v 28 = true → tbl = 0 → getReg t (aRtd (bits v 11 0)) = 0 ∧ getReg t (aRtd (bits v 11 0) + 4) = 0) ∧
           ((bit v 28 = false ∨ tbl ≠ 0) → t.ecc = s.ecc ∧ RegsKept s t [aSw 0x204])) ∧
          t = { s with regs := t.regs, tables := t.tables, ecc := t.ecc } ∧
          RegsKept s t [aSw 0x204, aRtd (bits v 11 0), aRtd (bits v 11 0) + 4]) ∧
      (2 < bits v 25 24 ∨ tblCount (bits v 25 24) ≤ bits v 11 0 ∨ s.tables.busy = true ∨
        imageRefused s (bits v 25 24) (bits v 11 0) ((List.range 16).map (fun w => getReg s (aSw (0x240 + 4 * w)))) = true →
        ∃ t, exec (.stagedUpdate v counted) s = .next t ∧ flag t (aSw 0x204) 30 = true ∧ flag t (aSw 0x00) 0 = true ∧
          t = { s with regs := t.regs } ∧ RegsKept s t [aSw 0x00, aSw 0x204]))

/-- R163, R172, R174, R176: a word written into an awake node's inbound mailbox goes to its end, or sets OVR when it is full; a word read
of an outbound mailbox or a message FIFO leaves the head and stays as the last word read, an empty FIFO sets UNDER and keeps everything,
and an uncorrectable word stays at the head. In Stabled and in a reset neither has an effect, and with VHB failed no write has (R662).
Completes: hmbInWrite, hmbOutRead, emqRdataRead. R163, R168, R170, R603: an awake node's write of a FIFO's CTL with FLUSH and with LEVEL
and CTT up to DEPTH stores LEVEL and CTT and leaves the FIFO empty; an item that its consumer has started counts as rejected. With LEVEL or
CTT above DEPTH it only sets its unit's CFG_ERR. Completes: fifoFlush. R165, R166, R168, R253, R143, R715: the whole item at the head of an
awake node's inbound mailbox leaves it and counts; a bad one and a tunnel message that cannot go out count as rejected, one for an engine is
delivered to its message FIFO when it fits, a CAN frame goes into gate 93, or waits in the mailbox while that gate is full, and an item with
an uncorrectable word is discarded uncounted. An item that is only partly there is started, with the FTIME of its header, when CTT words are
present. Completes: hmbInboundItem. That a message FIFO's item starts with its header's read, and what counts for an item abandoned or
discarded, are the model's choices (log entries 21 and 73). -/
def Obligations.FifosAndMailboxes : Prop :=
  (∀ s : State,
     (∀ (m : Nat) (v : Word), m < 4 → awake s = true → s.power.vhb ≠ 0 →
       ((fifo s (fIn m)).words.length < 512 → ∃ t, exec (.hmbInWrite m v) s = .next t ∧
         (fifo t (fIn m)).words = (fifo s (fIn m)).words ++ [v] ∧ (∀ f, f ≠ fIn m → fifo t f = fifo s f) ∧
         t = withEvents { s with fifos := t.fifos } t ∧ RegsKeptE s t [aHmb m 0x0C]) ∧
       (512 ≤ (fifo s (fIn m)).words.length → ∃ t, exec (.hmbInWrite m v) s = .next t ∧ flag t (aHmb m 0x0C) 2 = true ∧
         t = { s with regs := t.regs } ∧ RegsKept s t [aHmb m 0x0C])) ∧
     (awake s = true → ∀ m < 4, ∀ l < 16, ∀ e ∈ [(Instr.hmbOutRead m, fOut m), (.emqRdataRead l, fEmq l)], let f := e.2
       ((∀ x ∈ (fifo s f).errs, x.1 ≠ 0) →
         (∀ w r, (fifo s f).words = w :: r → ∃ t, exec e.1 s = .next t ∧ (fifo t f).words = r ∧ (fifo t f).last = w ∧
           (∀ g, g ≠ f → fifo t g = fifo s g) ∧ t = { s with fifos := t.fifos, cells := t.cells }) ∧
         ((fifo s f).words = [] → ∃ t, exec e.1 s = .next t ∧ flag t (fifoStat f) 3 = true ∧ t = { s with regs := t.regs } ∧
           RegsKept s t [fifoStat f])) ∧
       (∀ x, 72 < x → (fifo s f).errs = [(0, x)] → ∃ t, exec e.1 s = .next t ∧ t.fifos = s.fifos ∧ t.mem = s.mem ∧
         flag t (aAv 0x00) 1 = true ∧ getReg t (aAv 0x0C) = satAdd (getReg s (aAv 0x0C)) 1)) ∧
     (awake s = false → ∀ (m l : Nat) (v : Word), ∀ c ∈ [Instr.hmbInWrite m v, .hmbOutRead m, .emqRdataRead l], exec c s = .next s) ∧
     (s.power.vhb = 0 → ∀ (m : Nat) (v : Word), exec (.hmbInWrite m v) s = .next s)) ∧
  (∀ (s : State) (v : Word), awake s = true →
     (∀ m < 4, bits v 9 0 ≤ 512 → bits v 25 16 ≤ 512 → ∃ t, exec (.fifoFlush (.hmbIn m) v) s = .next t ∧ fifo t (fIn m) = {} ∧
       (∀ g, g ≠ fIn m → fifo t g = fifo s g) ∧ getReg t (aHmb m 0x08) = v &&& 0x03FF03FF#32 ∧
       getReg t (aHmb m 0x20) = (if (fifo s (fIn m)).begun then satAdd (getReg s (aHmb m 0x20)) 1 else getReg s (aHmb m 0x20)) ∧
       t = { s with regs := t.regs, fifos := t.fifos, cells := t.cells } ∧ RegsKept s t [aHmb m 0x08, aHmb m 0x20]) ∧
     (∀ m < 4, bits v 9 0 ≤ 512 → bits v 25 16 ≤ 512 → ∃ t, exec (.fifoFlush (.hmbOut m) v) s = .next t ∧ fifo t (fOut m) = {} ∧
       (∀ g, g ≠ fOut m → fifo t g = fifo s g) ∧
       getReg t (aHmb m 0x10) = v &&& 0x03FF03FF#32 ∧ t = { s with regs := t.regs, fifos := t.fifos, cells := t.cells } ∧
       RegsKept s t [aHmb m 0x10]) ∧
     (∀ l < 16, bits v 9 0 ≤ 64 → bits v 25 16 ≤ 64 → ∃ t, exec (.fifoFlush (.emq l) v) s = .next t ∧ fifo t (fEmq l) = {} ∧
       (∀ g, g ≠ fEmq l → fifo t g = fifo s g) ∧ getReg t (aEmq l 0x04) = v &&& 0x03FF03FF#32 ∧
       getReg t (aEmq l 0x14) = (if (fifo s (fEmq l)).left = 0 then getReg s (aEmq l 0x14) else satAdd (getReg s (aEmq l 0x14)) 1) ∧
       t = { s with regs := t.regs, fifos := t.fifos, cells := t.cells } ∧ RegsKept s t [aEmq l 0x04, aEmq l 0x14]) ∧
     (∀ k < 2, bits v 9 0 ≤ 128 → bits v 25 16 ≤ 128 → ∃ t, exec (.fifoFlush (.canRx k) v) s = .next t ∧ (canSt t k).rxq = [] ∧
       getReg t (aCan k 0x54) = v &&& 0x03FF03FF#32 ∧
       t = { s with regs := t.regs, can := t.can, cells := t.cells } ∧ RegsKept s t [aCan k 0x54]) ∧
     (bits v 9 0 ≤ 64 → bits v 25 16 ≤ 64 → ∃ t, exec (.fifoFlush .shut v) s = .next t ∧ getReg t (aTime 0x100) = v &&& 0x03FF03FF#32 ∧
       t = { s with regs := t.regs, time := { s.time with shut := [], shutLast := none } } ∧ RegsKept s t [aTime 0x100]) ∧
     (∀ k < 4, ∀ l < 16, ∀ e ∈ [(FifoId.hmbIn k, 512, aHb 0x00, 8), (.hmbOut k, 512, aHb 0x00, 8), (.emq l, 64, aEng l 0x04, 16),
         (.canRx (k % 2), 128, aCan (k % 2) 0x04, 16), (.shut, 64, aTime 0x04, 14)], (e.2.1 < bits v 9 0 ∨ e.2.1 < bits v 25 16) →
       ∃ t, exec (.fifoFlush e.1 v) s = .next t ∧ flag t e.2.2.1 e.2.2.2 = true ∧ t = withEvents s t ∧ RegsKeptE s t [e.2.2.1])) ∧
  (∀ (s : State) (m : Nat), m < 4 → awake s = true →
     (∀ h body n, fifoHead s (fIn m) = some (h, body, n) →
       ((∃ e ∈ (fifo s (fIn m)).errs, e.1 < n ∧ 72 < e.2) → (itemBad h = true ∨ bits h 31 28 ≠ 3 ∨ s.recGate.length < 16) →
         ∃ t, exec (.hmbInboundItem m) s = .next t ∧ (fifo t (fIn m)).words = (fifo s (fIn m)).words.drop n ∧
           getReg t (aHmb m 0x18) = getReg s (aHmb m 0x18) ∧ getReg t (aHmb m 0x20) = getReg s (aHmb m 0x20) ∧
           (∀ g, g ≠ fIn m → fifo t g = fifo s g) ∧ t.mem = s.mem ∧ t.recGate = s.recGate) ∧
       (itemBad h = false → bits h 31 28 = 3 → 16 ≤ s.recGate.length → exec (.hmbInboundItem m) s = .next s) ∧
       ((∀ e ∈ (fifo s (fIn m)).errs, n ≤ e.1) →
         ((itemBad h = true ∨ bits h 31 28 ≠ 3 ∨ s.recGate.length < 16) → ∃ t, exec (.hmbInboundItem m) s = .next t ∧
           (fifo t (fIn m)).words = (fifo s (fIn m)).words.drop n ∧ (fifo t (fIn m)).begun = false ∧
           getReg t (aHmb m 0x18) = getReg s (aHmb m 0x18) + 1) ∧
         ((itemBad h = true ∨ (bits h 31 28 = 2 ∧
             (bits h 27 16 = 0xFFF ∨ (bits h 27 16 ≠ 0 ∧ bits h 27 16 ≠ s.nodeId ∧ originates s = false)))) →
           ∃ t, exec (.hmbInboundItem m) s = .next t ∧
             (∀ g, g ≠ fIn m → fifo t g = fifo s g) ∧ getReg t (aHmb m 0x20) = satAdd (getReg s (aHmb m 0x20)) 1 ∧
             t = { s with regs := t.regs, fifos := t.fifos } ∧ RegsKept s t [aHmb m 0x18, aHmb m 0x20]) ∧
         (itemBad h = false → bits h 31 28 = 1 → (fifo s (fEmq (bits h 27 16))).words.length + 1 + bodyWords body.length ≤ 64 →
           ∃ t, exec (.hmbInboundItem m) s = .next t ∧
             (fifo t (fEmq (bits h 27 16))).words = (fifo s (fEmq (bits h 27 16))).words ++ itemWords 1 s.nodeId body ∧
             t = withEvents { s with fifos := t.fifos } t ∧
             RegsKeptE s t [aHmb m 0x18, aEmq (bits h 27 16) 0x08, aEmq (bits h 27 16) 0x0C, aEng (bits h 27 16) 0x04]) ∧
         (itemBad h = false → bits h 31 28 = 3 → s.recGate.length < 16 → ∃ t, exec (.hmbInboundItem m) s = .next t ∧
           t.recGate = s.recGate ++ [(b2n ((recByte body 4).getLsbD 7), true, body)] ∧ (∀ g, g ≠ fIn m → fifo t g = fifo s g) ∧
           t = { s with regs := t.regs, fifos := t.fifos, recGate := t.recGate } ∧ RegsKept s t [aHmb m 0x18]))) ∧
     (fifoHead s (fIn m) = none → fld s (aHmb m 0x08) 25 16 ≠ 0 → fld s (aHmb m 0x08) 25 16 ≤ (fifo s (fIn m)).words.length →
       (fifo s (fIn m)).begun = false →
       ∃ t, exec (.hmbInboundItem m) s = .next t ∧ fifo t (fIn m) = { fifo s (fIn m) with begun := true, startAt := s.time.ft } ∧
         (∀ g, g ≠ fIn m → fifo t g = fifo s g) ∧ t = { s with fifos := t.fifos }))

/-- R12, R36, R37, R38, R53, R117, R217, R286, R289, R295: a host write of a word of the own node, with any bytes enabled. A register takes
the enabled bytes of its RW fields, loses the W1C flags written 1, and keeps its reserved and read-only bits; BAUD and FMT become pending
as well, and LINE.CTL clears the count of reversals. A value that its range or the state refuses keeps the register and sets the unit's
CFG_ERR, and nothing else changes. Memory takes the enabled bytes, but for the instruction memory of an engine that is not held and the
flash. The inactive bank of the tables takes a good image's fields, the active bank only HITS; any other write there is refused. A word that
maps nothing, the Contact Sheet, and a gate that is not there change nothing, nor does a write with no byte enabled, while the clocks stand,
or with VHB failed. Registers whose write is a command have rows of their own. Completes: registerWrite. -/
def Obligations.RegisterWrites : Prop :=
  (∀ (s : State) (a : Nat) (v : Word) (be : BitVec 4), a % 4 = 0 →
     let W := laneMerge s a v be
     ((awake s = false ∨ s.power.vhb = 0 ∨ mapped s a = false ∨ a < 0x00010000 ∨ be = 0 ∨ 0x02000000 ≤ a ∨
         (isImem a = true ∧ bit (engStatWord s (memEng a)) 0 = false) ∨ unusedGate s a = true) →
       exec (.registerWrite a v be) s = .next s) ∧
     (awake s = true → s.power.vhb ≠ 0 → mapped s a = true → 0x00010000 ≤ a → a < 0x02000000 → isMem a = false → isTbl a = false →
       be ≠ 0 → unusedGate s a = false →
       (actsOn a = false → writeRefused s a W = false → ∃ t, exec (.registerWrite a v be) s = .next t ∧ Masked s t a v be ∧
         (isRtd a = false → t.ecc = s.ecc) ∧ t = { s with regs := t.regs, ecc := t.ecc } ∧ RegsKept s t [a]) ∧
       ((actsOn a = false ∨ (0x00100000 ≤ a ∧ a < 0x00200000)) → writeRefused s a W = true → ∃ t, exec (.registerWrite a v be) s = .next t ∧
         flag t (cfgErrAt a).1 (cfgErrAt a).2 = true ∧ t = withEvents s t ∧
         RegsKeptE s t ([(cfgErrAt a).1] ++ (if 0x00021000 ≤ a ∧ a < 0x00030000 then [a / 0x20 * 0x20 + 4] else []))) ∧
       (∀ n < 272, (a = aPort n 0x04 ∨ a = aPort n 0x08) → writeRefused s a W = false →
         ∃ t, exec (.registerWrite a v be) s = .next t ∧ Masked s t a v be ∧ flag t (aPort n 0x18) 4 = true ∧
           flag t (aPort n 0x18) 5 = true ∧ t = { s with regs := t.regs } ∧ RegsKept s t [a, aPort n 0x18]) ∧
       (∀ n < 272, a = aPort n 0x6C → writeRefused s a W = false → (∀ k, (parser s k).cur = none) →
         ∃ t, exec (.registerWrite a v be) s = .next t ∧ Masked s t a v be ∧ t = { s with regs := t.regs } ∧ RegsKept s t [a]) ∧
       (∀ p < 16, a = aLine p 0x00 → writeRefused s a W = false → ∃ t, exec (.registerWrite a v be) s = .next t ∧ Masked s t a v be ∧
         (line t p).cand = 0 ∧ (∀ q, q ≠ p → line t q = line s q) ∧ t = { s with regs := t.regs, lines := t.lines } ∧ RegsKept s t [a]))) ∧
  (∀ (s : State) (x : FieldLimit) (k : Nat) (v : Word), x ∈ fieldLimits → k < x.count → x.broken v = true → awake s = true →
     s.power.vhb ≠ 0 → mapped s (x.base + x.step * k) = true →
     let a := x.base + x.step * k
     ∃ t, exec (.registerWrite a v 15#4) s = .next t ∧ flag t (cfgErrAt a).1 (cfgErrAt a).2 = true ∧ getReg t a = getReg s a ∧
       t = withEvents s t) ∧
  (∀ (s : State) (a : Nat) (v : Word) (be : BitVec 4), a % 4 = 0 → awake s = true → s.power.vhb ≠ 0 → be ≠ 0 → a < 0x02000000 →
     (isMem a = true → ¬ (0x00061000 ≤ a ∧ a < 0x00062000) → (isImem a = true → bit (engStatWord s (memEng a)) 0 = true) →
       ∃ t, exec (.registerWrite a v be) s = .next t ∧
         (∀ b, memByte t b = if a ≤ b ∧ b < a + 4 ∧ be.getLsbD (b % 4) = true then (wordBytes v).getD (b % 4) 0 else memByte s b) ∧
         t = { s with mem := t.mem, ecc := t.ecc }) ∧
     (0x00061000 ≤ a → a < 0x00062000 →
       let src := (s.nodeId, 288)
       ((ownedByOther s src = true ∨ (s.power.bootMode = 2 ∧ ownTag s src = true)) → ∃ t, exec (.registerWrite a v be) s = .next t ∧
         flag t (aUpd 0x08) 19 = true ∧ t = { s with regs := t.regs } ∧ RegsKept s t [aUpd 0x08]) ∧
       (ownedByOther s src = false → ¬ (s.power.bootMode = 2 ∧ ownTag s src = true) → ∃ t, exec (.registerWrite a v be) s = .next t ∧
         (∀ b, memByte t b = if a ≤ b ∧ b < a + 4 ∧ be.getLsbD (b % 4) = true then (wordBytes v).getD (b % 4) 0 else memByte s b) ∧
         t = { s with mem := t.mem, ecc := t.ecc })) ∧
     (isTbl a = true →
       let tbl := (tblPos a).1
       let o := (tblPos a).2
       let w := o % tblEntry tbl / 4
       let bank := winBank s
       let W := mergeBytes (tblWord s bank tbl o) v be
       let hits := decide (tblHits tbl = some (4 * w))
       let bad := imageRefused s tbl (o / tblEntry tbl) (listSet (tblImage s bank tbl (o / tblEntry tbl)) w W)
       (bad = false → (if bank = s.tables.active then hits = true else s.tables.busy = false) →
         ∃ t, exec (.registerWrite a v be) s = .next t ∧ tblWord t bank tbl o = (if hits then W else W &&& imageMask tbl w) ∧
           (∀ b k x, (b ≠ bank ∨ k ≠ tbl ∨ x ≠ o) → k ≤ 2 → tblWord t b k x = tblWord s b k x) ∧ t = { s with tables := t.tables }) ∧
       ((bad = true ∨ (if bank = s.tables.active then hits = false else s.tables.busy = true)) →
         ∃ t, exec (.registerWrite a v be) s = .next t ∧ flag t (aSw 0x00) 0 = true ∧ t = { s with regs := t.regs } ∧
           RegsKept s t [aSw 0x00])))

/-! ### Time and the discrete lines -/

/-- R348, R347, R353, R362, R363, of an awake node: GO with MODE LOAD, AT_SAMPLE or ADJUST takes its value, sets GO and clears ERR; with
GO still 1, with more than 999,999,999 ns to LOAD, with nanoseconds or without a PPS source for AT_SAMPLE it is refused and sets only ERR
and CFG_ERR. A read of NOW_LO latches NOW_HI. TIME.RATE within ±2,147,484 waits for the next launch for ρ and the integrator; outside it
is refused. ARM takes the instant of LEAP_AT with the direction and the high bits written. Completes: timeLoad, timeAtSample, timeAdjust,
timeNowRead, timeRateWrite, leapArm. That ARM takes LEAP_AT at the write is the model's reading (log entry 14), and that a write of RATE
replaces a change still pending is its choice (77). -/
def Obligations.TimeSetting : Prop :=
  ∀ s : State, awake s = true →
    let ns := (setVal s).toNat % 2 ^ 30
    (flag s (aTime 0x20) 31 = false → ns ≤ 999999999 →
      ∃ t, exec .timeLoad s = .next t ∧ getReg t (aTime 0x20) = 0x80000000#32 ∧
        t = { s with regs := t.regs, time := { s.time with pLoad := some (setVal s) } } ∧ RegsKept s t [aTime 0x20]) ∧
    (flag s (aTime 0x20) 31 = false → ns = 0 → timeSrc s ≠ 0 → timeSrc s ≠ 4 →
      ∃ t, exec .timeAtSample s = .next t ∧ getReg t (aTime 0x20) = 0x80000001#32 ∧
        t = { s with regs := t.regs, time := { s.time with atSample := some ((setVal s).toNat / 2 ^ 30) } } ∧
        RegsKept s t [aTime 0x20]) ∧
    (flag s (aTime 0x20) 31 = false →
      ∃ t, exec .timeAdjust s = .next t ∧ getReg t (aTime 0x20) = 0x80000002#32 ∧
        t = { s with regs := t.regs, time := { s.time with pAdj := some (sgn (getReg s (aTime 0x24))) } } ∧
        RegsKept s t [aTime 0x20]) ∧
    (∀ c ∈ [(Instr.timeLoad, decide (999999999 < ns)), (.timeAtSample, decide (ns ≠ 0 ∨ timeSrc s = 0 ∨ timeSrc s = 4)), (.timeAdjust, false)],
      (flag s (aTime 0x20) 31 = true ∨ c.2 = true) →
      ∃ t, exec c.1 s = .next t ∧ flag t (aTime 0x20) 30 = true ∧ flag t (aTime 0x20) 31 = flag s (aTime 0x20) 31 ∧
        flag t (aTime 0x04) 14 = true ∧ t = { s with regs := t.regs } ∧ RegsKept s t [aTime 0x20, aTime 0x04]) ∧
    (∃ t, exec .timeNowRead s = .next t ∧ getReg t (aTime 0x14) = hi32 s.time.ft ∧ t = { s with regs := t.regs } ∧
      RegsKept s t [aTime 0x14]) ∧
    (∀ v : Word, sgn v ≤ 2147484 → -2147484 ≤ sgn v →
      exec (.timeRateWrite v) s = .next { s with time := { s.time with pRho := some (sgn v), pInteg := some (sgn v) } }) ∧
    (∀ v : Word, 2147484 < sgn v ∨ sgn v < -2147484 →
      ∃ t, exec (.timeRateWrite v) s = .next t ∧ flag t (aTime 0x04) 14 = true ∧ t = { s with regs := t.regs } ∧
        RegsKept s t [aTime 0x04]) ∧
    (∀ v : Word, ∃ t, exec (.leapArm v) s = .next t ∧ getReg t (aTime 0x54) = (v &&& 0x40000003#32) ||| 0x80000000#32 ∧
      t = { s with regs := t.regs, time := { s.time with leapAt := bits v 1 0 * 2 ^ 32 + (getReg s (aTime 0x50)).toNat } } ∧
      RegsKept s t [aTime 0x54])

/-- R346, R349, R363, R158, R140: a refresh launch takes up the pending ρ and integrator and sends index, FTIME, ρ and epoch of the
launch; the next index follows modulo 256. Every idle pulse gate 256 to 273 of the device carries the index to its stamping clock, and a
busy one merges the pulse and sets OVR. Nothing pending leaves FTIME and the epoch; a LOAD puts its value in and drops a step of the loop;
an AT_SAMPLE, a step of the loop, an ADJUST or an armed leap second whose instant is reached moves FTIME by its amount in one new epoch,
GO or ARM returns to 0, and a leap second sets LEAPED and event 75. Completes: refreshLaunch. R158, R160, R162, R139: a refresh pulse that
reaches its clock latches the count of that moment, and the switch joins it with the refresh of the index: the pair becomes that clock's
latest, at 2.5 clock periods after the launch. The gate is then idle, or waits for the acknowledge; its arrival makes it idle, and with no
pulse on its way nothing happens. With the first pair of clock 0 no edge of a discrete line waits any longer: it enters the Shutter with
its translated stamp. Completes: refreshPair. That merged pulses leave the newer index, and the operand for the acknowledge, are the model's
choices (log entry 74). -/
def Obligations.Refresh : Prop :=
  (∀ s : State, awake s = true →
     let leap := flag s (aTime 0x54) 31
     ∃ t, exec .refreshLaunch s = .next t ∧
       t.time.rho = s.time.pRho.getD s.time.rho ∧ t.time.integ = s.time.pInteg.getD s.time.integ ∧
       t.time = { s.time with ft := t.time.ft, rho := t.time.rho, integ := t.time.integ, epoch := t.time.epoch, accSec := t.time.accSec,
                              dnow := t.time.dnow, pulseIdx := t.time.pulseIdx, idx := (s.time.idx + 1) % 256,
                              pLoad := none, pSecs := none, pStep := none, pAdj := none, pSleep := none, pRho := none, pInteg := none,
                              launches := ({ idx := s.time.idx, ft := t.time.ft, rho := t.time.rho, epoch := t.time.epoch } ::
                                s.time.launches).take 16 } ∧
       (∀ c ∈ stampClocks s, tabGet (fun _ => 0) t.time.pulseIdx c = s.time.idx ∧
         (pulseSt s (128 + c) = .idle → pulseSt t (128 + c) = .request) ∧
         (pulseSt s (128 + c) ≠ .idle → pulseSt t (128 + c) = pulseSt s (128 + c) ∧ flag t (aGateStat (256 + c)) 0 = true)) ∧
       t = withEvents { s with time := t.time } t ∧ RegsKeptE s t [aTime 0x04, aTime 0x20, aTime 0x54] ∧
       (s.time.pLoad = none → s.time.pSecs = none → s.time.pStep = none → s.time.pAdj = none → s.time.pSleep = none →
         (leap = false ∨ ftNs s.time.ft / 1000000000 < s.time.leapAt) →
         t.time.ft = s.time.ft ∧ t.time.epoch = s.time.epoch + b2n s.time.pRho.isSome ∧ RegsKeptE s t []) ∧
       (∀ v, s.time.pLoad = some v → v.toNat % 2 ^ 30 ≤ 999999999 → s.time.pSecs = none → s.time.pAdj = none → s.time.pSleep = none →
         leap = false → t.time.ft = v ∧ t.time.epoch = s.time.epoch + 1 ∧ flag t (aTime 0x20) 31 = false) ∧
       (∀ d, s.time.pLoad = none → s.time.pSecs = some d → s.time.pAdj = none → s.time.pSleep = none → leap = false →
         t.time.ft = ftAdd s.time.ft (d * 1000000000) ∧ t.time.epoch = s.time.epoch + 1 ∧ flag t (aTime 0x20) 31 = false) ∧
       (∀ d, s.time.pLoad = none → s.time.pSecs = none → s.time.pStep = some d → s.time.pAdj = none → s.time.pSleep = none → leap = false →
         t.time.ft = ftAdd s.time.ft d ∧ t.time.epoch = s.time.epoch + 1) ∧
       (∀ d, s.time.pLoad = none → s.time.pSecs = none → s.time.pStep = none → s.time.pAdj = some d → s.time.pSleep = none → leap = false →
         t.time.ft = ftAdd s.time.ft d ∧ t.time.epoch = s.time.epoch + 1 ∧ flag t (aTime 0x20) 31 = false) ∧
       (s.time.pLoad = none → s.time.pSecs = none → s.time.pStep = none → s.time.pAdj = none → s.time.pSleep = none → leap = true →
         s.time.leapAt ≤ ftNs s.time.ft / 1000000000 →
         t.time.ft = ftAdd s.time.ft (if flag s (aTime 0x54) 30 then 1000000000 else -1000000000) ∧ t.time.epoch = s.time.epoch + 1 ∧
         flag t (aTime 0x54) 31 = false ∧ flag t (aTime 0x04) 13 = true ∧ EventSet 75 t)) ∧
  (∀ (s : State) (clk : Nat) (ago : Word) (acked : Bool), awake s = true → clk ≤ canClock →
     let k := tabGet (fun _ => 0) s.time.pulseIdx clk
     let c := stampCount s clk - ago
     (pulseSt s (128 + clk) = .request →
       ∃ t, exec (.refreshPair clk ago acked) s = .next t ∧ pulseSt t (128 + clk) = (if acked then .idle else .ack) ∧
         (∀ j, j ≠ 128 + clk → (clk ≠ 0 ∨ s.time.dlWait = []) → pulseSt t j = pulseSt s j) ∧
         tabGet (fun _ => (0, 0)) t.time.latched clk = (k, c) ∧ (∀ j, j ≠ clk → pairsOf t j = pairsOf s j) ∧
         (s.time.launches.find? (fun l => decide (l.idx = k)) = none →
           t = { s with pulses := t.pulses, time := { s.time with latched := t.time.latched } }) ∧
         ∀ l, s.time.launches.find? (fun l => decide (l.idx = k)) = some l →
           (pairsOf t clk).latest = some (l.epoch, { c := c, t4 := ftNs l.ft * 4 + (if clk = canClock then 125 else 50), rho := l.rho }) ∧
           ((clk ≠ 0 ∨ s.time.dlWait = []) →
             t = { s with pulses := t.pulses, time := { s.time with latched := t.time.latched, pairs := t.time.pairs } }) ∧
           (clk = 0 → t.time.dlWait = [] ∧
             ∀ e, s.time.dlWait = [e] → s.time.shut.length < 64 → s.time.shutLost = false →
               ∃ f, ftOfCount t 0 e.1 = some f ∧ t.time.shut = s.time.shut ++ [{ ft := f, desc := e.2 }])) ∧
     (pulseSt s (128 + clk) = .ack → ∃ t, exec (.refreshPair clk ago acked) s = .next t ∧ pulseSt t (128 + clk) = .idle ∧
       t = { s with pulses := t.pulses }) ∧
     (pulseSt s (128 + clk) = .idle → exec (.refreshPair clk ago acked) s = .next s))

/-- R353, R358, of an awake node: a write of TIME.CTL with a legal SRC stores it; a change of SRC to a source enters ACQ, a change to FREE
enters HOLD, and ρ then equals the integrator, a value still pending for it included; a write that keeps SRC leaves the loop alone; an
illegal one is refused. Completes: timeSrcWrite. That the value still pending counts is the model's reading (log entries 66 and 77). -/
def Obligations.TimeSource : Prop :=
  ∀ (s : State) (v : Word), awake s = true →
    (bits v 2 0 ≤ 4 → (bit v 9 = true → bits v 2 0 ≠ 4) → bits v 2 0 ≠ timeSrc s →
      ∃ t, exec (.timeSrcWrite v) s = .next t ∧ getReg t (aTime 0x00) = v &&& 0x2C7#32 ∧
        loopState t = (if bits v 2 0 = 0 then 0 else 1) ∧ flag t (aTime 0x04) 2 = false ∧ flag t (aTime 0x04) 3 = decide (bits v 2 0 = 2) ∧
        flag t (aTime 0x74) 31 = false ∧ t.time = { s.time with qual := 0, misses := 0, pRho := t.time.pRho } ∧
        t.time.pRho = (if bits v 2 0 = 0 then some (s.time.pInteg.getD s.time.integ) else s.time.pRho) ∧
        t = { s with regs := t.regs, time := t.time } ∧ RegsKept s t [aTime 0x00, aTime 0x04, aTime 0x74]) ∧
    (bits v 2 0 ≤ 4 → (bit v 9 = true → bits v 2 0 ≠ 4) → bits v 2 0 = timeSrc s →
      ∃ t, exec (.timeSrcWrite v) s = .next t ∧ getReg t (aTime 0x00) = v &&& 0x2C7#32 ∧ loopState t = loopState s ∧
        flag t (aTime 0x04) 3 = decide (bits v 2 0 = 2) ∧ t = { s with regs := t.regs } ∧ RegsKept s t [aTime 0x00, aTime 0x04]) ∧
    (4 < bits v 2 0 ∨ (bit v 9 = true ∧ bits v 2 0 = 4) →
      ∃ t, exec (.timeSrcWrite v) s = .next t ∧ flag t (aTime 0x04) 14 = true ∧ t = { s with regs := t.regs } ∧
        RegsKept s t [aTime 0x04])

/-- R351, R352, R354, R355, R357, of an awake node and an input not kept in the Shutter: every PPS edge is captured; one of an input the
loop does not use changes nothing of it. In LOCK one outside the window is counted with event 73, a further one of its second counts as
extra, and the accepted one within STEP_THR gives OFFSET, event 72 and a new integrator and ρ. In ACQ the first edge only starts
qualification, and the one that completes it within STEP_THR presets the integrator and ρ and enters LOCK. Completes: ppsEdge. R355, R356,
R365, R371, of an awake node: a window in LOCK with no accepted edge, or 2 × SYNC_MS without an accepted SYNC, is a miss: counted, with
event 73; a SYNC in the clock of expiry prevents it. The MISS_MAX-th in a row leads to ACQ. PPSOUT goes active at its instant with EN 1, and
inactive 0.1 s later. Completes: ppsWindowMiss, syncMiss, ppsoutPulse, ppsoutEnd. R366, R368, R370, R357: a master in RUNNING queues a SYNC
on both links of the main pair. An awake node takes a SYNC out of gate 38 + m: with SRC RING one of another node, or without a usable delay,
counts in CNT_SYNCBAD; one of the chosen master whose link delay is known is a sample with the offset of R370, which within STEP_THR gives
OFFSET, event 72, LOCK and a new integrator and ρ. Else it has no further effect. Completes: syncSend, syncReceive. R372, R376: a RUNNING
node queues a PD_REQ on each link in UP. Of an awake node's PD frames of gate 38 + m a request is answered in RUNNING on its link, with the
receive stamp; the first answer to an open request sets LINK[m].DELAY, a later one moves it by the difference shifted by PD_FILT, and an
answer to none has no effect. The third unanswered request in a row leaves the delay unmeasured. Completes: pdReqSend, pdReqReceive,
pdRespReceive, pdTimeout. The resolution of a capture and the second of a sample (log entries 13 and 15), and a SYNC without SRC RING, an
own delay not measured and the edge before (66), are the model's readings. -/
def Obligations.TimeSamples : Prop :=
  (∀ (s : State) (b : Bool), awake s = true → flag s (aTime 0x108) (b2n b) = false →
     let caps := [aTime (if b then 0x48 else 0x40), aTime (if b then 0x4C else 0x44)]
     let cap := ftNs s.time.ft
     let d : Int := (cap : Int) - sgnN 16 (if b then fld s (aTime 0x3C) 31 16 else fld s (aTime 0x3C) 15 0)
     let sec := roundDiv d 1000000000
     let th := d - sec * 1000000000
     let scaled := roundDiv (th * 2 ^ 32) 1000000000
     let second := (sec % (2 ^ 34 : Int)).toNat
     let seen : TimeSt := if b then { s.time with prevB := some (s.time.clk, cap) } else { s.time with prevA := some (s.time.clk, cap) }
     ∃ t, exec (.ppsEdge b) s = .next t ∧ getReg t (aTime (if b then 0x48 else 0x40)) = lo32 s.time.ft ∧
       getReg t (aTime (if b then 0x4C else 0x44)) = hi32 s.time.ft ∧
       (ppsInUse s ≠ some b → t = { s with regs := t.regs, time := seen } ∧ RegsKept s t caps) ∧
       (ppsInUse s = some b → loopState s = 2 → fld s (aTime 0x28) 19 0 < th.natAbs →
         getReg t (aTime 0x64) = satAdd (getReg s (aTime 0x64)) 1 ∧ flag t (aTime 0x04) 10 = true ∧ EventSet 73 t ∧
         t = withEvents { s with time := seen } t ∧ RegsKeptE s t (caps ++ [aTime 0x04, aTime 0x64])) ∧
       (ppsInUse s = some b → loopState s = 2 → th.natAbs ≤ fld s (aTime 0x28) 19 0 → s.time.accSec = some second →
         getReg t (aTime 0x68) = satAdd (getReg s (aTime 0x68)) 1 ∧ flag t (aTime 0x04) 11 = true ∧
         t = { s with regs := t.regs, time := seen } ∧ RegsKept s t (caps ++ [aTime 0x04, aTime 0x68])) ∧
       (ppsInUse s = some b → loopState s = 2 → th.natAbs ≤ fld s (aTime 0x28) 19 0 → s.time.accSec ≠ some second →
         th.natAbs ≤ fld s (aTime 0x2C) 29 0 → s.time.atSample = none →
         let i := clampRho (s.time.integ - scaled / 2 ^ fld s (aTime 0x30) 20 16)
         getReg t (aTime 0x38) = wdInt th ∧ getReg t (aTime 0x5C) = getReg s (aTime 0x5C) + 1 ∧ EventSet 72 t ∧ loopState t = 2 ∧
         flag t (aTime 0x04) 2 = false ∧
         t = withEvents { s with time := { seen with accSec := some second, misses := 0, integ := i,
                                                     pRho := some (clampRho (i - scaled / 2 ^ fld s (aTime 0x30) 28 24)) } } t ∧
         RegsKeptE s t (caps ++ [aTime 0x04, aTime 0x38, aTime 0x5C])) ∧
       (ppsInUse s = some b → loopState s = 1 → (if b then s.time.prevB else s.time.prevA) = none →
         t = { s with regs := t.regs, time := { seen with qual := 0 } } ∧ RegsKept s t caps) ∧
       (∀ c0 n0, ppsInUse s = some b → loopState s = 1 → (if b then s.time.prevB else s.time.prevA) = some (c0, n0) →
         qualified s (s.time.clk - c0) = true → flag s (aTime 0x04) 2 = false → fld s (aTime 0x30) 11 8 ≤ s.time.qual + 1 →
         th.natAbs ≤ fld s (aTime 0x2C) 29 0 → s.time.atSample = none →
         let i := clampRho (s.time.rho - roundDiv (((cap : Int) - n0 - 1000000000) * 2 ^ 32) 1000000000)
         loopState t = 2 ∧ getReg t (aTime 0x38) = wdInt th ∧ getReg t (aTime 0x5C) = getReg s (aTime 0x5C) + 1 ∧ EventSet 72 t ∧
         t = withEvents { s with time := { seen with qual := s.time.qual + 1, accSec := some second, misses := 0, integ := i,
                                                     pRho := some i } } t ∧
         RegsKeptE s t (caps ++ [aTime 0x04, aTime 0x38, aTime 0x5C]))) ∧
  (∀ s : State, awake s = true →
     let lost := [(Instr.ppsWindowMiss, decide (loopState s = 2 ∧ (ppsInUse s).isSome = true ∧
         s.time.accSec ≠ some ((ftNs s.time.ft - fld s (aTime 0x28) 19 0) / 1000000000))),
       (.syncMiss, decide (timeSrc s = 4 ∧ s.time.syncAt ≠ some s.time.clk))]
     (∀ c ∈ lost, (c.2 = false → exec c.1 s = .next s) ∧
       (c.2 = true → ∃ t, exec c.1 s = .next t ∧ getReg t (aTime 0x60) = satAdd (getReg s (aTime 0x60)) 1 ∧ flag t (aTime 0x04) 9 = true ∧
         EventSet 73 t ∧ RegsKeptE s t [aTime 0x04, aTime 0x60] ∧
         (s.time.misses + 1 < fld s (aTime 0x30) 3 0 → loopState t = loopState s ∧
           t = withEvents { s with time := { s.time with misses := s.time.misses + 1 } } t) ∧
         (fld s (aTime 0x30) 3 0 ≤ s.time.misses + 1 → loopState t = 1 ∧ flag t (aTime 0x04) 2 = false ∧
           flag t (aTime 0x04) 3 = (flag s (aTime 0x04) 3 || decide (timeSrc s = 3)) ∧
           (timeSrc s = 3 → flag s (aTime 0x04) 3 = false → flag t (aTime 0x04) 8 = true) ∧
           t = withEvents { s with time := { s.time with misses := 0, qual := 0 } } t))) ∧
     exec .ppsoutPulse s = .next (if flag s (aTime 0x58) 31 then { s with time := { s.time with ppsOut := true } } else s) ∧
     exec .ppsoutEnd s = .next { s with time := { s.time with ppsOut := false } }) ∧
  (∀ s : State,
     (flag s (aTime 0x00) 9 = true → s.power.phase = .running →
       ∃ t, exec .syncSend s = .next t ∧ fld t (aRing 0x0C) 15 0 = (fld s (aRing 0x0C) 15 0 + 1) % 65536 ∧
         (∃ f, f.typ = 7 ∧ f.exp = true ∧ f.dest = 0xFFF ∧ f.src = s.nodeId ∧ f.seq = fld s (aRing 0x0C) 15 0 ∧ tpKind f.payload = 0 ∧
           tpNoDelay f.payload = false ∧ f.payload.length = 32 ∧ ∀ m < 2, txQ t m = txQ s m ++ [f]) ∧
         t = { s with regs := t.regs, ring := { s.ring with txq := t.ring.txq } } ∧ RegsKept s t [aRing 0x0C]) ∧
     (∀ (m : Nat) (f : Frame), m < 4 → awake s = true → (ringQ s m).find? (isTime 0) = some f →
       ∃ t, exec (.syncReceive m) s = .next t ∧ ringQ t m = (ringQ s m).eraseP (isTime 0) ∧ (∀ j, j ≠ m → ringQ t j = ringQ s j) ∧
         (timeSrc s ≠ 4 → t = { s with ring := { s.ring with inq := t.ring.inq } }) ∧
         (timeSrc s = 4 → (fld s (aTime 0x70) 27 16 = 0 ∨ f.src ≠ fld s (aTime 0x70) 27 16 ∨ tpNoDelay f.payload = true ∨
             delayKnown s m = false) →
           getReg t (aTime 0x7C) = satAdd (getReg s (aTime 0x7C)) 1 ∧ flag t (aTime 0x04) 10 = true ∧
           t = { s with regs := t.regs, ring := { s.ring with inq := t.ring.inq } } ∧ RegsKept s t [aTime 0x7C, aTime 0x04]) ∧
         (timeSrc s = 4 → f.src = fld s (aTime 0x70) 27 16 → f.src ≠ 0 → tpNoDelay f.payload = false → delayKnown s m = true →
           let th := roundDiv ((f.rxAt : Int) - 256 * ftNs (tpOrigin f.payload) - tpCorr f.payload - linkCorr s m) 256
           let scaled := roundDiv (th * 2 ^ 32) 1000000000
           let i := clampRho (s.time.integ - scaled / 2 ^ fld s (aTime 0x30) 20 16)
           getReg t (aTime 0x78) = getReg s (aTime 0x78) + 1 ∧ getReg t (aTime 0x74) = wd (0x80000000 + (4096 - f.hops) % 4096) ∧
           getReg t (aTime 0x5C) = getReg s (aTime 0x5C) + 1 ∧ EventSet 72 t ∧ t.time.misses = 0 ∧ t.time.syncAt = some s.time.clk ∧
           t = withEvents { s with time := t.time, free := t.free, ring := { s.ring with inq := t.ring.inq } } t ∧
           RegsKeptE s t [aTime 0x04, aTime 0x38, aTime 0x5C, aTime 0x6C, aTime 0x74, aTime 0x78] ∧
           (th.natAbs ≤ fld s (aTime 0x2C) 29 0 → getReg t (aTime 0x38) = wdInt th ∧ loopState t = 2 ∧
             t.time = { s.time with misses := 0, syncAt := some s.time.clk, integ := i,
                                    pRho := some (clampRho (i - scaled / 2 ^ fld s (aTime 0x30) 28 24)) })))) ∧
  (∀ s : State,
     (s.power.phase = .running →
       ∃ t, exec .pdReqSend s = .next t ∧
         (∀ m < 4, linkUp s m = true → (pdOf t m).asked = true ∧ (pdOf t m).t1 = none ∧ (pdOf t m).fails = (pdOf s m).fails ∧
           ∃ f, txQ t m = txQ s m ++ [f] ∧ f.typ = 7 ∧ f.dest = 0 ∧ f.src = s.nodeId ∧ f.hops = 4095 ∧ tpKind f.payload = 1) ∧
         (∀ m, (4 ≤ m ∨ linkUp s m = false) → pdOf t m = pdOf s m ∧ txQ t m = txQ s m) ∧
         t = { s with time := { s.time with pd := t.time.pd }, ring := { s.ring with txq := t.ring.txq } }) ∧
     (∀ (m : Nat) (f : Frame), m < 4 → awake s = true → (ringQ s m).find? (isTime 1) = some f →
       ∃ t, exec (.pdReqReceive m) s = .next t ∧ ringQ t m = (ringQ s m).eraseP (isTime 1) ∧ (∀ j, j ≠ m → ringQ t j = ringQ s j) ∧
         (s.power.phase = .running → ∃ g, txQ t m = txQ s m ++ [g] ∧ g.typ = 7 ∧ g.dest = 0 ∧ tpKind g.payload = 2 ∧ g.rxAt = f.rxAt) ∧
         (s.power.phase ≠ .running → txQ t m = txQ s m) ∧ (∀ j, j ≠ m → txQ t j = txQ s j) ∧
         t = { s with ring := { s.ring with txq := t.ring.txq, inq := t.ring.inq } }) ∧
     (∀ (m : Nat) (f : Frame), m < 4 → awake s = true → (ringQ s m).find? (isTime 2) = some f →
       ∃ t, exec (.pdRespReceive m) s = .next t ∧ ringQ t m = (ringQ s m).eraseP (isTime 2) ∧ (∀ j, j ≠ m → ringQ t j = ringQ s j) ∧
         ((pdOf s m).t1 = none → t = { s with ring := { s.ring with inq := t.ring.inq } }) ∧
         ∀ t1, (pdOf s m).t1 = some t1 →
           let a := aTime (0x80 + 8 * m)
           let old : Int := (getReg s a).toNat
           let sample := Int.tdiv (((f.rxAt : Int) - t1) - tpCorr f.payload) 2
           getReg t a = wdInt (if delayKnown s m then old + (sample - old) / 2 ^ fld s (aTime 0x70) 3 0 else sample) ∧ pdOf t m = {} ∧
           (∀ j, j ≠ m → pdOf t j = pdOf s j) ∧
           t = { s with regs := t.regs, time := { s.time with pd := t.time.pd }, ring := { s.ring with inq := t.ring.inq } } ∧
           RegsKept s t [a]) ∧
     (∀ m < 4, awake s = true →
       ((pdOf s m).asked = true →
         ∃ t, exec (.pdTimeout m) s = .next t ∧ pdOf t m = { asked := false, t1 := none, fails := (pdOf s m).fails + 1 } ∧
           (∀ j, j ≠ m → pdOf t j = pdOf s j) ∧
           getReg t (aTime (0x80 + 8 * m)) = (if 2 ≤ (pdOf s m).fails then 0xFFFFFFFF#32 else getReg s (aTime (0x80 + 8 * m))) ∧
           t = { s with regs := t.regs, time := { s.time with pd := t.time.pd } } ∧ RegsKept s t [aTime (0x80 + 8 * m)]) ∧
       ((pdOf s m).asked = false → exec (.pdTimeout m) s = .next s)))

/-- R379, R380, of an awake node: a read of SHUT.DATA2 takes the oldest edge out of the Shutter; an empty one keeps what it shows and sets
UNDER. Completes: shutterRead. -/
def Obligations.Shutter : Prop :=
  ∀ s : State, awake s = true →
    (∀ e r, s.time.shut = e :: r →
      exec .shutterRead s = .next { s with time := { s.time with shut := r, shutLast := some e } }) ∧
    (s.time.shut = [] → ∃ t, exec .shutterRead s = .next t ∧ flag t (aTime 0x104) 3 = true ∧ t = { s with regs := t.regs } ∧
      RegsKept s t [aTime 0x104])

/-- R626–R633, R639: an edge of the filtered level of lines that do not feed the Shutter and have a debounce time opens a run on each with
its edge clock, and with D = 0 is accepted at once. Runs that have lasted their time, of one line or of several in one clock, are accepted:
the debounced level follows the ball, an edge that the line counts grows CNT, the increment that reaches CMP sets STAT.MATCH and event 77
(R640), and a period that completes gives its result; without a run nothing is accepted. An open group that overflows gives the result
FFFF_FFFFh. In Stabled only the ball follows. Completes: dlRawEdge, dlEdgeAccept, dlPeriodOverflow. R629, R632, R633, R636, R637, R642,
R639: of an awake node a legal write of DL[k].CFG is stored; a change of PEDGE or PER_N closes the period measurement, and a change of MODE
ends a heartbeat and takes the times of OPER and OHI; an illegal write is refused with its flags. SHUT_DEB takes effect while no Shutter
line waits. In Stabled neither write has an effect. Completes: dlCfgWrite, dlShutDebWrite. In Stabled only the ball follows, and a run is
accepted even at the accepted level: the model's readings (log entries 18 and 20). -/
def Obligations.DiscreteInputs : Prop :=
  (∀ (s : State) (k : Nat), k < 32 →
     (∀ (more accept : BitVec 32) (c : Word), awake s = false →
       ∃ t, exec (.dlRawEdge k c more accept) s = .next t ∧
         (∀ j, dlSt t j = if j < 32 ∧ (j = k ∨ more.getLsbD j = true) then { dlSt s j with ball := !(dlSt s j).ball, run := none }
           else dlSt s j) ∧
         t = { s with dl := t.dl, dlShutDeb := t.dlShutDeb }) ∧
     (∀ (more accept : BitVec 32) (c : Word), awake s = true →
       let edge := fun (j : Nat) => decide (j = k) || more.getLsbD j
       let taken := fun (j : Nat) => !edge j && accept.getLsbD j && (dlSt s j).run.isSome
       (∀ j < 32, edge j = true → fld s (aDl j 0x00) 21 20 = 0 ∧ fld s (aDl j 0x00) 7 0 ≠ 0) → (∀ j < 32, taken j = true → OnlyCounts s j) →
       ∃ t, exec (.dlRawEdge k c more accept) s = .next t ∧
         (∀ j < 32, edge j = true → (dlSt t j).ball = (!(dlSt s j).ball) ∧ (dlSt t j).run = some (s.time.ppCount - c) ∧
           (dlSt t j).deb = (dlSt s j).deb) ∧
         (∀ j < 32, edge j = false → dlSt t j = if taken j then { dlSt s j with run := none, deb := (dlSt s j).ball } else dlSt s j) ∧
         CountedOn s t taken) ∧
     (∀ c : Word, awake s = true → fld s (aDl k 0x00) 21 20 = 0 → fld s (aDl k 0x00) 7 0 = 0 → flag s (aDl k 0x00) 24 = false →
       edgeSel (fld s (aDl k 0x00) 19 18) (!(dlSt s k).ball) = false →
       ∃ t, exec (.dlRawEdge k c 0 0) s = .next t ∧ (dlSt t k).ball = (!(dlSt s k).ball) ∧ (dlSt t k).run = none ∧
         (dlSt t k).deb = (!(dlSt s k).ball) ∧ (∀ j, j ≠ k → dlSt t j = dlSt s j) ∧
         getReg t (aDl k 0x08) = (if edgeSel (fld s (aDl k 0x00) 23 22) (!(dlSt s k).ball) then getReg s (aDl k 0x08) + 1
           else getReg s (aDl k 0x08)) ∧
         t = { s with regs := t.regs, dl := t.dl, dlShutDeb := t.dlShutDeb } ∧ RegsKept s t [aDl k 0x08]) ∧
     (awake s = true → (dlSt s k).run = none → exec (.dlEdgeAccept k 0) s = .next s) ∧
     (∀ more : BitVec 32, awake s = true →
       let taken := fun (j : Nat) => (decide (j = k) || more.getLsbD j) && (dlSt s j).run.isSome
       (∀ j < 32, taken j = true → OnlyCounts s j) →
       ∃ t, exec (.dlEdgeAccept k more) s = .next t ∧
         (∀ j < 32, dlSt t j = if taken j then { dlSt s j with run := none, deb := (dlSt s j).ball } else dlSt s j) ∧ CountedOn s t taken) ∧
     (awake s = true → (dlSt s k).run ≠ none → fld s (aDl k 0x00) 21 20 = 0 → edgeSel (fld s (aDl k 0x00) 19 18) (dlSt s k).ball = false →
       edgeSel (fld s (aDl k 0x00) 23 22) (dlSt s k).ball = true → flag s (aDl k 0x00) 24 = true →
       getReg s (aDl k 0x08) + 1 = getReg s (aDl k 0x0C) →
       ∃ t, exec (.dlEdgeAccept k 0) s = .next t ∧ flag t (aDl k 0x04) 3 = true ∧
         (flag s (aDl k 0x04) 3 = false → flag s (aDl k 0x00) 27 = true → EventSet 77 t) ∧
         getReg t (aDl k 0x08) = (if flag s (aDl k 0x00) 25 then 0 else getReg s (aDl k 0x0C)) ∧
         (∀ j, dlSt t j = if j = k then { dlSt s k with run := none, deb := (dlSt s k).ball } else dlSt s j) ∧
         t = withEvents { s with dl := t.dl, dlShutDeb := t.dlShutDeb } t ∧ RegsKeptE s t [aDl k 0x04, aDl k 0x08]) ∧
     (∀ c : Word, awake s = true → (dlSt s k).run = some c → fld s (aDl k 0x00) 21 20 = 0 → flag s (aDl k 0x00) 24 = false →
       let sel (i : Nat) := edgeSel (fld s (aDl k 0x00) (i + 1) i) (dlSt s k).ball
       ∃ t, exec (.dlEdgeAccept k 0) s = .next t ∧ (dlSt t k).run = none ∧ (dlSt t k).deb = (dlSt s k).ball ∧
         getReg t (aDl k 0x08) = (if sel 22 then getReg s (aDl k 0x08) + 1 else getReg s (aDl k 0x08)) ∧
         (sel 18 = false → dlSt t k = { dlSt s k with run := none, deb := (dlSt s k).ball } ∧ RegsKept s t [aDl k 0x08]) ∧
         (∀ b n, sel 18 = true → (dlSt s k).grp = some (b, n) → n + 1 = fld s (aDl k 0x00) 15 8 →
           getReg t (aDl k 0x10) = c - b ∧ getReg t (aDl k 0x14) = getReg s (aDl k 0x14) + 1 ∧ (dlSt t k).grp = some (c, 0)) ∧
         (∀ j, j ≠ k → dlSt t j = dlSt s j) ∧ t = { s with regs := t.regs, dl := t.dl, dlShutDeb := t.dlShutDeb } ∧
         RegsKept s t [aDl k 0x08, aDl k 0x10, aDl k 0x14]) ∧
     (awake s = true → (dlSt s k).grp ≠ none →
       ∃ t, exec (.dlPeriodOverflow k) s = .next t ∧ dlSt t k = { dlSt s k with grp := none } ∧ getReg t (aDl k 0x10) = 0xFFFFFFFF#32 ∧
         getReg t (aDl k 0x14) = getReg s (aDl k 0x14) + 1 ∧ flag t (aDl k 0x04) 5 = true ∧ (∀ j, j ≠ k → dlSt t j = dlSt s j) ∧
         t = { s with regs := t.regs, dl := t.dl } ∧ RegsKept s t [aDl k 0x04, aDl k 0x10, aDl k 0x14]) ∧
     ((awake s = false ∨ (dlSt s k).grp = none) → exec (.dlPeriodOverflow k) s = .next s)) ∧
  (∀ (s : State) (v : Word),
     (∀ k < 32, awake s = true → bits v 19 18 ≠ 3 → (bits v 19 18 ≠ 0 → bits v 15 8 ≠ 0) →
       (bit v 25 = true → getReg s (aDl k 0x0C) ≠ 0) →
       ∃ t, exec (.dlCfgWrite k v) s = .next t ∧ getReg t (aDl k 0x00) = v &&& 0xFBFCFFFF#32 ∧ (∀ j, j ≠ k → dlSt t j = dlSt s j) ∧
         (dlSt t k).ball = (dlSt s k).ball ∧ (dlSt t k).deb = (dlSt s k).deb ∧
         ((bits v 19 18 ≠ fld s (aDl k 0x00) 19 18 ∨ bits v 15 8 ≠ fld s (aDl k 0x00) 15 8) → (dlSt t k).grp = none) ∧
         (bits v 31 30 ≠ fld s (aDl k 0x00) 31 30 → flag t (aDl k 0x04) 0 = false ∧ (dlSt t k).t1 = fld s (aDl k 0x18) 23 0 ∧
           (dlSt t k).t2 = fld s (aDl k 0x1C) 23 0) ∧
         (bits v 31 30 = fld s (aDl k 0x00) 31 30 → RegsKept s t [aDl k 0x00]) ∧
         t = { s with regs := t.regs, dl := t.dl, dlShutDeb := t.dlShutDeb } ∧ RegsKept s t [aDl k 0x00, aDl k 0x04]) ∧
     (∀ k < 32, awake s = true →
       (bits v 19 18 = 3 ∨ (bits v 19 18 ≠ 0 ∧ bits v 15 8 = 0) ∨ (bit v 25 = true ∧ getReg s (aDl k 0x0C) = 0)) →
       ∃ t, exec (.dlCfgWrite k v) s = .next t ∧ flag t (aDl k 0x04) 7 = true ∧ flag t (aTime 0x04) 14 = true ∧
         t = { s with regs := t.regs } ∧ RegsKept s t [aDl k 0x04, aTime 0x04]) ∧
     (awake s = true → ∃ t, exec (.dlShutDebWrite v) s = .next t ∧ getReg t (aDlG 0xF0) = v &&& 0xFF#32 ∧
       t.dlShutDeb = (if dlShutBusy s then s.dlShutDeb else bits v 7 0) ∧ t = { s with regs := t.regs, dlShutDeb := t.dlShutDeb } ∧
       RegsKept s t [aDlG 0xF0]) ∧
     (awake s = false → exec (.dlShutDebWrite v) s = .next s ∧ ∀ k, exec (.dlCfgWrite k v) s = .next s))

/-- R635, R637, R639: of an awake node a write of DL.OUT sets every OUT bit; OUT_SET, OUT_CLR and OUT_TOG change the named bits of the
lines in mode OUT only, and feed a named line in mode HEARTBEAT, which starts when it stood still. In Stabled none of them has an effect.
Completes: dlOutWrite, dlOutSet, dlOutClr, dlOutTog. -/
def Obligations.DiscreteOutputs : Prop :=
  ∀ (s : State) (v : Word),
    (awake s = false → ∀ c ∈ [Instr.dlOutWrite v, .dlOutSet v, .dlOutClr v, .dlOutTog v], exec c s = .next s) ∧
    (awake s = true →
      (∃ t, exec (.dlOutWrite v) s = .next t ∧ getReg t (aDlG 0x08) = v ∧ (∀ k, dlSt t k = { dlSt s k with faulty := (dlSt t k).faulty }) ∧
        t = { s with regs := t.regs, dl := t.dl } ∧ RegsKept s t [aDlG 0x08]) ∧
      ∀ c ∈ [(Instr.dlOutSet v, fun old sel => old || sel), (.dlOutClr v, fun old sel => old && !sel),
             (.dlOutTog v, fun old sel => Bool.xor old sel)],
        ∃ t, exec c.1 s = .next t ∧
          (∀ k < 32, flag t (aDlG 0x08) k = c.2 (flag s (aDlG 0x08) k) (bit v k && decide (dlMode s k = 1))) ∧
          (∀ k < 32, bit v k = true → dlMode s k = 3 → flag t (aDl k 0x04) 0 = true) ∧
          (∀ k, ¬ (k < 32 ∧ bit v k = true ∧ dlMode s k = 3 ∧ flag s (aDl k 0x04) 0 = false) →
            dlSt t k = { dlSt s k with faulty := (dlSt t k).faulty }) ∧
          t = { s with regs := t.regs, dl := t.dl } ∧ (∀ a, a ≠ aDlG 0x08 → (∀ k < 32, a ≠ aDl k 0x04) → getReg t a = getReg s a))

/-- R636–R638, R640, R32, of an awake node: a PWM period starts high when T2 is not 0 and with the times of its registers, and goes low T2
µs later unless T2 reaches T1; a fed heartbeat line toggles, starves into its flag unless it is fed in the clock of expiry, and a driven
line that differs from its ball sets the drive fault, either of them on one line or on several in one clock, with event 78 (R640). Lines in
another mode are not touched. Completes: dlPwmPeriod, dlPwmHighEnd, dlHbToggle, dlHbStarve, dlDriveFault. -/
def Obligations.DiscreteTimers : Prop :=
  ∀ (s : State) (k : Nat), k < 32 → awake s = true →
    (dlMode s k = 2 →
      (∃ t, exec (.dlPwmPeriod k) s = .next t ∧ (dlSt t k).pwmHigh = decide (fld s (aDl k 0x1C) 23 0 ≠ 0) ∧
        (dlSt t k).t1 = fld s (aDl k 0x18) 23 0 ∧ (dlSt t k).t2 = fld s (aDl k 0x1C) 23 0 ∧ (∀ j, j ≠ k → dlSt t j = dlSt s j) ∧
        t = { s with dl := t.dl }) ∧
      (∃ t, exec (.dlPwmHighEnd k) s = .next t ∧ (dlSt t k).pwmHigh = decide ((dlSt s k).t1 ≤ (dlSt s k).t2) ∧
        (∀ j, j ≠ k → dlSt t j = dlSt s j) ∧ t = { s with dl := t.dl })) ∧
    (dlMode s k ≠ 2 → exec (.dlPwmPeriod k) s = .next s ∧ exec (.dlPwmHighEnd k) s = .next s) ∧
    (dlMode s k = 3 → flag s (aDl k 0x04) 0 = true →
      (∃ t, exec (.dlHbToggle k) s = .next t ∧ (dlSt t k).hbLevel = (!(dlSt s k).hbLevel) ∧ (dlSt t k).t1 = fld s (aDl k 0x18) 23 0 ∧
        (dlSt t k).t2 = fld s (aDl k 0x1C) 23 0 ∧ (∀ j, j ≠ k → dlSt t j = dlSt s j) ∧ t = { s with dl := t.dl }) ∧
      ((dlSt s k).t2 ≠ 0 → ∃ t, exec (.dlHbStarve k false 0) s = .next t ∧ flag t (aDl k 0x04) 0 = false ∧ flag t (aDl k 0x04) 6 = true ∧
        (flag s (aDl k 0x04) 6 = false → flag s (aDl k 0x00) 27 = true → EventSet 78 t) ∧
        (∀ j, j ≠ k → dlSt t j = dlSt s j) ∧ t = withEvents { s with dl := t.dl } t ∧ RegsKeptE s t [aDl k 0x04])) ∧
    ((dlMode s k ≠ 3 ∨ flag s (aDl k 0x04) 0 = false) → exec (.dlHbToggle k) s = .next s ∧ exec (.dlHbStarve k false 0) s = .next s) ∧
    exec (.dlHbStarve k true 0) s = .next s ∧
    (dlDriven s k = true → (dlSt s k).faulty = false → (dlSt s k).ball ≠ dlLevel s k →
      ∃ t, exec (.dlDriveFault k 0 0) s = .next t ∧ dlSt t k = { dlSt s k with faulty := true } ∧ flag t (aDl k 0x04) 4 = true ∧
        (flag s (aDl k 0x04) 4 = false → flag s (aDl k 0x00) 27 = true → EventSet 78 t) ∧
        (∀ j, j ≠ k → dlSt t j = dlSt s j) ∧ t = withEvents { s with dl := t.dl } t ∧ RegsKeptE s t [aDl k 0x04]) ∧
    ((dlDriven s k = false ∨ (dlSt s k).faulty = true ∨ (dlSt s k).ball = dlLevel s k) → exec (.dlDriveFault k 0 0) s = .next s) ∧
    (∀ (fed : Bool) (more : BitVec 32),
      let starved := fun (j : Nat) => (decide (j = k) || more.getLsbD j) && !(fed && decide (j = k)) && starves s j
      ∃ t, exec (.dlHbStarve k fed more) s = .next t ∧ FaultsNoted s t (fun _ => false) starved) ∧
    (∀ more starve : BitVec 32,
      let differ := fun (j : Nat) => (decide (j = k) || more.getLsbD j) && differs s j
      let starved := fun (j : Nat) => starve.getLsbD j && starves s j
      ∃ t, exec (.dlDriveFault k more starve) s = .next t ∧ FaultsNoted s t differ starved)

/-! ### Engines and contexts -/

/-- R388, R404, R410, R411, R413, R733, of an awake node: START puts an IDLE or HALT context into READY with its fence and st cleared; in
another state, or with STOP, it is refused with CFG_ERR. STOP puts a context into IDLE, a response still due to it is to be discarded, and
a sentence it holds is dropped and counted. HOLD holds the engine, and its release has the effect of an instruction fence for every
context; a BUDGET below 16, and the release of an engine that has no physical one, are refused. Completes: ctxStart, ctxStop, engineHold,
engineRelease. That a refused START sets CFG_ERR is the model's reading of R36 (log entry 59). -/
def Obligations.ContextControl : Prop :=
  ∀ (s : State) (l c : Nat) (v : Word), l < 16 → c < 8 → awake s = true →
    (bit v 30 = false → ctxStartable s l c = true →
      ∃ t, exec (.ctxStart l c v) s = .next t ∧ getReg t (aCtx l c 0x00) = v &&& 0x301#32 ∧
        ctx t l c = bounded t l c { ctx s l c with st := .ready, nopre := false, exl := false, stale := [] } ∧ OnlyCtx l c 0 s t ∧
        t = { s with regs := t.regs, engs := t.engs } ∧ RegsKept s t [aCtx l c 0x00]) ∧
    (∀ i ∈ [(Instr.ctxStart l c v, decide (ctxStartable s l c = false ∨ bit v 30 = true)), (.ctxStop l c v, bit v 31)], i.2 = true →
      ∃ t, exec i.1 s = .next t ∧ flag t (aEng l 0x04) 16 = true ∧ t = withEvents s t ∧ RegsKeptE s t [aEng l 0x04]) ∧
    (bit v 31 = false → (ctx s l c).held = none →
      ∃ t, exec (.ctxStop l c v) s = .next t ∧ getReg t (aCtx l c 0x00) = v &&& 0x301#32 ∧
        ctx t l c = bounded t l c { ctx s l c with st := .idle, wait := none, blk := none,
                                                   orphans := (ctx s l c).orphans + b2n (respDue (ctx s l c)) } ∧ OnlyCtx l c 0 s t ∧
        t = { s with regs := t.regs, engs := t.engs } ∧ RegsKept s t [aCtx l c 0x00]) ∧
    (∀ k, bit v 31 = false → (ctx s l c).held = some k →
      ∃ t, exec (.ctxStop l c v) s = .next t ∧ (ctx t l c).st = .idle ∧ (ctx t l c).held = none ∧
        getReg t (aEng l 0x28) = satAdd (getReg s (aEng l 0x28)) 1 ∧ OnlyCtx l c 0 s t ∧
        t = { s with regs := t.regs, engs := t.engs, cells := (releaseRef k s).cells } ∧ RegsKept s t [aCtx l c 0x00, aEng l 0x28]) ∧
    (16 ≤ bits v 27 8 →
      ∃ t, exec (.engineHold l v) s = .next t ∧ getReg t (aEng l 0x00) = (v ||| 1#32) &&& 0x0FFFFF05#32 ∧ engHeld t l = true ∧
        t = { s with regs := t.regs } ∧ RegsKept s t [aEng l 0x00]) ∧
    (16 ≤ bits v 27 8 → engPhys s l ≠ 31 →
      ∃ t, exec (.engineRelease l v) s = .next t ∧ getReg t (aEng l 0x00) = v &&& 0x0FFFFF04#32 ∧
        (∀ k < 8, ctx t l k = { ctx s l k with stale := [] }) ∧ (∀ j k, j ≠ l → ctx t j k = ctx s j k) ∧
        (∀ j, eng t j = { eng s j with ctxs := (eng t j).ctxs }) ∧
        t = { s with regs := t.regs, engs := t.engs } ∧ RegsKept s t [aEng l 0x00]) ∧
    (∀ i ∈ [(Instr.engineHold l v, decide (bits v 27 8 < 16)), (.engineRelease l v, decide (bits v 27 8 < 16 ∨ engPhys s l = 31))],
      i.2 = true → ∃ t, exec i.1 s = .next t ∧ flag t (aEng l 0x04) 16 = true ∧ t = withEvents s t ∧ RegsKeptE s t [aEng l 0x04])

/-- R387, R389–R393, R395, R396, R398–R401, R421: with no context issuing, the scheduler selects a READY context, a HI one before a LO
one, and a HI one also pre-empts a LO one without NOPRE. A condition completes a wait with its wake word in gd, in the order MSG, EVT,
TMO; of several contexts that wait on MSG the lowest is woken first, and a timeout that passes in the stall of a move is kept for its end.
A dispatch takes the head of the class with its cell in the window, the budget loaded, and CNT_DISP counted; a stale head is released and
counted. A budget that ends drops the sentence, counts, and raises BUDGET; with EXL 1 the context only goes on. Completes:
schedulerSelect, waitWake, waitTimeout, dispatch, budgetExpiry. -/
def Obligations.SchedulingAndDispatch : Prop :=
  ∀ (s : State) (l c : Nat), l < 16 → c < 8 →
    (engRuns s l = true → runCtx s l = none → (ctx s l c).st = .ready →
      ∃ t k, exec (.schedulerSelect l) s = .next t ∧ k < 8 ∧ (ctx s l k).st = .ready ∧ ((ctx s l c).hi = true → (ctx s l k).hi = true) ∧
        ctx t l k = { ctx s l k with st := .run } ∧ (∀ j i, ¬ (j = l ∧ i = k) → ctx t j i = ctx s j i) ∧
        (if (ctx s l k).hi then (eng t l).lastHi = k ∧ (eng t l).lastLo = (eng s l).lastLo
          else (eng t l).lastLo = k ∧ (eng t l).lastHi = (eng s l).lastHi) ∧ t = { s with engs := t.engs }) ∧
    (engRuns s l = true → runCtx s l = some c → (ctx s l c).hi = false → (ctx s l c).nopre = false →
      (∃ k < 8, (ctx s l k).st = .ready ∧ (ctx s l k).hi = true) →
      ∃ t k, exec (.schedulerSelect l) s = .next t ∧ k < 8 ∧ (ctx s l k).st = .ready ∧ (ctx s l k).hi = true ∧
        (ctx t l k).st = .run ∧ (ctx t l c).st = .ready ∧ t = { s with engs := t.engs }) ∧
    (∀ w, awake s = true → (eng s l).moving = true → (ctx s l c).wait = some w →
      exec (.waitWake l c) s = .next s ∧
      ∃ t, exec (.waitTimeout l c) s = .next t ∧ ctx t l c = { ctx s l c with wait := some { w with due := w.due || w.cond.getLsbD 3 } } ∧
        OnlyCtx l c 0 s t ∧ t = { s with engs := t.engs }) ∧
    (∀ w, awake s = true → (eng s l).moving = false → (ctx s l c).wait = some w →
      (w.cond.getLsbD 1 = true → msgHolds s l = true →
        (∃ k < c, ∃ x, (ctx s l k).wait = some x ∧ x.cond.getLsbD 1 = true) → ∀ i ∈ [Instr.waitWake l c, .waitTimeout l c],
          exec i s = .next s) ∧
      (w.cond.getLsbD 1 = true → msgHolds s l = true →
        (∀ k < c, ∀ x, (ctx s l k).wait = some x → x.cond.getLsbD 1 = false) → ∀ i ∈ [Instr.waitWake l c, .waitTimeout l c],
        ∃ t, exec i s = .next t ∧ ctx t l c = bounded s l c { gSet (ctx s l c) w.gd (wakeWord 2 0 (fifo s (fEmq l)).words.length) with
                                                              st := .ready, pc := (ctx s l c).pc + 4, wait := none } ∧
          OnlyCtx l c 0 s t ∧ t = { s with engs := t.engs }) ∧
      ((w.cond.getLsbD 1 && msgHolds s l) = false → w.cond.getLsbD 2 = true → latchOf s l c = true →
        ∀ i ∈ [Instr.waitWake l c, .waitTimeout l c],
        ∃ t, exec i s = .next t ∧ ctx t l c = bounded s l c { gSet (ctx s l c) w.gd 0x30000000#32 with
                                                              st := .ready, pc := (ctx s l c).pc + 4, wait := none } ∧
          latchOf t l c = false ∧ OnlyCtx l c 0 s t ∧ t = { s with engs := t.engs, latch := t.latch }) ∧
      ((w.cond.getLsbD 1 && msgHolds s l) = false → (w.cond.getLsbD 2 && latchOf s l c) = false → w.cond.getLsbD 3 = true →
        ∃ t, exec (.waitTimeout l c) s = .next t ∧
          ctx t l c = bounded s l c { gSet (ctx s l c) w.gd 0x40000000#32 with
                                      st := .ready, pc := (ctx s l c).pc + 4, wait := none } ∧
          OnlyCtx l c 0 s t ∧ t = { s with engs := t.engs })) ∧
    (∀ k cell r w, engRuns s l = true → s.power.entering = false → liveStops s l = false → dispChoice s l = some (k, c) →
      iq s l k = cell :: r → isStale s (cellDeadline s cell) = false → (∀ i ≤ 16, eccOf s (aCell cell / 8 + i) = 0) →
      (ctx s l c).wait = some w →
      ∃ t, exec (.dispatch l) s = .next t ∧ iq t l k = r ∧ iq t l (1 - k) = iq s l (1 - k) ∧ (ctx t l c).held = some cell ∧
        (ctx t l c).st = .ready ∧ (ctx t l c).wait = none ∧ (ctx t l c).pc = (ctx s l c).pc + 4 ∧
        (ctx t l c).budget = 5 * fld s (aEng l 0x00) 27 8 ∧
        (∀ i < 128, winByte (ctx t l c) i = memByte s (aCell cell + i)) ∧
        (∀ i, gReg (ctx t l c) i = if i = w.gd ∧ i ≠ 0 then wakeWord 1 k cell else gReg (ctx s l c) i) ∧
        (∀ j i, ¬ (j = l ∧ i = c) → ctx t j i = ctx s j i) ∧
        getReg t (aEng l 0x14) = getReg s (aEng l 0x14) + 1 ∧ t = { s with regs := t.regs, engs := t.engs, ecc := t.ecc } ∧
        (∀ i, eccOf t i = if aCtxWin l c / 8 ≤ i ∧ i < aCtxWin l c / 8 + 16 then 0 else eccOf s i) ∧ RegsKept s t [aEng l 0x14]) ∧
    (∀ k cell, engRuns s l = true → s.power.entering = false → liveStops s l = false → dispChoice s l = some (k, c) →
      iq s l k = [cell] → iq s l (1 - k) = [] → isStale s (cellDeadline s cell) = true →
      ∃ t, exec (.dispatch l) s = .next t ∧ iq t l k = [] ∧ getReg t (aEng l 0x1C) = satAdd (getReg s (aEng l 0x1C)) 1 ∧
        flag t (aEng l 0x04) 12 = true ∧ (∀ j i, ctx t j i = ctx s j i) ∧
        t = withEvents { s with engs := t.engs, cells := (releaseRef cell s).cells } t ∧ RegsKeptE s t [aEng l 0x04, aEng l 0x1C]) ∧
    (∀ cell, engRuns s l = true → (ctx s l c).held = some cell → (ctx s l c).exl = true → (ctx s l c).st = .run →
      ∃ t, exec (.budgetExpiry l c) s = .next t ∧ (ctx t l c).held = none ∧ (ctx t l c).pc = (ctx s l c).pc ∧
        (ctx t l c).st = .run ∧ (ctx t l c).exl = true ∧ (ctx t l c).cause = (ctx s l c).cause ∧ OnlyCtx l c 0 s t ∧
        getReg t (aEng l 0x20) = satAdd (getReg s (aEng l 0x20)) 1 ∧ flag t (aEng l 0x04) 8 = true ∧
        t = withEvents { s with engs := t.engs, cells := (releaseRef cell s).cells } t ∧ RegsKeptE s t [aEng l 0x20, aEng l 0x04]) ∧
    (∀ cell, engRuns s l = true → (ctx s l c).held = some cell → (ctx s l c).exl = false →
      ((ctx s l c).st = .run ∨ (ctx s l c).st = .block ∨ (ctx s l c).st = .wait) →
      ∃ t, exec (.budgetExpiry l c) s = .next t ∧ (ctx t l c).held = none ∧ (ctx t l c).cause = 6 ∧ (ctx t l c).exl = true ∧
        (ctx t l c).epc = (if (ctx s l c).st = .block then (ctx s l c).pc + 4 else (ctx s l c).pc) ∧
        (ctx t l c).pc = BitVec.ofNat 16 (getReg s (aCtx l c 0x0C)).toNat ∧
        (ctx t l c).st = (if (ctx s l c).st = .run then CtxState.run else .ready) ∧ (ctx t l c).wait = none ∧ (ctx t l c).blk = none ∧
        OnlyCtx l c 0 s t ∧ getReg t (aEng l 0x20) = satAdd (getReg s (aEng l 0x20)) 1 ∧ flag t (aEng l 0x04) 8 = true ∧
        t = withEvents { s with engs := t.engs, cells := (releaseRef cell s).cells } t ∧ RegsKeptE s t [aEng l 0x20, aEng l 0x04])

/-! ### The Fletrazar instructions -/

/-- R427, R433, R434, R456: an ALU instruction writes to gd the function of ga and gb that its row names, g0 stays zero, and nothing else
of the machine changes. A division by zero is excluded here (see ExceptionEntry). Completes: add, sub, and, or, xor, nor, sll, srl, sra,
slt, sltu, mul, mulh, mulhu, div, divu, rem, remu, min, max, minu, maxu, clz, popc. R435, R436: the immediate instructions, with the
18-bit immediate sign-extended; lui puts its 22 bits above ten zeros; a shift by an immediate shifts by AMT. Completes: addi, andi, ori,
xori, slti, lui, slli, srli, srai. A word of clz or popc whose gb field is not zero is no listed encoding. -/
def Obligations.AluResults : Prop :=
  (∀ (s : State) (l c : Nat) (gd ga gb : BitVec 4), let a := gv s l c ga; let b := gv s l c gb
     (∀ p ∈ [(0x001#14, Instr.add l c gd ga gb, a + b), (0x002, .sub l c gd ga gb, a - b), (0x003, .and l c gd ga gb, a &&& b),
         (0x004, .or l c gd ga gb, a ||| b), (0x005, .xor l c gd ga gb, a ^^^ b), (0x006, .nor l c gd ga gb, ~~~a &&& ~~~b),
         (0x007, .sll l c gd ga gb, wd (a.toNat * 2 ^ (b.toNat % 32))), (0x008, .srl l c gd ga gb, wd (a.toNat / 2 ^ (b.toNat % 32))),
         (0x009, .sra l c gd ga gb, BitVec.ofInt 32 (a.toInt / 2 ^ (b.toNat % 32))),
         (0x00A, .slt l c gd ga gb, if a.toInt < b.toInt then 1 else 0), (0x00B, .sltu l c gd ga gb, if a.toNat < b.toNat then 1 else 0),
         (0x00C, .mul l c gd ga gb, wd (a.toNat * b.toNat)), (0x00D, .mulh l c gd ga gb, BitVec.ofInt 32 (a.toInt * b.toInt / 2 ^ 32)),
         (0x00E, .mulhu l c gd ga gb, wd (a.toNat * b.toNat / 2 ^ 32)),
         (0x013, .min l c gd ga gb, BitVec.ofInt 32 (min a.toInt b.toInt)), (0x014, .max l c gd ga gb, BitVec.ofInt 32 (max a.toInt b.toInt)),
         (0x015, .minu l c gd ga gb, wd (min a.toNat b.toNat)), (0x016, .maxu l c gd ga gb, wd (max a.toNat b.toNat))],
       Fetches l c (encRR 0x00 gd ga gb p.1) s → ∃ t, exec p.2.1 s = .next t ∧ Wrote l c gd p.2.2 s t) ∧
     (b ≠ 0 → ∀ p ∈ [(0x00F#14, Instr.div l c gd ga gb, if a.toInt = -2 ^ 31 ∧ b.toInt = -1 then 0x7FFFFFFF#32
             else BitVec.ofInt 32 (a.toInt.tdiv b.toInt)),
         (0x010, .divu l c gd ga gb, wd (a.toNat / b.toNat)), (0x011, .rem l c gd ga gb, BitVec.ofInt 32 (a.toInt.tmod b.toInt)),
         (0x012, .remu l c gd ga gb, wd (a.toNat % b.toNat))],
       Fetches l c (encRR 0x00 gd ga gb p.1) s → ∃ t, exec p.2.1 s = .next t ∧ Wrote l c gd p.2.2 s t) ∧
     (Fetches l c (encRR 0x00 gd ga 0 0x017) s → ∃ t n, exec (.clz l c gd ga) s = .next t ∧ Wrote l c gd (wd n) s t ∧ n ≤ 32 ∧
       a.toNat < 2 ^ (32 - n) ∧ (n < 32 → 2 ^ (31 - n) ≤ a.toNat)) ∧
     (Fetches l c (encRR 0x00 gd ga 0 0x018) s → ∃ t, exec (.popc l c gd ga) s = .next t ∧
       Wrote l c gd (wd ((List.range 32).map (fun i => b2n (a.getLsbD i))).sum) s t) ∧
     (∀ fn ∈ [0x017#14, 0x018], gb ≠ 0 → fzLegal (encRR 0x00 gd ga gb fn) = false)) ∧
  (∀ (s : State) (l c : Nat) (gd ga : BitVec 4), let a := gv s l c ga
     (∀ (imm : BitVec 18), let m := BitVec.ofInt 32 imm.toInt
       (Fetches l c (encRI 0x01 gd ga imm) s → ∃ t, exec (.addi l c gd ga imm) s = .next t ∧ Wrote l c gd (a + m) s t) ∧
       (Fetches l c (encRI 0x02 gd ga imm) s → ∃ t, exec (.andi l c gd ga imm) s = .next t ∧ Wrote l c gd (a &&& m) s t) ∧
       (Fetches l c (encRI 0x03 gd ga imm) s → ∃ t, exec (.ori l c gd ga imm) s = .next t ∧ Wrote l c gd (a ||| m) s t) ∧
       (Fetches l c (encRI 0x04 gd ga imm) s → ∃ t, exec (.xori l c gd ga imm) s = .next t ∧ Wrote l c gd (a ^^^ m) s t) ∧
       (Fetches l c (encRI 0x07 gd ga imm) s → ∃ t, exec (.slti l c gd ga imm) s = .next t ∧
         Wrote l c gd (if a.toInt < imm.toInt then 1 else 0) s t)) ∧
     (∀ (imm : BitVec 22), Fetches l c (encLI 0x06 gd imm) s → ∃ t, exec (.lui l c gd imm) s = .next t ∧
       Wrote l c gd (wd (imm.toNat * 1024)) s t) ∧
     (∀ (amt : BitVec 5),
       (Fetches l c (encRI 0x05 gd ga (BitVec.ofNat 18 amt.toNat)) s → ∃ t, exec (.slli l c gd ga amt) s = .next t ∧
         Wrote l c gd (wd (a.toNat * 2 ^ amt.toNat)) s t) ∧
       (Fetches l c (encRI 0x05 gd ga (BitVec.ofNat 18 (32 + amt.toNat))) s → ∃ t, exec (.srli l c gd ga amt) s = .next t ∧
         Wrote l c gd (wd (a.toNat / 2 ^ amt.toNat)) s t) ∧
       (Fetches l c (encRI 0x05 gd ga (BitVec.ofNat 18 (64 + amt.toNat))) s → ∃ t, exec (.srai l c gd ga amt) s = .next t ∧
         Wrote l c gd (BitVec.ofInt 32 (a.toInt / 2 ^ amt.toNat)) s t)))

/-- R406, R407, R426, R434, R437, R443, R715: a word without a listed encoding raises ILLEGAL, a division by zero DIVZERO, a misaligned
access MISALIGN, an access outside the local view BUSERR, and an uncorrectable fetch BUSERR; trap raises TRAP with epc at the next
instruction. While st.EXL is 1 each is a double fault: the context halts with its CODE, and DFAULT and CNT_EXC say so. Completes:
reservedOpcode, trap. -/
def Obligations.ExceptionEntry : Prop :=
  ∀ (s : State) (l c : Nat), l < 16 → let pc := (ctx s l c).pc
    (∀ w, fzLegal w = false → Fetches l c w s → Raises l c 1 pc (.reservedOpcode l c w) s) ∧
    (∀ gd ga gb : BitVec 4, gv s l c gb = 0 →
      ∀ p ∈ [(0x00F#14, Instr.div l c gd ga gb), (0x010, .divu l c gd ga gb), (0x011, .rem l c gd ga gb), (0x012, .remu l c gd ga gb)],
        Fetches l c (encRR 0x00 gd ga gb p.1) s → Raises l c 5 pc p.2 s) ∧
    (∀ (r ga : BitVec 4) (imm : BitVec 18),
      ∀ p ∈ [(0x08#6, 4, Instr.lw l c r ga imm), (0x09, 2, .lh l c r ga imm), (0x0A, 2, .lhu l c r ga imm), (0x0B, 1, .lb l c r ga imm),
          (0x0C, 1, .lbu l c r ga imm), (0x0D, 4, .sw l c r ga imm), (0x0E, 2, .sh l c r ga imm), (0x0F, 1, .sb l c r ga imm)],
        Fetches l c (encRI p.1 r ga imm) s →
        (effAddr s l c ga imm % p.2.1 ≠ 0 → Raises l c 2 pc p.2.2 s) ∧
        (effAddr s l c ga imm % p.2.1 = 0 → localView l c (effAddr s l c ga imm) = none → Raises l c 3 pc p.2.2 s)) ∧
    (∀ (gd ga : BitVec 4) (imm : BitVec 18), let x := (gv s l c ga + imm.signExtend 32).toNat
      Fetches l c (encRI 0x17 gd ga imm) s → (x % 4 ≠ 0 → Raises l c 2 pc (.jalr l c gd ga imm) s) ∧
        (x % 4 = 0 → 2 ^ 16 ≤ x → Raises l c 3 pc (.jalr l c gd ga imm) s)) ∧
    (∀ w f, issues l c w s = true → (fetch l c s).1 = true → issue l c w f s = .next (exc l c 3 (fetch l c s).2)) ∧
    (issues l c (encSys 0 0 0 0 0) s = true → (fetch l c s).1 = true → (ctx s l c).exl = false →
      ∃ t, exec (.nop l c) s = .next t ∧ (ctx t l c).cause = 3 ∧ (ctx t l c).exl = true ∧ (ctx t l c).epc = pc ∧
        (ctx t l c).pc = BitVec.ofNat 16 (getReg s (aCtx l c 0x0C)).toNat) ∧
    (∀ k, Fetches l c (encSys 0 0 0 0x01 k) s → Raises l c 7 (pc + 4) (.trap l c k) s) ∧
    (Fetches l c (encSys 0 0 0 0x02 0) s → (ctx s l c).exl = false → Raises l c 1 pc (.eret l c) s)

/-- R402, R403, R437–R440, of an aligned access to words without a stored error: loads from the memories of the own engine, from cell
windows and from BUDGET_LEFT give the little-endian value, sign- or zero-extended; stores to the memories write the low bytes of the
register and nothing else; a cell window is written in the same way. A load or store of the sentence store blocks the context until its
response, and with no earlier request in the gate the switch makes it at once. Completes: lw, lh, lhu, lb, lbu, sw, sh, sb. -/
def Obligations.LoadsAndStores : Prop :=
  ∀ (s : State) (l c : Nat) (r ga : BitVec 4) (imm : BitVec 18),
    let ea := effAddr s l c ga imm; let far := ea - 0x10000000 + 0x01000000
    (∀ p ∈ [(0x08#6, 4, false, Instr.lw l c r ga imm), (0x09, 2, true, .lh l c r ga imm), (0x0A, 2, false, .lhu l c r ga imm),
        (0x0B, 1, true, .lb l c r ga imm), (0x0C, 1, false, .lbu l c r ga imm)], let n := p.2.1; let sg := p.2.2.1
      Fetches l c (encRI p.1 r ga imm) s → ea % n = 0 →
      (ea < 0x20000 → eccOf s ((aEngMem l + ea) / 8) = 0 → ∃ t, exec p.2.2.2 s = .next t ∧ Wrote l c r (extend sg n (memNat s (aEngMem l + ea) n)) s t) ∧
      (0x20000 ≤ ea → ea < 0x20080 → eccOf s ((aCtxWin l c + (ea - 0x20000)) / 8) = 0 → ∃ t, exec p.2.2.2 s = .next t ∧ Wrote l c r (extend sg n (winNat (ctx s l c) (ea - 0x20000) n)) s t) ∧
      (∀ k < 8, 0x20400 + 0x80 * k ≤ ea → ea < 0x20480 + 0x80 * k → eccOf s ((aCtxWin l k + (ea - (0x20400 + 0x80 * k))) / 8) = 0 →
        ∃ t, exec p.2.2.2 s = .next t ∧ Wrote l c r (extend sg n (winNat (ctx s l k) (ea - (0x20400 + 0x80 * k)) n)) s t) ∧
      (0x30200 ≤ ea → ea < 0x30204 →
        ∃ t, exec p.2.2.2 s = .next t ∧ Wrote l c r (extend sg n (lanes (wd (budgetLeft (ctx s l c))) (ea % 4) n)) s t) ∧
      (0x10000000 ≤ ea → ea < 0x10400000 → (eng s l).gate = [] → eccOf s (far / 8) = 0 →
        ∃ t, exec p.2.2.2 s = .next t ∧ Blocked l c { regs := [(r.toNat, extend sg n (memNat s far n))] } s t ∧
          t = { s with engs := t.engs })) ∧
    (∀ p ∈ [(0x0D#6, 4, Instr.sw l c r ga imm), (0x0E, 2, .sh l c r ga imm), (0x0F, 1, .sb l c r ga imm)], let n := p.2.1
      Fetches l c (encRI p.1 r ga imm) s → ea % n = 0 →
      (ea < 0x20000 → ∃ t, exec p.2.2 s = .next t ∧ (ctx t l c).pc = (ctx s l c).pc + 4 ∧ (ctx t l c).st = .run ∧
        (∀ j, gReg (ctx t l c) j = gReg (ctx s l c) j) ∧
        (∀ a, memByte t a = if aEngMem l + ea ≤ a ∧ a < aEngMem l + ea + n
          then BitVec.ofNat 8 ((gv s l c r).toNat / 256 ^ (a - (aEngMem l + ea))) else memByte s a) ∧
        t = { s with engs := t.engs, mem := t.mem, ecc := t.ecc } ∧
        (0x10000 ≤ ea → CtxWent l c .run ((ctx s l c).pc + 4) (gReg (ctx s l c)) s t)) ∧
      (0x20000 ≤ ea → ea < 0x20080 → ∃ t, exec p.2.2 s = .next t ∧ (ctx t l c).pc = (ctx s l c).pc + 4 ∧
        (∀ j, gReg (ctx t l c) j = gReg (ctx s l c) j) ∧
        (∀ a, winByte (ctx t l c) a = if ea - 0x20000 ≤ a ∧ a < ea - 0x20000 + n
          then BitVec.ofNat 8 ((gv s l c r).toNat / 256 ^ (a - (ea - 0x20000))) else winByte (ctx s l c) a) ∧
        OnlyCtx l c 0 s t ∧ t = { s with engs := t.engs, ecc := t.ecc }) ∧
      (0x10000000 ≤ ea → ea < 0x10400000 → (eng s l).gate = [] →
        ∃ t, exec p.2.2 s = .next t ∧ Blocked l c {} s t ∧
          (∀ a, memByte t a = if far ≤ a ∧ a < far + n then BitVec.ofNat 8 ((gv s l c r).toNat / 256 ^ (a - far)) else memByte s a) ∧
          t = { s with engs := t.engs, mem := t.mem, ecc := t.ecc }))

/-- R441–R443: a branch goes to bits 15:0 of A + 4 × its offset when its condition holds, and on otherwise; jal and jalr link the next
instruction in gd; nothing else changes. Completes: beq, bne, blt, bge, bltu, bgeu, jal, jalr. -/
def Obligations.BranchesAndJumps : Prop :=
  ∀ (s : State) (l c : Nat), let pc := (ctx s l c).pc
    (∀ (ga gb : BitVec 4) (off : BitVec 18), let a := gv s l c ga; let b := gv s l c gb
      ∀ p ∈ [(0x10#6, Instr.beq l c ga gb off, decide (a = b)), (0x11, .bne l c ga gb off, decide (a ≠ b)),
        (0x12, .blt l c ga gb off, decide (a.toInt < b.toInt)),
        (0x13, .bge l c ga gb off, decide (b.toInt ≤ a.toInt)), (0x14, .bltu l c ga gb off, decide (a.toNat < b.toNat)),
        (0x15, .bgeu l c ga gb off, decide (b.toNat ≤ a.toNat))],
      Fetches l c (encBR p.1 ga gb off) s → ∃ t, exec p.2.1 s = .next t ∧ t = { s with engs := t.engs } ∧
        (p.2.2 = true → CtxWent l c .run (BitVec.ofInt 16 (pc.toNat + 4 * off.toInt)) (gReg (ctx s l c)) s t) ∧
        (p.2.2 = false → CtxWent l c .run (pc + 4) (gReg (ctx s l c)) s t)) ∧
    (∀ (gd : BitVec 4) (imm : BitVec 22), Fetches l c (encLI 0x16 gd imm) s → ∃ t, exec (.jal l c gd imm) s = .next t ∧
      CtxWent l c .run (BitVec.ofInt 16 (pc.toNat + 4 * imm.toInt)) (setG s l c gd ((pc + 4).setWidth 32)) s t ∧ t = { s with engs := t.engs }) ∧
    (∀ (gd ga : BitVec 4) (imm : BitVec 18), let x := gv s l c ga + imm.signExtend 32
      Fetches l c (encRI 0x17 gd ga imm) s → x.toNat % 4 = 0 → x.toNat < 2 ^ 16 → ∃ t, exec (.jalr l c gd ga imm) s = .next t ∧
        CtxWent l c .run (BitVec.ofNat 16 x.toNat) (setG s l c gd ((pc + 4).setWidth 32)) s t ∧ t = { s with engs := t.engs })

/-- R386, R398, R399, R404, R405, R414, R429, R444, R445, R482: the sys functions. A halt ends the handler; eret restores pc from epc and
clears EXL; ifence makes every stored word visible to the fetch; mfs and mts read and write the special registers; budget and bleft set
and read the remaining budget; cstart, cstop and cstat act on a context of the own engine, and a cstop drops and counts a sentence held. A
budget of 0 or above BUDGET, and a context number above 7, raise FIELD. Completes: nop, eret, halt, ifence, mfs, mts, budget, bleft,
cstart, cstop, cstat. -/
def Obligations.SystemInstructions : Prop :=
  ∀ (s : State) (l c : Nat), let v := ctx s l c; let same := gReg v
    (Fetches l c (encSys 0 0 0 0x00 0) s → ∃ t, exec (.nop l c) s = .next t ∧ CtxWent l c .run (v.pc + 4) same s t ∧
      t = { s with engs := t.engs }) ∧
    (Fetches l c (encSys 0 0 0 0x02 0) s → v.exl = true → ∃ t, exec (.eret l c) s = .next t ∧
      ctx t l c = bounded s l c { v with pc := v.epc, exl := false } ∧ OnlyCtx l c 0 s t ∧ t = { s with engs := t.engs }) ∧
    (Fetches l c (encSys 0 0 0 0x03 0) s → ∃ t, exec (.halt l c) s = .next t ∧
      ctx t l c = bounded s l c { v with st := .halt, pc := v.pc + 4, held := none, budget := if v.held = none then v.budget else 0 } ∧
      OnlyCtx l c 0 s t ∧ t = { s with engs := t.engs, cells := t.cells } ∧
      t.cells = (match v.held with
        | some k => (releaseRef k s).cells
        | none => s.cells)) ∧
    (Fetches l c (encSys 0 0 0 0x04 0) s → ∃ t, exec (.ifence l c) s = .next t ∧ (ctx t l c).stale = [] ∧ (ctx t l c).pc = v.pc + 4 ∧
      ctx t l c = { ctx t l c with g := v.g, st := v.st, held := v.held, win := v.win, exl := v.exl, nopre := v.nopre, epc := v.epc } ∧
      OnlyCtx l c 0 s t ∧ t = { s with engs := t.engs }) ∧
    (∀ (gd : BitVec 4) (n : BitVec 2), Fetches l c (encSys gd 0 (n.setWidth 4) 0x05 0) s →
      ∃ t, exec (.mfs l c gd n) s = .next t ∧
        Wrote l c gd (if n = 0 then wd (b2n v.nopre * 8 + b2n v.hi * 4 + b2n v.held.isSome * 2 + b2n v.exl)
          else if n = 1 then wd v.cause else if n = 2 then wd v.epc.toNat else wd (16 * l + c)) s t) ∧
    (∀ (ga : BitVec 4) (n : BitVec 2), Fetches l c (encSys 0 ga (n.setWidth 4) 0x06 0) s →
      ∃ t, exec (.mts l c ga n) s = .next t ∧ (ctx t l c).pc = v.pc + 4 ∧ (∀ r, gReg (ctx t l c) r = same r) ∧
        (ctx t l c).nopre = (if n = 0 then bit (gv s l c ga) 3 else v.nopre) ∧
        (ctx t l c).exl = (if n = 0 then bit (gv s l c ga) 0 else v.exl) ∧
        (ctx t l c).epc = (if n = 2 then BitVec.ofNat 16 ((gv s l c ga).toNat / 4 * 4) else v.epc) ∧ (ctx t l c).cause = v.cause ∧
        (ctx t l c).st = .run ∧ (ctx t l c).held = v.held ∧ OnlyCtx l c 0 s t ∧ t = { s with engs := t.engs }) ∧
    (∀ ga : BitVec 4, Fetches l c (encSys 0 ga 0 0x10 0) s → gv s l c ga ≠ 0 → (gv s l c ga).toNat ≤ fld s (aEng l 0x00) 27 8 →
      ∃ t, exec (.budget l c ga) s = .next t ∧ (ctx t l c).budget = (if v.held = none then v.budget else 5 * (gv s l c ga).toNat) ∧
        (ctx t l c).pc = v.pc + 4 ∧ (∀ r, gReg (ctx t l c) r = same r) ∧ (ctx t l c).held = v.held ∧ OnlyCtx l c 0 s t ∧
        t = { s with engs := t.engs }) ∧
    (∀ gd : BitVec 4, Fetches l c (encSys gd 0 0 0x11 0) s → ∃ t, exec (.bleft l c gd) s = .next t ∧
      Wrote l c gd (wd (if v.held = none then 0 else (v.budget + 4) / 5)) s t) ∧
    (∀ (gd ga gb : BitVec 4) (k : Nat), k < 8 → gv s l c ga = wd k → (gv s l c gb).toNat % 4 = 0 → (gv s l c gb).toNat < 2 ^ 16 →
      Fetches l c (encSys gd ga gb 0x12 0) s →
      (ctxStartable s l k = true → ∃ t, exec (.cstart l c gd ga gb) s = .next t ∧
        CtxAt l c .run (v.pc + 4) (setG s l c gd 0) s t ∧
        ctx t l k = bounded s l k { ctx s l k with st := .ready, pc := BitVec.ofNat 16 (gv s l c gb).toNat, nopre := false, exl := false,
                                                   stale := [] } ∧
        (∀ j i, ¬ (j = l ∧ (i = c ∨ i = k)) → ctx t j i = ctx s j i) ∧ t = { s with engs := t.engs }) ∧
      (ctxStartable s l k = false → l < 16 → ∃ t, exec (.cstart l c gd ga gb) s = .next t ∧ CtxWent l c .run (v.pc + 4) (setG s l c gd 1) s t ∧
        flag t (aEng l 0x04) 16 = true ∧ t = withEvents { s with engs := t.engs } t ∧ RegsKeptE s t [aEng l 0x04])) ∧
    (∀ (ga : BitVec 4) (k : Nat), k < 8 → gv s l c ga = wd k → Fetches l c (encSys 0 ga 0 0x13 0) s → (ctx s l k).held = none →
      ∃ t, exec (.cstop l c ga) s = .next t ∧ (ctx t l k).st = .idle ∧ (ctx t l k).wait = none ∧ (ctx t l k).blk = none ∧
        (ctx t l c).pc = v.pc + 4 ∧ (k ≠ c → (ctx t l c).st = .run ∧
          (ctx t l k).orphans = (ctx s l k).orphans + b2n (respDue (ctx s l k)) ∧ (ctx t l k).pc = (ctx s l k).pc) ∧
        (∀ j i, ¬ (j = l ∧ (i = c ∨ i = k)) → ctx t j i = ctx s j i) ∧ t = { s with engs := t.engs }) ∧
    (∀ (ga : BitVec 4) (k h : Nat), k < 8 → k ≠ c → gv s l c ga = wd k → Fetches l c (encSys 0 ga 0 0x13 0) s → (ctx s l k).held = some h →
      ∃ t, exec (.cstop l c ga) s = .next t ∧ (ctx t l k).st = .idle ∧ (ctx t l k).held = none ∧ (ctx t l c).pc = v.pc + 4 ∧
        (ctx t l c).st = .run ∧ getReg t (aEng l 0x28) = satAdd (getReg s (aEng l 0x28)) 1 ∧
        (∀ j i, ¬ (j = l ∧ (i = c ∨ i = k)) → ctx t j i = ctx s j i) ∧
        t = { s with regs := t.regs, engs := t.engs, cells := (releaseRef h s).cells } ∧ RegsKept s t [aEng l 0x28]) ∧
    (∀ (gd ga : BitVec 4) (k : Nat), k < 8 → gv s l c ga = wd k → Fetches l c (encSys gd ga 0 0x14 0) s →
      ∃ t, exec (.cstat l c gd ga) s = .next t ∧ Wrote l c gd (ctxStatWord s l k) s t) ∧
    (∀ gd ga gb : BitVec 4, l < 16 →
      (Fetches l c (encSys 0 ga 0 0x10 0) s → (gv s l c ga = 0 ∨ fld s (aEng l 0x00) 27 8 < (gv s l c ga).toNat) →
        Raises l c 4 v.pc (.budget l c ga) s) ∧
      (7 < (gv s l c ga).toNat →
        (Fetches l c (encSys gd ga gb 0x12 0) s → Raises l c 4 v.pc (.cstart l c gd ga gb) s) ∧
        (Fetches l c (encSys 0 ga 0 0x13 0) s → Raises l c 4 v.pc (.cstop l c ga) s) ∧
        (Fetches l c (encSys gd ga 0 0x14 0) s → Raises l c 4 v.pc (.cstat l c gd ga) s)))

/-- R386, R388, R401, R403, R446, R480, of an awake node with nothing left in the engine's gate: a response that has arrived writes the
registers, the memory and the cell window of the blocked instruction, in that case the pc moves on, and the context is READY; an error
response makes it take its exception; one due to an abandoned request is discarded; a fence that waits for nothing more gives the number
of failures and clears it. A context whose response is not there, or whose fence still waits, stays blocked, and one that posted a request
into a full gate waits until it stands in the gate. Completes: responseArrival. -/
def Obligations.ResponseArrivals : Prop :=
  ∀ (s : State) (l c : Nat) (b : Blk), l < 16 → c < 8 → awake s = true →
    (gateDrain l s = s → (ctx s l c).orphans = 0 → (ctx s l c).blk = some b →
      ((b.space = true ∧ hasEntered s l c b.id = false) ∨ (b.fence = none ∧ b.res = none) ∨
        ∃ gd seqs, b.fence = some (gd, seqs) ∧ ∃ x ∈ incomplete s, isEngPost l x.owner = true ∧ x.tseq ∈ seqs) →
      exec (.responseArrival l c) s = .next s) ∧
    ((eng s l).gate = [] →
    (∀ n, (ctx s l c).orphans = n + 1 → ∃ t, exec (.responseArrival l c) s = .next t ∧ ctx t l c = { ctx s l c with orphans := n } ∧
      OnlyCtx l c 0 s t ∧ t = { s with engs := t.engs }) ∧
    ((ctx s l c).orphans = 0 → (ctx s l c).blk = some b → b.fence = none →
      (∀ r, b.res = some r → r.exc = none →
        let g := r.regs.foldl (fun g p i => if i = p.1 ∧ i ≠ 0 then p.2 else g i) (gReg (ctx s l c))
        (r.win = none → r.mem = [] → ∃ t, exec (.responseArrival l c) s = .next t ∧
          CtxAt l c .ready ((ctx s l c).pc + 4) g s t ∧ (ctx t l c).blk = none ∧
          OnlyCtx l c 0 s t ∧ t = { s with engs := t.engs }) ∧
        (∀ a bs, r.win = none → r.mem = [(a, bs)] → ∃ t, exec (.responseArrival l c) s = .next t ∧
          CtxAt l c .ready ((ctx s l c).pc + 4) g s t ∧ (ctx t l c).blk = none ∧
          (∀ x, memByte t x = if a ≤ x ∧ x < a + bs.length then bs.getD (x - a) 0 else memByte s x) ∧
          OnlyCtx l c 0 s t ∧ t = { s with engs := t.engs, mem := t.mem, ecc := t.ecc }) ∧
        (∀ bs, r.win = some bs → r.mem = [] → ∃ t, exec (.responseArrival l c) s = .next t ∧
          (∀ i < 128, winByte (ctx t l c) i = bs.getD i 0) ∧ (∀ i, gReg (ctx t l c) i = g i) ∧ (ctx t l c).st = .ready ∧
          (ctx t l c).pc = (ctx s l c).pc + 4 ∧ (ctx t l c).blk = none ∧ OnlyCtx l c 0 s t ∧ t = { s with engs := t.engs, ecc := t.ecc })) ∧
      (∀ r code, b.res = some r → r.exc = some code → (ctx s l c).exl = false →
        ∃ t, exec (.responseArrival l c) s = .next t ∧ Trapped l c code (ctx s l c).pc .ready s t)) ∧
    (∀ gd seqs, (ctx s l c).orphans = 0 → (ctx s l c).blk = some b → b.fence = some (gd, seqs) →
      (∀ x ∈ incomplete s, ¬ (isEngPost l x.owner = true ∧ x.tseq ∈ seqs)) →
      ∃ t, exec (.responseArrival l c) s = .next t ∧
        (∀ i, gReg (ctx t l c) i = if i = gd ∧ i ≠ 0 then wd (eng s l).fails else gReg (ctx s l c) i) ∧ (ctx t l c).st = .ready ∧
        (ctx t l c).pc = (ctx s l c).pc + 4 ∧ (ctx t l c).blk = none ∧ (eng t l).fails = 0 ∧
        (∀ j i, ¬ (j = l ∧ i = c) → ctx t j i = ctx s j i) ∧ t = { s with engs := t.engs }))

/-- R458, R461, R462, with no stored error and no earlier request in the gate: the instructions on the text of the cell window: the
position word, a byte of the text, the number of fields, a field or the whole text copied to data memory, a TAG parameter, and the
comparison with a string. One that reads beyond byte 95 blocks and gives its result in the response. A field number that is none, and a
text that R461 excludes, raise FIELD. Completes: fpos, fch, fcnt, fcpy, ftag, fmatch. The corners of texts and fields are the model's
readings (log entry 60). -/
def Obligations.FieldInstructions : Prop :=
  ∀ (s : State) (l c : Nat) (gd ga : BitVec 4), (∀ w, eccOf s w = 0) → (eng s l).gate = [] →
    let v := ctx s l c; let txt := txText s v; let tag := txTag v
    (∀ sel : BitVec 8, l < 16 → Fetches l c (encFX 0x18 gd ga sel 0 0) s →
      (fieldNo s l c ga sel = none ∨ ∃ k, fieldNo s l c ga sel = some k ∧ txBad v (fieldOf txt tag k).2 = true) →
      Raises l c 4 v.pc (.fpos l c gd ga sel) s) ∧
    (∀ (sel : BitVec 8) (k : Nat), fieldNo s l c ga sel = some k → let f := fieldOf txt tag k
      txBad v f.2 = false →
      (Fetches l c (encFX 0x18 gd ga sel 0 0) s → ∃ t, exec (.fpos l c gd ga sel) s = .next t ∧
        TextGave l c f.2 gd (match f.1 with
          | some (st, n) => wd (65536 * st + n)
          | none => 0xFFFFFFFF#32) s t) ∧
      (∀ str, Fetches l c (encFX 0x18 gd ga sel 5 0) s → sel ≠ 0xFF#8 → cstr s l (gv s l c ga).toNat = some str →
        ∃ t, exec (.fmatch l c gd ga sel) s = .next t ∧
          TextGave l c f.2 gd (if f.1.map (fun p => (txt.drop p.1).take p.2) = some str then 1 else 0) s t) ∧
      (Fetches l c (encFX 0x18 gd ga sel 3 0) s → sel ≠ 0xFF#8 →
        (f.1 = none → ∃ t, exec (.fcpy l c gd ga sel false) s = .next t ∧ TextGave l c f.2 gd 0xFFFFFFFF#32 s t) ∧
        (∀ st n, f.1 = some (st, n) → inDmem (gv s l c ga).toNat (fieldBytes txt (st, n)).length = true → 96 < f.2 →
          ∃ t, exec (.fcpy l c gd ga sel false) s = .next t ∧ t = { s with engs := t.engs } ∧
            Blocked l c { regs := [(gd.toNat, wd (fieldBytes txt (st, n)).length)],
                          mem := [(aEngMem l + (gv s l c ga).toNat, fieldBytes txt (st, n))] } s t) ∧
        (∀ st n, f.1 = some (st, n) → inDmem (gv s l c ga).toNat (fieldBytes txt (st, n)).length = true → f.2 ≤ 96 →
          ∃ t, exec (.fcpy l c gd ga sel false) s = .next t ∧
            CtxWent l c .run (v.pc + 4) (setG s l c gd (wd (fieldBytes txt (st, n)).length)) s t ∧
            (let a := aEngMem l + (gv s l c ga).toNat
             let bs := fieldBytes txt (st, n)
             ∀ x, memByte t x = if a ≤ x ∧ x < a + bs.length then bs.getD (x - a) 0 else memByte s x) ∧
            t = { s with engs := t.engs, mem := t.mem, ecc := t.ecc }))) ∧
    (∀ (sel : BitVec 8), let i := (gv s l c ga).toNat + sel.toNat
      Fetches l c (encFX 0x18 gd ga sel 1 0) s → i < txLen v → txBad v (i + 1) = false →
      ∃ t, exec (.fch l c gd ga sel) s = .next t ∧ TextGave l c (i + 1) gd (wd (txt.getD i 0).toNat) s t) ∧
    (let e := if tag < txLen v then (commaCount (txt.drop tag) tag).2 else 0
     Fetches l c (encFX 0x18 gd ga 0 2 0) s → txBad v e = false →
      ∃ t, exec (.fcnt l c gd ga) s = .next t ∧
        TextGave l c e gd (wd (((txt.drop tag).takeWhile (fun b => decide (b ≠ 0x2A#8))).count 0x2C#8 + 1)) s t) ∧
    (Fetches l c (encFX 0x18 gd ga 0 3 1) s → 96 < txLen v → txBad v (txLen v) = false → inDmem (gv s l c ga).toNat (txLen v) = true →
      ∃ t, exec (.fcpy l c gd ga 0 true) s = .next t ∧ t = { s with engs := t.engs } ∧
        Blocked l c { regs := [(gd.toNat, wd (txLen v))], mem := [(aEngMem l + (gv s l c ga).toNat, txt)] } s t) ∧
    (Fetches l c (encFX 0x18 gd ga 0 3 1) s → txLen v ≤ 96 → tag ≤ txLen v → inDmem (gv s l c ga).toNat (txLen v) = true →
      ∃ t, exec (.fcpy l c gd ga 0 true) s = .next t ∧ CtxWent l c .run (v.pc + 4) (setG s l c gd (wd (txLen v))) s t ∧
        (let a := aEngMem l + (gv s l c ga).toNat
         ∀ x, memByte t x = if a ≤ x ∧ x < a + txLen v then txt.getD (x - a) 0 else memByte s x) ∧
        t = { s with engs := t.engs, mem := t.mem, ecc := t.ecc }) ∧
    (∀ (x b : BitVec 8) (r : List Byte), Fetches l c (encFX 0x18 gd ga x 4 0) s → txt.take tag = b :: r →
      txBad v (tagScan x b r 1).2 = false →
      ∃ t, exec (.ftag l c gd ga x) s = .next t ∧ TextGave l c (tagScan x b r 1).2 gd (posWord (tagScan x b r 1).1) s t) ∧
    (∀ (text : List Byte) (tg k st n e : Nat), fieldOf text tg (k + 1) = (some (st, n), e) →
      tg ≤ st ∧ ((text.drop tg).take (st - tg)).count 0x2C#8 = k + 1 ∧ 0x2A#8 ∉ (text.drop tg).take (st - tg) ∧
      (∀ i < n, text.getD (st + i) 0 ≠ 0x2C#8 ∧ text.getD (st + i) 0 ≠ 0x2A#8) ∧ st + n ≤ text.length)

/-- R229, R463–R466, with no stored error and no earlier request in the gate: numbers out of fields and into text, checksums, and the
classes of a character. A decimal field is scaled by 10^S and rounded to nearest, halves away from zero; an empty one gives 8000_0000h; a
field that is no number raises FIELD, at once or in the response of a read beyond byte 95. Completes: ndec, nhex, nfmt, nhexf, cxor,
cxora, chex, cunhex, cclass. "5." and ".5" count as decimal fields (log entry 60). -/
def Obligations.NumbersAndCharacters : Prop :=
  ∀ (s : State) (l c : Nat) (gd ga : BitVec 4), (∀ w, eccOf s w = 0) → (eng s l).gate = [] →
    let v := ctx s l c; let txt := txText s v; let a := gv s l c ga
    (∀ (sel : BitVec 8) (k : Nat), fieldNo s l c ga sel = some k → let f := fieldOf txt (txTag v) k
      txBad v f.2 = false →
      (∀ (sc : BitVec 6) (w : Word), sc.toNat ≤ 9 → ndecVal ((f.1.map (fieldBytes txt)).getD []) sc.toNat = some w →
        Fetches l c (encFX 0x19 gd ga sel 0 sc) s → ∃ t, exec (.ndec l c gd ga sel sc) s = .next t ∧ TextGave l c f.2 gd w s t) ∧
      (∀ w : Word, nhexVal ((f.1.map (fieldBytes txt)).getD []) = some w →
        Fetches l c (encFX 0x19 gd ga sel 1 0) s → ∃ t, exec (.nhex l c gd ga sel) s = .next t ∧ TextGave l c f.2 gd w s t) ∧
      (∀ sc : BitVec 6, sc.toNat ≤ 9 →
        ∀ e ∈ [(Instr.ndec l c gd ga sel sc, encFX 0x19 gd ga sel 0 sc, ndecVal ((f.1.map (fieldBytes txt)).getD []) sc.toNat),
            (.nhex l c gd ga sel, encFX 0x19 gd ga sel 1 0, nhexVal ((f.1.map (fieldBytes txt)).getD []))],
          Fetches l c e.2.1 s → e.2.2 = none →
          (f.2 ≤ 96 → l < 16 → Raises l c 4 v.pc e.1 s) ∧
          (96 < f.2 → ∃ t, exec e.1 s = .next t ∧ Blocked l c { exc := some 4 } s t ∧ t = { s with engs := t.engs }))) ∧
    (∀ (bs : List Byte) (w d sc : Nat), decParse bs = some (w, d) → bs.length ≤ 23 → scaleDec w d sc ≤ 0x7FFFFFFF →
      ndecVal (0x2D#8 :: bs) sc = some (0 - wd (scaleDec w d sc)) ∧ ndecVal (0x2B#8 :: bs) sc = some (wd (scaleDec w d sc)) ∧
      (sc < d → 2 * w < (2 * scaleDec w d sc + 1) * 10 ^ (d - sc) ∧ (2 * scaleDec w d sc - 1) * 10 ^ (d - sc) ≤ 2 * w)) ∧
    (∀ (wid d : BitVec 8) (sc : BitVec 6), wid.toNat ≤ 10 → sc.toNat ≤ 9 → 1 ≤ d.toNat → d.toNat ≤ 8 →
      ∀ e ∈ [(Instr.nfmt l c gd ga wid sc, encFX 0x19 gd ga wid 2 sc, nfmtText a sc.toNat wid.toNat),
          (.nhexf l c gd ga d, encFX 0x19 gd ga d 3 0, fixDigits 16 d.toNat a.toNat)], let bs := e.2.2
      Fetches l c e.2.1 s → inDmem (gv s l c gd).toNat bs.length = true →
      ∃ t, exec e.1 s = .next t ∧ CtxWent l c .run (v.pc + 4) (setG s l c gd (gv s l c gd + wd bs.length)) s t ∧
        (let p := aEngMem l + (gv s l c gd).toNat
         ∀ x, memByte t x = if p ≤ x ∧ x < p + bs.length then bs.getD (x - p) 0 else memByte s x) ∧
        t = { s with engs := t.engs, mem := t.mem, ecc := t.ecc }) ∧
    (∀ n : BitVec 8, inDmem a.toNat n.toNat = true → let x := xorBytes (memBytes s (aEngMem l + a.toNat) n.toNat)
      (Fetches l c (encFX 0x1A gd ga n 0 0) s → ∃ t, exec (.cxor l c gd ga n) s = .next t ∧ Wrote l c gd (wd x) s t) ∧
      (Fetches l c (encFX 0x1A gd ga n 0 1) s → ∃ t, exec (.cxora l c gd ga n) s = .next t ∧ Wrote l c gd (gv s l c gd ^^^ wd x) s t)) ∧
    (Fetches l c (encFX 0x1A gd ga 0 1 0) s → ∃ t, exec (.chex l c gd ga) s = .next t ∧
      Wrote l c gd (wd ((hexDigit (a.toNat / 16 % 16)).toNat + 256 * (hexDigit (a.toNat % 16)).toNat)) s t) ∧
    (Fetches l c (encFX 0x1A gd ga 0 2 0) s →
      (∀ h o, hexValue (BitVec.ofNat 8 a.toNat) = some h → hexValue (BitVec.ofNat 8 (a.toNat / 256)) = some o →
        ∃ t, exec (.cunhex l c gd ga) s = .next t ∧ Wrote l c gd (wd (16 * h + o)) s t) ∧
      (hexValue (BitVec.ofNat 8 a.toNat) = none ∨ hexValue (BitVec.ofNat 8 (a.toNat / 256)) = none →
        ∃ t, exec (.cunhex l c gd ga) s = .next t ∧ Wrote l c gd 0xFFFFFFFF#32 s t)) ∧
    (Fetches l c (encFX 0x1A gd ga 0 3 0) s → ∃ t w, exec (.cclass l c gd ga) s = .next t ∧ Wrote l c gd w s t ∧ w.toNat < 128 ∧
      let ch := a.toNat % 512
      (bit w 0 = isOpening ch ∧ bit w 1 = isTagDelim ch ∧ bit w 2 = isAddrChar ch ∧ bit w 3 = isHexChar ch ∧ bit w 4 = isDataChar ch ∧
       bit w 5 = [0x0D, 0x0A, 0x21, 0x24, 0x2A, 0x2C, 0x5C, 0x5E, 0x7E, 0x7F].contains ch ∧
       (bit w 6 = true ↔ (ch ≤ 0x1F ∧ ch ≠ 0x0D ∧ ch ≠ 0x0A) ∨ 0x7F ≤ ch)))

/-- R466–R471, with no stored error and no earlier request in the gate: an emit, efwd, echain or emsg blocks its context, and the status
of R467 is what the response writes to gd; LENGTH and FORMAT have no other effect, and the effect of the others is that of committing
their text as a sentence of source 272 + L. An efwd without a held sentence and an echain of a cell beyond the store raise FIELD; an
echain of cells the engine does not own gives FIELD in the response. A message goes to a message FIFO of the own node or out as a TUN
frame. Completes: emit, efwd, echain, emsg. The order of the checks is the model's reading (log entry 61). -/
def Obligations.Emissions : Prop :=
  ∀ (s : State) (l c : Nat) (gd ga : BitVec 4), (∀ w, eccOf s w = 0) → (eng s l).gate = [] →
    let a := gv s l c ga; let s1 := blockOn l c none s; let ask := (eng s l).nextId
    (∀ (d txt : List Byte), let f := dByte d 4
      Fetches l c (encFX 0x1B gd ga 0 0 0) s → a.toNat % 4 = 0 → inDmem a.toNat 16 = true → d = memBytes s (aEngMem l + a.toNat) 16 →
      dNat d 2 2 ≤ 511 → f ≤ 15 → dByte d 5 = 0 → dNat d 6 2 ≤ 4095 → (f.testBit 1 = true → (ctx s l c).held ≠ none) →
      (dNat d 2 2 = 0 ∨ 352 < dNat d 2 2 → ∃ t, exec (.emit l c gd ga) s = .next t ∧ Blocked l c { regs := [(gd.toNat, 3)] } s t ∧
        t = { s with engs := t.engs }) ∧
      (dNat d 2 2 ≤ 352 → dNat d 2 2 ≠ 0 → inDmem (0x10000 + dNat d 0 2) (dNat d 2 2) = true →
        txt = memBytes s (aEngMem l + 0x10000 + dNat d 0 2) (dNat d 2 2) →
        let q : EmitReq := { text := txt, ckadd := f.testBit 0, stamp := if f.testBit 1 then heldStamp s l c else none,
                             dl := if f.testBit 2 then some (dNat d 8 4) else none,
                             direct := if f.testBit 3 then some (dNat d 6 2) else none, user := dNat d 12 4 }
        (checkText q.ckadd txt = none → txt.length + (if q.ckadd then 3 else 0) ≤ 352 →
          ∃ t, exec (.emit l c gd ga) s = .next t ∧ Blocked l c { regs := [(gd.toNat, 2)] } s t ∧ t = { s with engs := t.engs }) ∧
        ∃ t, exec (.emit l c gd ga) s = .next t ∧ (ctx t l c).st = .block ∧
          (ctx t l c).blk = some { id := ask, res := some { regs := [(gd.toNat, wd (emitText l q s1).1)] } } ∧
          t = { (emitText l q s1).2 with engs := t.engs })) ∧
    (∀ (f : BitVec 2) (cell : Nat), Fetches l c (encFX 0x1B gd ga 0 1 (f.setWidth 6)) s → (ctx s l c).held = some cell →
      ∃ t, exec (.efwd l c gd ga f) s = .next t ∧ (ctx t l c).st = .block ∧
        let q : EmitReq := { text := (cellText s1 cell).drop (if f.getLsbD 1 then cellTagLen s1 cell else 0),
                             stamp := if f.getLsbD 0 then some (cellStamp s1 cell) else none,
                             ckBits := some ((cellFlags s1 cell).toNat % 4), user := cellNat s1 cell 0x1C 4 }
        (ctx t l c).blk = some { id := ask, res := some { regs := [(gd.toNat, wd (emitText l q s1).1)] } } ∧
        t = { (emitText l q s1).2 with engs := t.engs }) ∧
    (∀ (f : BitVec 2), l < 16 →
      (Fetches l c (encFX 0x1B gd ga 0 1 (f.setWidth 6)) s → (ctx s l c).held = none → Raises l c 4 (ctx s l c).pc (.efwd l c gd ga f) s) ∧
      (Fetches l c (encFX 0x1B gd ga 0 2 (f.setWidth 6)) s → (32767 < a.toNat ∨ (f.getLsbD 1 = true ∧ (ctx s l c).held = none)) →
        Raises l c 4 (ctx s l c).pc (.echain l c gd ga f) s)) ∧
    (∀ (f : BitVec 2), Fetches l c (encFX 0x1B gd ga 0 2 (f.setWidth 6)) s → a.toNat ≤ 32767 → (f.getLsbD 1 = true → (ctx s l c).held ≠ none) →
      (let n := cellNat s a.toNat 0x18 2 % 32768
       engOwns s l a.toNat = true → 32768 ≤ cellNat s a.toNat 0x18 2 → engOwns s l n = true → engOwns s l (n + 1) = true →
        cellLen s a.toNat ≤ 352 →
        ∃ t, exec (.echain l c gd ga f) s = .next t ∧ (ctx t l c).st = .block ∧
          let q : EmitReq := { text := cellText s1 a.toNat, ckadd := f.getLsbD 0,
                               stamp := if f.getLsbD 1 then heldStamp s l c else none, user := cellNat s1 a.toNat 0x1C 4,
                               chain := some (a.toNat, some n) }
          (ctx t l c).blk = some { id := ask, res := some { regs := [(gd.toNat, wd (emitText l q s1).1)] } } ∧
          t = { (emitText l q s1).2 with engs := t.engs }) ∧
      (engOwns s l a.toNat = false → ∃ t, exec (.echain l c gd ga f) s = .next t ∧ Blocked l c { exc := some 4 } s t ∧
        t = { s with engs := t.engs }) ∧
      (engOwns s l a.toNat = true → cellNat s a.toNat 0x18 2 < 32768 → cellLen s a.toNat ≤ 96 →
        ∃ t, exec (.echain l c gd ga f) s = .next t ∧ (ctx t l c).st = .block ∧
          let q : EmitReq := { text := cellText s1 a.toNat, ckadd := f.getLsbD 0,
                               stamp := if f.getLsbD 1 then heldStamp s l c else none, user := cellNat s1 a.toNat 0x1C 4,
                               chain := some (a.toNat, none) }
          (ctx t l c).blk = some { id := ask, res := some { regs := [(gd.toNat, wd (emitText l q s1).1)] } } ∧
          t = { (emitText l q s1).2 with engs := t.engs })) ∧
    (∀ (d body : List Byte), Fetches l c (encFX 0x1B gd ga 0 3 0) s → a.toNat % 4 = 0 → inDmem a.toNat 8 = true →
      d = memBytes s (aEngMem l + a.toNat) 8 → 1 ≤ dNat d 2 2 → dNat d 2 2 ≤ 252 → dByte d 4 ≤ 15 → dByte d 5 = 0 → dNat d 6 2 ≤ 4095 →
      inDmem (0x10000 + dNat d 0 2) (dNat d 2 2) = true → body = memBytes s (aEngMem l + 0x10000 + dNat d 0 2) (dNat d 2 2) →
      (dNat d 6 2 = 0xFFF → ∃ t, exec (.emsg l c gd ga) s = .next t ∧ Blocked l c { regs := [(gd.toNat, 2)] } s t ∧
        t = { s with engs := t.engs }) ∧
      (dNat d 6 2 = 0 → ∃ t, exec (.emsg l c gd ga) s = .next t ∧ (ctx t l c).st = .block ∧
        (ctx t l c).blk = some { id := ask, res := some { regs := [(gd.toNat,
          if (emqPut (dByte d 4) 1 s.nodeId body s1).1 then 0 else 4)] } } ∧
        t = { (emqPut (dByte d 4) 1 s.nodeId body s1).2 with engs := t.engs }) ∧
      (dNat d 6 2 ≠ 0xFFF → dNat d 6 2 ≠ 0 → dNat d 6 2 ≠ s.nodeId → originates s = false →
        ∃ t, exec (.emsg l c gd ga) s = .next t ∧ Blocked l c { regs := [(gd.toNat, 5)] } s t ∧ t = { s with engs := t.engs }) ∧
      (dNat d 6 2 ≠ 0xFFF → dNat d 6 2 ≠ 0 → dNat d 6 2 ≠ s.nodeId → originates s = true →
        ∃ t, exec (.emsg l c gd ga) s = .next t ∧ Blocked l c { regs := [(gd.toNat, 0)] } s t ∧
          t = { tunSend false (dNat d 6 2) 3 0 (272 + l) (dByte d 4) 0 body s1 with engs := t.engs }))

/-- R387, R389–R392, R457, R459, R473–R475, R635, R656: time values in pairs; a wait without a condition that holds waits, one with a
condition that holds completes at once; signal sets a latch; yield makes the context READY; software events; and the discrete lines. What
crosses the gate does so here with no earlier request in it. A time pair with more than 999,999,999 ns, a wait longer than 16,777,215 µs
or of 0, and a signal to an engine above 15 raise FIELD. Completes: tnow, tdiff, tadd, tdl, wait, signal, yield, swe, dlwrClr, dlwrSet,
dlwrTog, dlrd. -/
def Obligations.TimeAndEventInstructions : Prop :=
  ∀ (s : State) (l c : Nat) (gd ga : BitVec 4), let v := ctx s l c; let a := gv s l c ga
    let d := gPair s l c gd; let p := gPair s l c ga
    (Fetches l c (encFX 0x1C gd ga 0 0 0) s → isPair gd = true → (eng s l).gate = [] →
      ∃ t, exec (.tnow l c gd ga) s = .next t ∧
        Blocked l c { regs := [(gd.toNat, wd s.time.ft.toNat), (gd.toNat + 1, wd (s.time.ft.toNat / 2 ^ 32))] } s t ∧
        t = { s with engs := t.engs }) ∧
    (Fetches l c (encFX 0x1C gd ga 0 1 0) s → isPair gd = true → isPair ga = true → ftBad d = false → ftBad p = false →
      ∃ t, exec (.tdiff l c gd ga) s = .next t ∧
        Wrote l c gd (BitVec.ofInt 32 (max (-2147483647) (min 2147483647 ((ftNs d : Int) - ftNs p)))) s t) ∧
    (Fetches l c (encFX 0x1C gd ga 0 2 0) s → isPair gd = true → ftBad d = false →
      ∃ t, exec (.tadd l c gd ga) s = .next t ∧ ftNs (gPair t l c gd) = (((ftNs d : Int) + a.toInt) % (2 ^ 34 * 1000000000)).toNat ∧
        (∀ r, r ≠ gd.toNat → r ≠ gd.toNat + 1 → gReg (ctx t l c) r = gReg v r) ∧ (ctx t l c).pc = v.pc + 4 ∧ OnlyCtx l c 0 s t ∧
        t = { s with engs := t.engs }) ∧
    (Fetches l c (encFX 0x1C gd ga 0 3 0) s → isPair ga = true → ftBad p = false →
      ∃ t, exec (.tdl l c gd ga) s = .next t ∧
        Wrote l c gd (if p.toNat / 1024 % 2 ^ 32 = 0 then 1 else wd (p.toNat / 1024)) s t) ∧
    (l < 16 →
      (isPair gd = true → ftBad d = true → Fetches l c (encFX 0x1C gd ga 0 2 0) s → Raises l c 4 v.pc (.tadd l c gd ga) s) ∧
      (isPair gd = true → isPair ga = true → (ftBad d = true ∨ ftBad p = true) → Fetches l c (encFX 0x1C gd ga 0 1 0) s →
        Raises l c 4 v.pc (.tdiff l c gd ga) s) ∧
      (isPair ga = true → ftBad p = true → Fetches l c (encFX 0x1C gd ga 0 3 0) s → Raises l c 4 v.pc (.tdl l c gd ga) s) ∧
      (∀ cond : BitVec 4, cond.getLsbD 3 = true → (a = 0 ∨ 16777215 < a.toNat) → Fetches l c (encFX 0x1D gd ga (cond.setWidth 8) 0 0) s →
        Raises l c 4 v.pc (.wait l c gd ga cond) s) ∧
      (∀ k : BitVec 3, 15 < a.toNat → Fetches l c (encFX 0x1D gd ga (k.setWidth 8) 1 0) s → Raises l c 4 v.pc (.signal l c gd ga k) s)) ∧
    (∀ (cond : BitVec 4) (h : Nat), Fetches l c (encFX 0x1D gd ga (cond.setWidth 8) 0 0) s → cond.getLsbD 0 = true →
      (cond.getLsbD 3 = true → a ≠ 0 ∧ a.toNat ≤ 16777215) → v.held = some h →
      (cond.getLsbD 1 && msgHolds s l) = false → (cond.getLsbD 2 && latchOf s l c) = false →
      ∃ t, exec (.wait l c gd ga cond) s = .next t ∧ (ctx t l c).st = .wait ∧ (ctx t l c).held = none ∧
        (ctx t l c).wait = some { cond := cond, t := if cond.getLsbD 3 then a.toNat else 0, gd := gd.toNat } ∧ OnlyCtx l c 0 s t ∧
        t = { s with engs := t.engs, cells := (releaseRef h s).cells }) ∧
    (∀ cond : BitVec 4, Fetches l c (encFX 0x1D gd ga (cond.setWidth 8) 0 0) s → cond ≠ 0 →
      (cond.getLsbD 3 = true → a ≠ 0 ∧ a.toNat ≤ 16777215) → v.held = none →
      ((cond.getLsbD 1 && msgHolds s l) = false → (cond.getLsbD 2 && latchOf s l c) = false →
        ∃ t, exec (.wait l c gd ga cond) s = .next t ∧
          ctx t l c = bounded s l c { v with st := .wait, wait := some { cond := cond, t := if cond.getLsbD 3 then a.toNat else 0,
                                                                         gd := gd.toNat } } ∧
          OnlyCtx l c 0 s t ∧ t = { s with engs := t.engs }) ∧
      (cond.getLsbD 1 = true → msgHolds s l = true → ∃ t, exec (.wait l c gd ga cond) s = .next t ∧
        Wrote l c gd (wakeWord 2 0 (fifo s (fEmq l)).words.length) s t) ∧
      ((cond.getLsbD 1 && msgHolds s l) = false → cond.getLsbD 2 = true → latchOf s l c = true →
        ∃ t, exec (.wait l c gd ga cond) s = .next t ∧ CtxWent l c .run (v.pc + 4) (setG s l c gd 0x30000000#32) s t ∧
          (∀ j, tabGet (fun _ => false) t.latch j = (tabGet (fun _ => false) s.latch j && decide (j ≠ 8 * l + c))) ∧
          t = { s with engs := t.engs, latch := t.latch })) ∧
    (∀ k : BitVec 3, Fetches l c (encFX 0x1D gd ga (k.setWidth 8) 1 0) s → a.toNat ≤ 15 → (a.toNat = l ∨ (eng s l).gate = []) →
      ∃ t, exec (.signal l c gd ga k) s = .next t ∧ CtxWent l c .run (v.pc + 4) (gReg v) s t ∧ latchOf t a.toNat k.toNat = true ∧
        flag t (aEng a.toNat 0x04) 14 = true ∧ t = withEvents { s with engs := t.engs } t ∧ RegsKeptE s t [aEng a.toNat 0x04]) ∧
    (Fetches l c (encFX 0x1D gd ga 0 2 0) s →
      ∃ t, exec (.yield l c gd ga) s = .next t ∧ CtxAt l c .ready (v.pc + 4) (gReg v) s t ∧
        (if v.hi then (eng t l).lastHi = c else (eng t l).lastLo = c) ∧ (∀ j i, ¬ (j = l ∧ i = c) → ctx t j i = ctx s j i) ∧
        t = { s with engs := t.engs }) ∧
    (∀ n : BitVec 4, Fetches l c (encFX 0x1D gd ga (n.setWidth 8) 3 0) s → (eng s l).gate = [] →
      ∃ t, exec (.swe l c gd ga n) s = .next t ∧ CtxWent l c .run (v.pc + 4) (gReg v) s t ∧
        flag t (aNode 0x100C) (16 + n.toNat) = true ∧ t = withEvents { s with engs := t.engs } t ∧ RegsKeptE s t []) ∧
    (∀ e ∈ [(0#6, Instr.dlwrClr l c gd ga), (1#6, .dlwrSet l c gd ga), (2#6, .dlwrTog l c gd ga)], let op := e.1
      Fetches l c (encFX 0x1E gd ga 0 0 op) s → (eng s l).gate = [] →
      ∃ t, exec e.2 s = .next t ∧ CtxWent l c .run (v.pc + 4) (gReg v) s t ∧ t.mem = s.mem ∧ t.cells = s.cells ∧ t.can = s.can ∧
        ∀ k < 32, flag t (aDlG 0x08) k = if bit a k ∧ dlMode s k = 1
          then (if op = 0 then false else if op = 1 then true else !flag s (aDlG 0x08) k) else flag s (aDlG 0x08) k) ∧
    (Fetches l c (encFX 0x1E gd ga 0 1 0) s → (eng s l).gate = [] →
      ∃ t, exec (.dlrd l c gd ga) s = .next t ∧ Blocked l c { regs := [(gd.toNat, dlIn s)] } s t ∧ t = { s with engs := t.engs })

/-- R259, R262, R398, R459, R476–R479, with no stored error and no earlier request in the gate: calloc gives the engine a free cell or
pair, or all ones; cfree returns what the engine owns; cld and cst copy a cell and the window; crel ends the handler and releases its
sentence; crd, cwr and clook read, write and look up table entries: a cwr of BANK 1 writes the inactive bank, HITS included, one of BANK 0
replaces the entry of the active bank as a staged update does (R298–R301). What the engine does not own, and a command block that is none,
give FIELD. A crel that finds the gate full blocks. Completes: calloc, cfree, cld, cst, crel, crd, cwr, clook. -/
def Obligations.CellInstructions : Prop :=
  ∀ (s : State) (l c : Nat) (gd ga : BitVec 4), (∀ w, eccOf s w = 0) → let a := (gv s l c ga).toNat; let v := ctx s l c
    (∀ g r, Fetches l c (encFX 0x1F gd ga 0 4 0) s → (eng s l).gate = g :: r → (eng s l).gate.length = 16 → reqReady s l g.req = false →
      ∃ t, exec (.crel l c gd ga) s = .next t ∧ (ctx t l c).st = .block ∧ (ctx t l c).held = none ∧ (ctx t l c).pc = v.pc ∧
        (ctx t l c).blk = some { id := (eng s l).nextId, res := some {}, space := true } ∧
        (eng t l).gate = g :: r ++ [{ c := c, id := (eng s l).nextId, req := .release v.held }] ∧ t = { s with engs := t.engs }) ∧
    (Fetches l c (encFX 0x1F gd ga 0 1 0) s → l < 16 → 32767 < a → Raises l c 4 v.pc (.cfree l c gd ga false) s) ∧
    (Fetches l c (encFX 0x1F gd ga 0 2 0) s → l < 16 → 32767 < a → Raises l c 4 v.pc (.cld l c gd ga) s) ∧
    (Fetches l c (encFX 0x1F gd ga 0 3 0) s → l < 16 → 32767 < a → Raises l c 4 v.pc (.cst l c gd ga) s) ∧
    ((eng s l).gate = [] →
    (∀ k, Fetches l c (encFX 0x1F gd ga 0 0 0) s → 1 ≤ poolFree s → poolFirst s = some k →
      ∃ t, exec (.calloc l c gd ga false) s = .next t ∧ Blocked l c { regs := [(gd.toNat, wd k)] } s t ∧
        (∀ j, cellSt t j = if j = k then .filling (272 + l) 0 else cellSt s j) ∧
        t = withEvents { s with engs := t.engs, cells := t.cells } t ∧ RegsKeptE s t [aSw 0x00, aSw 0x14]) ∧
    (∀ k, Fetches l c (encFX 0x1F gd ga 1 0 0) s → 2 ≤ poolFree s → poolPair s = some k →
      ∃ t, exec (.calloc l c gd ga true) s = .next t ∧ Blocked l c { regs := [(gd.toNat, wd k)] } s t ∧
        (∀ j, cellSt t j = if j = k ∨ j = k + 1 then .filling (272 + l) 0 else cellSt s j) ∧
        t = withEvents { s with engs := t.engs, cells := t.cells } t ∧ RegsKeptE s t [aSw 0x00, aSw 0x14]) ∧
    (∀ pair : Bool, Fetches l c (encFX 0x1F gd ga (if pair then 1 else 0) 0 0) s →
      (if pair then poolFree s < 2 ∨ poolPair s = none else poolFree s < 1 ∨ poolFirst s = none) →
      ∃ t, exec (.calloc l c gd ga pair) s = .next t ∧ Blocked l c { regs := [(gd.toNat, 0xFFFFFFFF#32)] } s t ∧
        getReg t (aSw 0x18) = satAdd (getReg s (aSw 0x18)) 1 ∧ flag t (aSw 0x00) 2 = true ∧
        t = withEvents { s with engs := t.engs } t ∧ RegsKeptE s t [aSw 0x00, aSw 0x18]) ∧
    (∀ two : Bool, Fetches l c (encFX 0x1F gd ga 0 1 (if two then 1 else 0)) s → a + b2n two ≤ 32767 →
      ((engOwns s l a && (!two || engOwns s l (a + 1))) = true → ∃ t, exec (.cfree l c gd ga two) s = .next t ∧ Blocked l c {} s t ∧
        (∀ j, cellSt t j = if j = a ∨ (two = true ∧ j = a + 1) then .free else cellSt s j) ∧
        t = { s with engs := t.engs, cells := t.cells }) ∧
      ((engOwns s l a && (!two || engOwns s l (a + 1))) = false → ∃ t, exec (.cfree l c gd ga two) s = .next t ∧
        Blocked l c { exc := some 4 } s t ∧ t = { s with engs := t.engs })) ∧
    (Fetches l c (encFX 0x1F gd ga 0 2 0) s → a ≤ 32767 →
      ∃ t, exec (.cld l c gd ga) s = .next t ∧ Blocked l c { win := some (memBytes s (aCell a) 128) } s t ∧ t = { s with engs := t.engs }) ∧
    (Fetches l c (encFX 0x1F gd ga 0 3 0) s → a ≤ 32767 →
      ((engOwns s l a || decide (a < poolRsv s)) = true → ∃ t, exec (.cst l c gd ga) s = .next t ∧ Blocked l c {} s t ∧
        (∀ x, memByte t x = if aCell a ≤ x ∧ x < aCell a + 128 then winByte v (x - aCell a) else memByte s x) ∧
        t = { s with engs := t.engs, mem := t.mem, ecc := t.ecc }) ∧
      ((engOwns s l a || decide (a < poolRsv s)) = false → ∃ t, exec (.cst l c gd ga) s = .next t ∧ Blocked l c { exc := some 4 } s t ∧
        t = { s with engs := t.engs })) ∧
    (Fetches l c (encFX 0x1F gd ga 0 4 0) s →
      ∃ t, exec (.crel l c gd ga) s = .next t ∧ (ctx t l c).held = none ∧ (ctx t l c).pc = v.pc + 4 ∧ (∀ r, gReg (ctx t l c) r = gReg v r) ∧
        OnlyCtx l c 0 s t ∧ t = { s with engs := t.engs, cells := t.cells } ∧
        t.cells = (match v.held with
          | some k => (releaseRef k s).cells
          | none => s.cells)) ∧
    (∀ d : List Byte, a % 4 = 0 → inDmem a 8 = true → d = memBytes s (aEngMem l + a) 8 → camCmd d = none → dNat d 4 2 % 4 = 0 → l < 16 →
      (Fetches l c (encFX 0x20 gd ga 0 0 0) s → Raises l c 4 v.pc (.crd l c gd ga) s) ∧
      (∀ counted, Fetches l c (encFX 0x20 gd ga 0 1 0) s → Raises l c 4 v.pc (.cwr l c gd ga counted) s) ∧
      (Fetches l c (encFX 0x20 gd ga 0 2 0) s → Raises l c 4 v.pc (.clook l c gd ga) s)) ∧
    (∀ (k : CamCmd) (d : List Byte), a % 4 = 0 → inDmem a 8 = true → d = memBytes s (aEngMem l + a) 8 → camCmd d = some k → k.image % 4 = 0 →
      (Fetches l c (encFX 0x20 gd ga 0 0 0) s → inDmem k.image (tblEntry k.tbl) = true → ∃ t, exec (.crd l c gd ga) s = .next t ∧
        Blocked l c { regs := [(gd.toNat, 0)], mem := [(aEngMem l + k.image, entryBytes s (camBank s k) k.tbl k.idx)] } s t ∧
        t = { s with engs := t.engs }) ∧
      (Fetches l c (encFX 0x20 gd ga 0 1 0) s → l < 16 → k.inactive = true → (k.clrDec = true ∨ k.clrHits = true) →
        ∀ counted : Bool, Raises l c 4 v.pc (.cwr l c gd ga counted) s) ∧
      (Fetches l c (encFX 0x20 gd ga 0 1 0) s → inDmem k.image (tblEntry k.tbl) = true →
        (k.inactive = true → k.clrDec = false ∧ k.clrHits = false) → ∀ counted : Bool,
        let ws := packWords (memBytes s (aEngMem l + k.image) (tblEntry k.tbl))
        ((s.tables.busy = true ∨ imageRefused s k.tbl k.idx ws = true) → ∃ t, exec (.cwr l c gd ga counted) s = .next t ∧
          Blocked l c { regs := [(gd.toNat, 1)] } s t ∧ flag t (aSw 0x00) 0 = true ∧ t = withEvents { s with engs := t.engs } t ∧
          RegsKeptE s t [aSw 0x00]) ∧
        (s.tables.busy = false → imageRefused s k.tbl k.idx ws = false → k.inactive = false →
          ∃ t, exec (.cwr l c gd ga counted) s = .next t ∧ Blocked l c { regs := [(gd.toNat, 0)] } s t ∧
          t = { s with regs := t.regs, engs := t.engs, tables := t.tables, ecc := t.ecc } ∧ t.tables.active = s.tables.active ∧
          (∀ w < tblEntry k.tbl / 4, let o := k.idx * tblEntry k.tbl + 4 * w
            tblWord t s.tables.active k.tbl o = if tblHits k.tbl = some (4 * w)
              then (if k.clrHits then (if counted then 1#32 else 0#32) else tblWord s s.tables.active k.tbl o)
              else ws.getD w 0 &&& imageMask k.tbl w) ∧
          (∀ b j o, (b ≠ s.tables.active ∨ j ≠ k.tbl ∨ o < k.idx * tblEntry k.tbl ∨ (k.idx + 1) * tblEntry k.tbl ≤ o) → j ≤ 2 →
            tblWord t b j o = tblWord s b j o) ∧
          (k.clrDec = true → k.tbl = 0 → getReg t (aRtd k.idx) = 0 ∧ getReg t (aRtd k.idx + 4) = 0 ∧
            RegsKept s t [aRtd k.idx, aRtd k.idx + 4]) ∧
          ((k.clrDec = false ∨ k.tbl ≠ 0) → t.regs = s.regs)) ∧
        (s.tables.busy = false → imageRefused s k.tbl k.idx ws = false → k.inactive = true → ∃ t, exec (.cwr l c gd ga counted) s = .next t ∧
          Blocked l c { regs := [(gd.toNat, 0)] } s t ∧ t.tables.active = s.tables.active ∧
          t = { s with engs := t.engs, tables := t.tables } ∧
          (∀ tbl o, tblWord t (!s.tables.active) tbl o =
            if tbl = k.tbl ∧ o % 4 = 0 ∧ k.idx * tblEntry k.tbl ≤ o ∧ o < (k.idx + 1) * tblEntry k.tbl then
              (let w := (o - k.idx * tblEntry k.tbl) / 4
               if tblHits k.tbl = some (4 * w) then ws.getD w 0 else ws.getD w 0 &&& imageMask k.tbl w)
            else tblWord s (!s.tables.active) tbl o))) ∧
      (Fetches l c (encFX 0x20 gd ga 0 2 0) s → k.tbl = 0 → inDmem k.image 8 = true → ∃ t, exec (.clook l c gd ga) s = .next t ∧
        Blocked l c { regs := [(gd.toNat, match rtAll s s.tables.active (memNat s (aEngMem l + k.image) 8) with
          | i :: _ => wd i
          | [] => 0xFFFFFFFF#32)] } s t ∧ t = { s with engs := t.engs })))

/-- R480, R481, R523, R571, R576, with no earlier request in the gate: a fabric access of the own node is made at once; one of another
node becomes a transaction; in HALTER it fails with BUSERR; a posted write lets its context go on and takes a slot, or waits in the gate
while the engine holds eight; a fence waits for the posted writes taken before it. A broadcast read or non-posted write raises BUSERR.
Completes: frd, fwr, fwrp, fblk, ffence. An own part of a posted write at its issue is the model's reading (log entry 63). -/
def Obligations.FabricInstructions : Prop :=
  ∀ (s : State) (l c : Nat) (gd ga : BitVec 4) (n o : Nat), isPair ga = true → (eng s l).gate = [] → fabAddr s l c ga = some (n, o) → o % 4 = 0 →
    let v := ctx s l c; let s1 := blockOn l c none s; let ask := (eng s l).nextId
    (Fetches l c (encFX 0x21 gd ga 0 0 0) s →
      (n = 0 ∨ n = s.nodeId → n ≠ 0xFFF → ∃ t, exec (.frd l c gd ga) s = .next t ∧ (ctx t l c).st = .block ∧
        (ctx t l c).blk = some { id := ask, res := some (match (readRun o 4 s1).1 with
          | some bs => { regs := [(gd.toNat, wd (ofBytesLE bs))] }
          | none => { exc := some 3 }) } ∧ t = { (readRun o 4 s1).2 with engs := t.engs }) ∧
      (n ≠ 0 → n ≠ s.nodeId → n ≠ 0xFFF → originates s = false →
        ∃ t, exec (.frd l c gd ga) s = .next t ∧ Blocked l c { exc := some 3 } s t ∧ t = { s with engs := t.engs }) ∧
      (n ≠ 0 → n ≠ s.nodeId → n ≠ 0xFFF → originates s = true →
        exec (.frd l c gd ga) s = .next (addTrans [{ owner := .eng l c ask, node := n, typ := 2, addr := o, blen := 4, src := 0x10 + l,
                                                     reg := gd.toNat }] s1)) ∧
      (n = 0xFFF → l < 16 → Raises l c 3 v.pc (.frd l c gd ga) s)) ∧
    (Fetches l c (encFX 0x21 gd ga 0 1 0) s →
      (n = 0 ∨ n = s.nodeId → n ≠ 0xFFF → ∃ t, exec (.fwr l c gd ga) s = .next t ∧ (ctx t l c).st = .block ∧
        (ctx t l c).blk = some { id := ask, res := some (match writeRun (engTag s l) o (bytesLE 4 (gv s l c gd).toNat) s1 with
          | some _ => { regs := [(0, 0)] }
          | none => { exc := some 3 }) } ∧
        t = { (writeRun (engTag s l) o (bytesLE 4 (gv s l c gd).toNat) s1).getD s1 with engs := t.engs }) ∧
      (n ≠ 0 → n ≠ s.nodeId → n ≠ 0xFFF → originates s = false →
        ∃ t, exec (.fwr l c gd ga) s = .next t ∧ Blocked l c { exc := some 3 } s t ∧ t = { s with engs := t.engs }) ∧
      (n = 0xFFF → l < 16 → Raises l c 3 v.pc (.fwr l c gd ga) s)) ∧
    (Fetches l c (encFX 0x21 gd ga 0 1 0) s → n ≠ 0 → n ≠ s.nodeId → n ≠ 0xFFF → originates s = true →
      exec (.fwr l c gd ga) s = .next (addTrans [{ owner := .eng l c ask, node := n, typ := 5, addr := o, blen := 4,
                                                   data := bytesLE 4 (gv s l c gd).toNat, src := 0x10 + l, reg := 0 }] s1)) ∧
    (Fetches l c (encFX 0x21 gd ga 0 1 1) s → n ≠ 0 → n ≠ s.nodeId → originates s = true → 8 ≤ engSlots s l →
      ∃ t, exec (.fwrp l c gd ga) s = .next t ∧ CtxAt l c .run (v.pc + 4) (gReg v) s t ∧ t = { s with engs := t.engs } ∧
        (let x : FabOp := { node := n, off := o, len := 4, data := some (bytesLE 4 (gv s l c gd).toNat), gd := 0 }
         (eng t l).gate = [{ c := c, id := (eng s l).nextId, req := .fabPost x }])) ∧
    (Fetches l c (encFX 0x21 gd ga 0 1 1) s → n ≠ 0 → n ≠ s.nodeId → n ≠ 0xFFF → (originates s = true → engSlots s l < 8) →
      ∃ u, CtxWent l c .run (v.pc + 4) (gReg v) s u ∧ u = { s with engs := u.engs } ∧
        exec (.fwrp l c gd ga) s = .next (if originates s
          then addTrans [{ owner := .engPost l c 0, node := n, typ := 4, addr := o, blen := 4,
                           data := bytesLE 4 (gv s l c gd).toNat, src := 0x10 + l, reg := 0 }] u
          else engPostFail l (n * 2 ^ 36 + o) 9 u)) ∧
    (∀ d : List Byte, Fetches l c (encFX 0x21 gd ga 0 2 0) s → (∀ w, eccOf s w = 0) → (gv s l c ga).toNat % 4 = 0 →
      inDmem (gv s l c ga).toNat 16 = true → d = memBytes s (aEngMem l + (gv s l c ga).toNat) 16 →
      1 ≤ dNat d 10 2 → dNat d 10 2 ≤ 256 → dNat d 0 6 % 256 + dNat d 10 2 ≤ 256 → dByte d 12 = 0 → dNat d 6 2 = 0 → dNat d 13 3 = 0 →
      inDmem (0x10000 + dNat d 8 2) (dNat d 10 2) = true → dNat d 0 6 / 2 ^ 36 ≠ 0 → dNat d 0 6 / 2 ^ 36 ≠ s.nodeId →
      dNat d 0 6 / 2 ^ 36 ≠ 0xFFF → originates s = true →
      exec (.fblk l c gd ga) s =
        .next (addTrans [{ owner := .eng l c ask, node := dNat d 0 6 / 2 ^ 36, typ := 2, addr := dNat d 0 6 % 2 ^ 36, blen := dNat d 10 2,
                           src := 0x10 + l, reg := gd.toNat, dmem := some (aEngMem l + (0x10000 + dNat d 8 2)) }] s1)) ∧
    (Fetches l c (encFX 0x21 gd ga 0 3 0) s → ∃ t, exec (.ffence l c gd ga) s = .next t ∧
      ctx t l c = { v with st := .block, blk := some { id := ask, fence := some (gd.toNat,
        ((incomplete s).filter (fun x => isEngPost l x.owner)).map (·.tseq)) } } ∧ OnlyCtx l c 1 s t ∧ t = { s with engs := t.engs })

/-! ### The host bridge, transactions, and the requests of other nodes -/

/-- R143, R553–R558, R561–R574: one-word accesses of the host bus. While the bus is off, unpowered or waits for a non-posted write an
access has no effect, in Stabled and with no room in gate 90 it is answered with HRTY_N, and in no window with HERR_N. An own-node access
reads or writes the word; the first attempt of a remote read takes a tag, sends its request and is answered with HRTY_N, and its retry
delivers the words once they are there; a posted write takes a slot, or HRTY_N while slots are short, and a non-posted one holds its last
phase; in HALTER a remote access fails with its cause. HB.FENCE waits for the posted writes before it, and its read clears the count.
Completes: hostOwnAccess, hostReadFirst, hostReadRetry, hostPostedWrite, hostNonpostedWrite, hbFenceRead. Log entries 50, 51 and 54 name
what the model reads into these rules. -/
def Obligations.HostAccesses : Prop :=
  ∀ (s : State) (a : Word), let x := accessOf a 0 []; let bus := fun (r : List BusAns) (u : State) => { u with fab := { u.fab with bus := r } }
    (∀ (ph : List HostPhase) (full : Bool),
      ∀ e ∈ [(Instr.hostOwnAccess a 0 false ph full, false, HostKind.own), (.hostOwnAccess a 0 true ph full, true, .own),
          (.hostReadFirst a 0 ph full, false, .first), (.hostReadRetry a 0 ph full, false, .again),
          (.hostPostedWrite a 0 ph full, true, .posted), (.hostNonpostedWrite a 0 ph full, true, .nonposted)],
        let k := hostKind s (accessOf a 0 ph) e.2.1
        (k = .dead → exec e.1 s = .next s) ∧ (k = .asleep → exec e.1 s = .next (bus [.retry] s)) ∧
        (k = .fault → exec e.1 s = .next (bus [.error] (winFault x.a s))) ∧
        (k = e.2.2 → full = true → exec e.1 s = .next (bus [.retry] s))) ∧
    (∀ off, hostKind s x false = .own → wordAt s x.a = .own off → off ≠ 0x00030014 →
      exec (.hostOwnAccess a 0 false [] false) s = .next (bus [match (busRead off s).1 with
        | some v => BusAns.ready v
        | none => .error] (busRead off s).2)) ∧
    (∀ (off : Nat) (be : BitVec 4) (v : Word), hostKind s x true = .own → wordAt s x.a = .own off →
      (∀ u, busWrite (s.nodeId, 288) off v be s = some u → originates u = false →
        exec (.hostOwnAccess a 0 true [{ be := be, data := v, last := true }] false) s = .next (bus [.ready 0] u)) ∧
      (∀ u, busWrite (s.nodeId, 288) off v be s = some u → originates u = true →
        exec (.hostOwnAccess a 0 true [{ be := be, data := v, last := true }] false) s = .next (pump (bus [.ready 0] u))) ∧
      (busWrite (s.nodeId, 288) off v be s = none → originates s = false →
        exec (.hostOwnAccess a 0 true [{ be := be, data := v, last := true }] false) s = .next (bus [.error] s)) ∧
      (busWrite (s.nodeId, 288) off v be s = none → originates s = true →
        exec (.hostOwnAccess a 0 true [{ be := be, data := v, last := true }] false) s = .next (pump (bus [.error] s)))) ∧
    (∀ w fab, hostKind s x false = .first → wordAt s x.a = .remote w fab →
      (originates s = true → fab / 2 ^ 36 ≠ 0xFFF → heldAll s x w = none → ∀ t < 64, t ≠ 0 → tagGet s t = none →
        (∀ j < t, j ≠ 0 → tagGet s j ≠ none) →
        let g := newTag s x 0 w fab 1 none true
        exec (.hostReadFirst a 0 [] false) s = .next (bus [.retry] (addTrans [tagTrans s t g]
          { s with fab := { s.fab with tags := tabSet (fun _ => none) s.fab.tags t (some g) } })) ∧
        g.host = x.a ∧ g.fab = fab ∧ g.bytes = 4 ∧ (tagTrans s t g).node = fab / 2 ^ 36 ∧ (tagTrans s t g).addr = fab % 2 ^ 36 ∧
        (tagTrans s t g).typ = 2) ∧
      (fab / 2 ^ 36 = 0xFFF → exec (.hostReadFirst a 0 [] false) s = .next (bus [.error] (hostFail fab w 8 s))) ∧
      (originates s = false → fab / 2 ^ 36 ≠ 0xFFF → exec (.hostReadFirst a 0 [] false) s = .next (bus [.error] (hostFail fab w 9 s)))) ∧
    (∀ t g, hostKind s x false = .again → matchTags s x = some (t, none) → tagGet s t = some g → g.fab / 2 ^ 36 ≠ 0xFFF →
      (originates s = true → g.life = .fetch → exec (.hostReadRetry a 0 [] false) s = .next (bus [.retry] s)) ∧
      (originates s = true → g.life = .ready → g.fail = false → g.bytes = 4 → g.ahead = 0 →
        ∃ u, exec (.hostReadRetry a 0 [] false) s = .next u ∧
          u.fab.bus = [.ready (wd (ofBytesLE (g.data.take 4)))] ∧ tagGet u t = none ∧ (∀ j, j ≠ t → tagGet u j = tagGet s j) ∧
          u = { s with fab := { s.fab with tags := u.fab.tags, bus := u.fab.bus } }) ∧
      (originates s = true → g.life = .ready → g.fail = true → ∃ u, exec (.hostReadRetry a 0 [] false) s = .next u ∧
        u.fab.bus = [.error] ∧ tagGet u t = none ∧ (∀ j, j ≠ t → tagGet u j = tagGet s j) ∧
        u = { s with fab := { s.fab with tags := u.fab.tags, bus := u.fab.bus } }) ∧
      (originates s = false → exec (.hostReadRetry a 0 [] false) s = .next (bus [.error] (hostFail g.fab g.win 9 s)))) ∧
    (∀ w fab v, wordAt s x.a = .remote w fab → fab % 4 = 0 → fab / 2 ^ 36 ≠ 0xFFF →
      (∀ e ∈ s.fab.tags, e.2.map (·.life) ≠ some .held) →
      let ph : List HostPhase := [{ be := 15, data := v, last := true }]
      (∀ i, originates s = true → hostKind s x true = .posted → flag s (aWin w 0x0C) 8 = false → 2 ≤ (slotsFree s).length →
        (slotsFree s).head? = some i →
        exec (.hostPostedWrite a 0 ph false) s =
          .next (addTrans [{ owner := .slot i, node := fab / 2 ^ 36, typ := 4, addr := fab % 2 ^ 36, blen := 4,
                             data := bytesLE 4 v.toNat, ord := flag s (aWin w 0x0C) 13, src := w }] (bus [.ready 0] s))) ∧
      (originates s = true → hostKind s x true = .posted → flag s (aWin w 0x0C) 8 = false → (slotsFree s).length < 2 →
        exec (.hostPostedWrite a 0 ph false) s = .next (bus [.retry] s)) ∧
      (originates s = false → hostKind s x true = .posted → flag s (aWin w 0x0C) 8 = false →
        exec (.hostPostedWrite a 0 ph false) s = .next (postFail fab w 9 (bus [.ready 0] s))) ∧
      (originates s = true → hostKind s x true = .nonposted → exec (.hostNonpostedWrite a 0 ph false) s =
        .next (addTrans [{ owner := .np 0 true, node := fab / 2 ^ 36, typ := 5, addr := fab % 2 ^ 36, blen := 4,
                           data := bytesLE 4 v.toNat, ord := flag s (aWin w 0x0C) 13, src := w }]
          { s with fab := { s.fab with bus := [.wait], np := some { open_ := 1, win := w, addr := fab } } })) ∧
      (originates s = false → hostKind s x true = .nonposted →
        exec (.hostNonpostedWrite a 0 ph false) s = .next (bus [.error] (hostFail fab w 9 s)))) ∧
    (s.power.phase ≠ .off → s.power.vhb ≠ 0 → s.fab.np = none →
      (∀ full : Bool, (s.power.phase = .stabled ∨ full = true) → exec (.hbFenceRead full) s = .next (bus [.retry] s)) ∧
      (s.power.phase ≠ .stabled →
        ((∀ t ∈ s.fab.trans, isSlot t.owner = false) → ∃ t, exec (.hbFenceRead false) s = .next t ∧
          t.fab.bus = [.ready (getReg s (aHb 0x14))] ∧ getReg t (aHb 0x14) = 0 ∧ t.fab.fenceOpen = false ∧ t.fab.trans = s.fab.trans ∧
          t = { s with regs := t.regs, fab := t.fab } ∧ RegsKept s t [aHb 0x14]) ∧
        (s.fab.fenceOpen = false → (∃ t ∈ incomplete s, isSlot t.owner = true) → ∃ t, exec (.hbFenceRead false) s = .next t ∧
          t.fab.bus = [.retry] ∧ t.fab.fenceOpen = true ∧ t = { s with fab := t.fab })))

/-- R560, R566–R568, R571–R579, R584, of an awake node: a legal write of ATTR puts the window's registers into force, another sets CFG_ERR.
A response completes its transaction with STATUS 0 and fails it with 1 and 3, and one that names none is counted, as is STATUS 2 to a
request that is not speculative; to one that is, the demand read goes out and the tag is SE. A read or non-posted write is sent again with
RETX 1 up to RETX_MAX times, by a node that originates frames, and then fails; a posted write fails at PW_TIMEOUT, and the bridge's counts
for HB.FENCE; a waiting phase ends with HERR_N at NP_TIMEOUT; a held tag expires, and a READY one is discarded with its cause. The end of a
transaction makes its tag READY, ends the bus phase that waits for it, or answers its engine. ERRLOG4 removes the entry it shows. Where a
transaction or tag ends, what then may be launched is launched (`pump`). Completes: hwinAttrWrite, transactionResponse, retxTimerExpiry,
pwTimeoutExpiry, npTimeoutExpiry, readHoldExpiry, errlogRead. Log entries 49 and 55 name what the model reads into these rules. -/
def Obligations.Transactions : Prop :=
  ∀ s : State, awake s = true →
    (∀ (w : BitVec 3) (v : Word),
      let size := 2 ^ (16 + bits v 3 0)
      let hb := (getReg s (aWin w.toNat 0)).toNat
      let fb := fld s (aWin w.toNat 8) 15 0 * 2 ^ 32 + (getReg s (aWin w.toNat 4)).toNat
      (bits v 3 0 ≠ 15 → bits v 11 10 ≠ 3 → (∀ e ∈ s.fab.tags, e.2.map (·.win) ≠ some w.toNat) → hb % size = 0 → fb % size = 0 →
        ∃ u, exec (.hwinAttrWrite w v) s = .next (pump u) ∧ getReg u (aWin w.toNat 0x0C) = v &&& 0x80003F0F#32 ∧
          winBases u w.toNat = (hb, fb) ∧ (∀ j, j ≠ w.toNat → winBases u j = winBases s j) ∧
          u = { s with regs := u.regs, fab := { s.fab with wins := u.fab.wins } } ∧ RegsKept s u [aWin w.toNat 0x0C]) ∧
      ((bits v 3 0 = 15 ∨ bits v 11 10 = 3 ∨ hb % size ≠ 0 ∨ fb % size ≠ 0) →
        ∃ t, exec (.hwinAttrWrite w v) s = .next t ∧ flag t (aHb 0x00) 8 = true ∧ t = { s with regs := t.regs } ∧ RegsKept s t [aHb 0x00])) ∧
    (∀ (tseq : BitVec 16) (x : Trans), transBySeq s tseq.toNat = some x →
      (isPosted x.owner = false → x.retx < fld s (aHb 0x0C) 17 16 →
        ∃ u, exec (.retxTimerExpiry tseq) s = .next (if originates s = true then
            originate { typ := x.typ, dest := x.node, src := s.nodeId, spec := x.spec, retx := true,
                        payload := txHdr x.addr x.blen (itagOf x.owner) x.tseq (ilocOf x.owner) 0 ++ x.data } u else u) ∧
          getReg u (aHb 0x2C) = satAdd (getReg s (aHb 0x2C)) 1 ∧
          u.fab = { s.fab with trans := s.fab.trans.map (fun y => if y = x then { x with retx := x.retx + 1 } else y) } ∧
          u = { s with regs := u.regs, fab := u.fab } ∧ RegsKept s u [aHb 0x2C]) ∧
      (isPosted x.owner = false → isBridge x.owner = true → fld s (aHb 0x0C) 17 16 ≤ x.retx →
        ∃ u, exec (.retxTimerExpiry tseq) s = .next (pump u) ∧ getReg u (aHb 0x50) = satAdd (getReg s (aHb 0x50)) 1 ∧
          BridgeEnded s x true [] u ∧ ErrLogged s x 3 u ∧ u = { s with regs := u.regs, fab := u.fab } ∧
          RegsKept s u [aHb 0x00, aHb 0x4C, aHb 0x50]) ∧
      (∀ l c id, x.owner = .eng l c id → fld s (aHb 0x0C) 17 16 ≤ x.retx → (ctx s l c).blk.map (·.id) = some id →
        ∃ u, exec (.retxTimerExpiry tseq) s = .next (pump u) ∧ (ctx u l c).blk.map (·.res) = some (some { exc := some 3 }) ∧
          u.fab.trans = s.fab.trans.filter (fun y => decide (y ≠ x)) ∧ u = { s with engs := u.engs, fab := { s.fab with trans := u.fab.trans } }) ∧
      (∀ i, x.owner = .slot i →
        ∃ u, exec (.pwTimeoutExpiry tseq) s = .next (pump u) ∧ u.fab.trans = s.fab.trans.filter (fun y => decide (y ≠ x)) ∧
          getReg u (aHb 0x14) = wd (min 65535 (fld s (aHb 0x14) 15 0 + 1)) ∧ flag u (aHb 0x00) 0 = true ∧
          (flag s (aHb 0x00) 0 = false → EventSet 53 u) ∧ getReg u (aHb 0x34) = satAdd (getReg s (aHb 0x34)) 1 ∧ ErrLogged s x 3 u ∧
          u = withEvents { s with fab := u.fab } u ∧ RegsKeptE s u [aHb 0x00, aHb 0x14, aHb 0x34, aHb 0x4C]) ∧
      (∀ l c i, x.owner = .engPost l c i →
        ∃ u, exec (.pwTimeoutExpiry tseq) s = .next (pump u) ∧ u.fab.trans = s.fab.trans.filter (fun y => decide (y ≠ x)) ∧
          (eng u l).fails = (eng s l).fails + 1 ∧ flag u (aHb 0x00) 0 = true ∧ (flag s (aHb 0x00) 0 = false → EventSet 53 u) ∧
          u = withEvents { s with fab := u.fab, engs := u.engs } u ∧ RegsKeptE s u [aHb 0x00, aHb 0x4C])) ∧
    (∀ n, s.fab.np = some n →
      ∃ u, exec .npTimeoutExpiry s = .next (pump u) ∧ u.fab.np = none ∧ getReg u (aHb 0x3C) = satAdd (getReg s (aHb 0x3C)) 1 ∧
        getReg u (aHb 0x50) = satAdd (getReg s (aHb 0x50)) 1 ∧ flag u (aHb 0x00) 3 = true ∧
        (flag s (aHb 0x00) 3 = false → EventSet 56 u) ∧
        u.fab.bus = s.fab.bus.map (fun b => if b = .wait then .error else b) ∧ u = withEvents { s with fab := u.fab } u ∧
        RegsKeptE s u [aHb 0x00, aHb 0x3C, aHb 0x4C, aHb 0x50]) ∧
    (∀ n g, tagGet s n = some g →
      (g.life = .held → ∃ u, exec (.readHoldExpiry n) s = .next (pump u) ∧ tagGet u n = none ∧ (∀ j, j ≠ n → tagGet u j = tagGet s j) ∧
        getReg u (aHb 0x48) = getReg s (aHb 0x48) + 1 ∧ u = { s with regs := u.regs, fab := u.fab } ∧ RegsKept s u [aHb 0x48]) ∧
      (g.life = .ready → g.fail = false → ∃ u, exec (.readHoldExpiry n) s = .next (pump u) ∧ tagGet u n = none ∧
        (∀ j, j ≠ n → tagGet u j = tagGet s j) ∧ getReg u (aHb 0x38) = satAdd (getReg s (aHb 0x38)) 1 ∧
        flag u (aHb 0x00) (if g.se then 2 else 1) = true ∧ u = withEvents { s with fab := u.fab } u ∧
        RegsKeptE s u [aHb 0x00, aHb 0x38, aHb 0x4C]) ∧
      (g.life = .fetch → exec (.readHoldExpiry n) s = .next s)) ∧
    (∀ e r, s.fab.errlog = e :: r → exec .errlogRead s = .next { s with fab := { s.fab with errlog := r, errLast := some e } }) ∧
    (∀ f, s.fab.arrived.find? isResponse = some f →
      let s0 := { s with fab := { s.fab with arrived := s.fab.arrived.eraseP isResponse } }
      let st := fieldLE f.payload 14 1
      (transOf s0 f = none → ∃ t, exec .transactionResponse s = .next t ∧ getReg t (aHb 0x44) = satAdd (getReg s (aHb 0x44)) 1 ∧
        t = { s0 with regs := t.regs } ∧ RegsKept s t [aHb 0x44]) ∧
      (∀ x, transOf s0 f = some x →
        (isBridge x.owner = true → st = 0 → ∃ u, exec .transactionResponse s = .next (pump u) ∧
          BridgeEnded s0 x false ((f.payload.drop 16 ++ List.replicate x.blen 0).take x.blen) u ∧
          u.fab.errlog = s.fab.errlog ∧ u = { s with fab := u.fab }) ∧
        (∀ l c i, x.owner = .engPost l c i → st = 0 → ∃ u, exec .transactionResponse s = .next (pump u) ∧
          u = { s with fab := { s0.fab with trans := s.fab.trans.filter (fun y => decide (y ≠ x)) } }) ∧
        (isBridge x.owner = true → isSlot x.owner = false → (st = 1 ∨ st = 3) → ∃ u, exec .transactionResponse s = .next (pump u) ∧
          getReg u (aHb 0x50) = satAdd (getReg s (aHb 0x50)) 1 ∧ BridgeEnded s0 x true [] u ∧ ErrLogged s0 x (if st = 3 then 2 else 1) u ∧
          u = { s with regs := u.regs, fab := u.fab } ∧ RegsKept s u [aHb 0x00, aHb 0x4C, aHb 0x50]) ∧
        (isSlot x.owner = true → (st = 1 ∨ st = 3) → ∃ u, exec .transactionResponse s = .next (pump u) ∧ BridgeEnded s0 x true [] u ∧
          getReg u (aHb 0x14) = wd (min 65535 (fld s (aHb 0x14) 15 0 + 1)) ∧ flag u (aHb 0x00) 0 = true ∧
          getReg u (aHb 0x34) = satAdd (getReg s (aHb 0x34)) 1 ∧ ErrLogged s0 x (if st = 3 then 2 else 1) u ∧
          u = withEvents { s with fab := u.fab } u ∧ RegsKeptE s u [aHb 0x00, aHb 0x14, aHb 0x34, aHb 0x4C]) ∧
        (st = 2 → x.spec = false → ∃ t, exec .transactionResponse s = .next t ∧ getReg t (aHb 0x44) = satAdd (getReg s (aHb 0x44)) 1 ∧
          t = { s0 with regs := t.regs } ∧ RegsKept s t [aHb 0x44]) ∧
        (∀ n p g, x.owner = .tag n p → st = 2 → x.spec = true → x.typ = 2 → tagGet s n = some g → originates s = true →
          let y : Trans := { x with spec := false, blen := g.bytes, retx := 0, tseq := s.fab.tseq, sent := true }
          ∃ u, exec .transactionResponse s = .next (sendTrans y u) ∧ tagGet u n = some { g with se := true, ahead := 0 } ∧
            (∀ j, j ≠ n → tagGet u j = tagGet s j) ∧ getReg u (aHb 0x20) = getReg s (aHb 0x20) + 1 ∧
            u.fab = { s0.fab with tags := u.fab.tags, tseq := (s.fab.tseq + 1) % 65536,
                                  trans := s.fab.trans.map (fun z => if z = x then y else z) } ∧
            u = { s with regs := u.regs, fab := u.fab } ∧ RegsKept s u [aHb 0x20])) ∧
      (∀ x l c id, transOf s0 f = some x → x.owner = .eng l c id → x.typ = 2 → x.dmem = none → (ctx s l c).blk.map (·.id) = some id →
        (st = 0 →
          ∃ u, exec .transactionResponse s = .next (pump u) ∧ u.fab.trans = s.fab.trans.filter (fun y => decide (y ≠ x)) ∧
            (ctx u l c).blk.map (·.res) = some (some { regs := [(x.reg,
              wd (ofBytesLE ((f.payload.drop 16 ++ List.replicate x.blen 0).take x.blen)))] }) ∧
            u = { s0 with engs := u.engs, fab := { s0.fab with trans := u.fab.trans } }) ∧
        (st = 1 ∨ st = 3 →
          ∃ u, exec .transactionResponse s = .next (pump u) ∧ u.fab.trans = s.fab.trans.filter (fun y => decide (y ≠ x)) ∧
            (ctx u l c).blk.map (·.res) = some (some { exc := some 3 }) ∧
            u = { s0 with engs := u.engs, fab := { s0.fab with trans := u.fab.trans } })))

/-- R50, R52, R571, R580–R583, R585, of an awake node: the first request that has arrived enters the target queue of 32, or is dropped and
counted when it is full; one that the node does not execute is dropped. The request at the head is executed once: a repeated one is answered
from the cache, one in the history with STATUS 3; a speculative read that covers a word with a read effect or an unmapped one with STATUS 2,
another that covers an unmapped word with STATUS 1; a read gives its data, and a write is executed and answered with STATUS 0, posted
without a cache entry, non-posted with one. A key is forgotten. Completes: fabricRequestTaken, targetExecute, replayHistoryExpiry. Log entry
56 names what the model reads into these rules. -/
def Obligations.TargetRequests : Prop :=
  ∀ s : State, awake s = true →
    (∀ f, s.fab.arrived.find? isRequest = some f →
      (executes s f = true → s.fab.target.length < 32 → exec .fabricRequestTaken s =
        .next { s with fab := { s.fab with arrived := s.fab.arrived.eraseP isRequest, target := s.fab.target ++ [f] } }) ∧
      (executes s f = true → 32 ≤ s.fab.target.length → ∃ t, exec .fabricRequestTaken s = .next t ∧
        getReg t (aHb 0x310) = satAdd (getReg s (aHb 0x310)) 1 ∧
        t = { s with regs := t.regs, fab := { s.fab with arrived := s.fab.arrived.eraseP isRequest } } ∧ RegsKept s t [aHb 0x310]) ∧
      (executes s f = false → exec .fabricRequestTaken s =
        .next { s with fab := { s.fab with arrived := s.fab.arrived.eraseP isRequest } })) ∧
    (∀ f r, s.fab.target = f :: r → f.dest ≠ 0xFFF → originates s = true →
      (∀ k at_ ans, s.fab.cache.find? (fun e => decide (e.1 = rqKey f)) = some (k, at_, ans) → ∃ u,
        exec .targetExecute s = .next (originate ans u) ∧ getReg u (aHb 0x304) = getReg s (aHb 0x304) + 1 ∧
        u = { s with regs := u.regs, fab := { s.fab with target := r } } ∧ RegsKept s u [aHb 0x304]) ∧
      (s.fab.cache.find? (fun e => decide (e.1 = rqKey f)) = none → (∃ e ∈ s.fab.history, e.1 = rqKey f) → ∃ u,
        exec .targetExecute s = .next (originate (answer f 3 []) u) ∧ getReg u (aHb 0x30C) = satAdd (getReg s (aHb 0x30C)) 1 ∧
        u = { s with regs := u.regs, fab := { s.fab with target := r } } ∧ RegsKept s u [aHb 0x30C]) ∧
      (s.fab.cache.find? (fun e => decide (e.1 = rqKey f)) = none → (∀ e ∈ s.fab.history, e.1 ≠ rqKey f) →
        (f.typ = 4 ∨ s.fab.cache.length < 256) →
        let cached := fun (ans : Frame) => if f.typ = 4 then s.fab.cache else s.fab.cache ++ [(rqKey f, s.now, ans)]
        let touched := wordsOf (rqAddr f) (if f.typ = 2 then rqLen f else (f.payload.drop 16).length)
        (f.typ = 2 → f.spec = true → (∃ w ∈ touched, rcMarked w = true ∨ mapped s w = false) → ∃ u,
          exec .targetExecute s = .next (originate (answer f 2 []) u) ∧ getReg u (aHb 0x300) = getReg s (aHb 0x300) + 1 ∧
          getReg u (aHb 0x308) = getReg s (aHb 0x308) + 1 ∧
          u = { s with regs := u.regs, fab := { s.fab with target := r, cache := cached (answer f 2 []) } } ∧
          RegsKept s u [aHb 0x300, aHb 0x308]) ∧
        ((f.typ = 2 ∨ f.typ = 4 ∨ f.typ = 5) → (f.typ = 2 → f.spec = false) → (∃ w ∈ touched, mapped s w = false) → ∃ u,
          exec .targetExecute s = .next (originate (answer f 1 []) u) ∧ getReg u (aHb 0x300) = getReg s (aHb 0x300) + 1 ∧
          getReg u (aHb 0x318) = satAdd (getReg s (aHb 0x318)) 1 ∧
          u = { s with regs := u.regs, fab := { s.fab with target := r, cache := cached (answer f 1 []) } } ∧
          RegsKept s u [aHb 0x300, aHb 0x318])) ∧
      (s.fab.cache.find? (fun e => decide (e.1 = rqKey f)) = none → (∀ e ∈ s.fab.history, e.1 ≠ rqKey f) →
        rqAddr f % 4 = 0 → 0x01000000 ≤ rqAddr f → rqAddr f < 0x01400000 →
        (∀ bs, f.typ = 2 → f.spec = false → s.fab.cache.length < 256 → rqLen f = 4 → eccOf s (rqAddr f / 8) = 0 →
          bs = memBytes s (rqAddr f) 4 →
          ∃ u, exec .targetExecute s = .next (originate (answer f 0 bs) u) ∧ getReg u (aHb 0x300) = getReg s (aHb 0x300) + 1 ∧
            u = { s with regs := u.regs,
                         fab := { s.fab with target := r, cache := s.fab.cache ++ [(rqKey f, s.now, answer f 0 bs)] } } ∧
            RegsKept s u [aHb 0x300]) ∧
        (∀ bs, f.payload.drop 16 = bs → bs.length = 4 → (f.typ = 4 ∨ (f.typ = 5 ∧ s.fab.cache.length < 256)) →
          ∃ u, exec .targetExecute s = .next (originate (answer f 0 []) u) ∧ getReg u (aHb 0x300) = getReg s (aHb 0x300) + 1 ∧
            (∀ a, memByte u a = if rqAddr f ≤ a ∧ a < rqAddr f + 4 then bs.getD (a - rqAddr f) 0 else memByte s a) ∧
            u = { s with regs := u.regs, mem := u.mem, ecc := u.ecc,
                         fab := { s.fab with target := r, cache := if f.typ = 4 then s.fab.cache
                                                                   else s.fab.cache ++ [(rqKey f, s.now, answer f 0 [])] } } ∧
            RegsKept s u [aHb 0x300]))) ∧
    (∀ (node : BitVec 12) (iloc : BitVec 9) (itag tseq : BitVec 16),
      ∃ t, exec (.replayHistoryExpiry node iloc itag tseq) s = .next t ∧
        (∀ e, e ∈ t.fab.cache ↔ e ∈ s.fab.cache ∧ e.1 ≠ ⟨node.toNat, iloc.toNat, itag.toNat, tseq.toNat⟩) ∧
        (∀ e, e ∈ t.fab.history ↔ e ∈ s.fab.history ∧ e.1 ≠ ⟨node.toNat, iloc.toNat, itag.toNat, tseq.toNat⟩) ∧
        t = { s with fab := { s.fab with cache := t.fab.cache, history := t.fab.history } })

/-! ### The ring -/

/-- R485–R488, R515, R518, R519, R521, R525, R148: the state of a link follows its pins, its receiver and its peer, and a change sets event
40 + m. Eight valid idle sets bring synchronisation, and four invalid symbols within 16 end it, with every frame in reception; a peer that
sends IDLE_R brings UP, an IDLE_NR set ends it. A link that leaves UP counts it, sets DOWN, clears its neighbour and ends what it sends. A
signal that is lost ends reception too, and resets its side of gates 34 + m, 38 + m and of its forwarding gates (R148; DEDUCED, log entry
76; what waits for the wake in Stabled: 77). RXINV exchanges the received balls; the code tables are PRESUMED (76). Of an awake node,
RING.CTL takes the links of a pair whose rate changes out of UP; MOD_CMD puts one access at a time on the bus, with the byte 1 << LINK to
the switch at SWADDR before it, a second is refused, and the end of the access clears GO with NACK and the byte read. Completes: linkUp,
linkSyncChange, linkSignalChange, idleNrReceive, ringRateWrite, modRead, modWrite, modAccessDone. -/
def Obligations.LinkStates : Prop :=
  ∀ (s : State) (m : Nat), m < 4 →
    let ringOnly := fun (t : State) => t = withEvents { s with ring := { s.ring with links := t.ring.links } } t ∧ RegsKeptE s t []
    let others := fun (t : State) => ∀ j, j ≠ m → lnk t j = lnk s j
    let down := fun (t : State) => txOf t m = {} ∧ flag t (aLink m 0x04) 8 = true ∧
      getReg t (aLink m 0x34) = satAdd (getReg s (aLink m 0x34)) 1 ∧ flag t (aRing (0x488 + 16 * m)) 31 = false
    (linkState s m = 4 → ∃ t, exec (.linkUp m) s = .next t ∧ linkState t m = 5 ∧ lnk t m = { lnk s m with peer := true } ∧ others t ∧
      ringOnly t ∧ EventSet (40 + m) t) ∧
    (linkState s m ≠ 4 → exec (.linkUp m) s = .next s) ∧
    (∀ (rd : Bool) (codes : List Nat),
      (linkState s m = 3 → gainsSync (rxSyms s m rd codes) = true → ∃ t, exec (.linkSyncChange m rd codes) s = .next t ∧ linkState t m = 4 ∧
        lnk t m = { lnk s m with sync := true, peer := false } ∧ others t ∧ ringOnly t ∧ EventSet (40 + m) t) ∧
      (4 ≤ linkState s m → losesSync (rxSyms s m rd codes) = true → ∃ t, exec (.linkSyncChange m rd codes) s = .next t ∧ linkState t m = 3 ∧
        (lnk t m).sync = false ∧ (lnk t m).rx = [] ∧ others t ∧ (linkState s m = 5 → down t) ∧ EventSet (40 + m) t ∧ t.mem = s.mem ∧
        t.fab = s.fab) ∧
      ((linkState s m < 3 ∨ (linkState s m = 3 ∧ gainsSync (rxSyms s m rd codes) = false) ∨
          (4 ≤ linkState s m ∧ losesSync (rxSyms s m rd codes) = false)) → exec (.linkSyncChange m rd codes) s = .next s)) ∧
    (∀ los abs : Bool, let lost := (los || abs) && !((lnk s m).los || (lnk s m).absent)
      let gone := fun (r : List RxFrame) => if s.power.phase = .off then r else r.map (fun f => { f with gone := true })
      (lost = false → linkState s m ≠ 5 → ∃ t, exec (.linkSignalChange m los abs) s = .next t ∧
        lnk t m = { lnk s m with los := los, absent := abs, sync := (lnk s m).sync && !los && !abs,
                                 peer := (lnk s m).peer && !los && !abs } ∧ others t ∧ ringOnly t ∧
        (linkState t m ≠ linkState s m → EventSet (40 + m) t)) ∧
      (lost = true → ∃ t, exec (.linkSignalChange m los abs) s = .next t ∧ (lnk t m).los = los ∧ (lnk t m).absent = abs ∧
        (lnk t m).sync = false ∧ (lnk t m).peer = false ∧ (lnk t m).rx = (if 4 ≤ linkState s m then [] else gone (lnk s m).rx) ∧
        lnk t (partner m) = { lnk s (partner m) with rx := gone (lnk s (partner m)).rx } ∧
        (∀ j, j ≠ m → j ≠ partner m → lnk t j = lnk s j) ∧
        linkState t m ≤ 2 ∧ (linkState s m = 5 → down t ∧ EventSet (40 + m) t) ∧
        (s.power.phase ≠ .off → ∀ g ∈ [34 + m, 38 + m, 42 + m, 42 + partner m], gateHeld t g = 0 ∧
          (if s.power.phase = .stabled then ∃ d ∈ t.peerDue, d.gate = g else flag t (aGateStat g) 1 = true)) ∧
        t.mem = s.mem ∧ t.fab = s.fab)) ∧
    (linkState s m = 5 → ∃ t, exec (.idleNrReceive m) s = .next t ∧ linkState t m = 4 ∧ lnk t m = { lnk s m with peer := false } ∧ others t ∧
      down t ∧ EventSet (40 + m) t ∧ t.mem = s.mem ∧ t.fab = s.fab) ∧
    (linkState s m ≠ 5 → ∃ t, exec (.idleNrReceive m) s = .next t ∧ lnk t m = { lnk s m with peer := false } ∧ others t ∧ ringOnly t) ∧
    (∀ v : Word,
      (awake s = true → ∃ t, exec (.ringRateWrite v) s = .next t ∧ getReg t (aRing 0x00) = v &&& 3#32 ∧ t.mem = s.mem ∧ t.fab = s.fab ∧
        (bits v 1 0 = fld s (aRing 0x00) 1 0 → t = { s with regs := t.regs } ∧ RegsKept s t [aRing 0x00]) ∧
        (bit v (m / 2) = flag s (aRing 0x00) (m / 2) → lnk t m = lnk s m) ∧
        (bit v (m / 2) ≠ flag s (aRing 0x00) (m / 2) → (lnk t m).sync = false ∧ (lnk t m).peer = false ∧ (lnk t m).los = (lnk s m).los ∧
          (lnk t m).absent = (lnk s m).absent ∧ (linkState s m = 5 → linkState t m = 3 ∧ EventSet (40 + m) t))) ∧
      (awake s = false → ∀ i ∈ [Instr.ringRateWrite v, .modRead v, .modWrite v], exec i s = .next s) ∧
      (awake s = true → flag s (aRing 0x20) 31 = false → ∀ e ∈ [(Instr.modRead v, false), (.modWrite v, true)],
        ∃ t, exec e.1 s = .next t ∧ flag t (aRing 0x20) 31 = true ∧ flag t (aRing 0x20) 28 = e.2 ∧
          bits (getReg t (aRing 0x20)) 27 26 = bits v 27 26 ∧ bits (getReg t (aRing 0x20)) 23 17 = bits v 23 17 ∧
          bits (getReg t (aRing 0x20)) 15 8 = bits v 15 8 ∧
          t.ring.modBus = some { switch := if fld s (aRing 0x28) 6 0 = 0 then none
                                           else some (fld s (aRing 0x28) 6 0, BitVec.ofNat 8 (2 ^ bits v 27 26)),
                                 dev := bits v 23 17, reg := bits v 15 8,
                                 data := if e.2 then some (BitVec.ofNat 8 (fld s (aRing 0x24) 7 0)) else none } ∧
          t = { s with regs := t.regs, ring := { s.ring with modBus := t.ring.modBus } } ∧ RegsKept s t [aRing 0x20]) ∧
      (awake s = true → flag s (aRing 0x20) 31 = true → ∀ i ∈ [Instr.modRead v, .modWrite v],
        ∃ t, exec i s = .next t ∧ flag t (aRing 0x04) 4 = true ∧ t = { s with regs := t.regs } ∧ RegsKept s t [aRing 0x04])) ∧
    (∀ (ack : Bool) (data : Byte) (b : ModBus), awake s = true → flag s (aRing 0x20) 31 = true → s.ring.modBus = some b →
      ∃ t, exec (.modAccessDone ack data) s = .next t ∧ flag t (aRing 0x20) 31 = false ∧ flag t (aRing 0x20) 30 = !ack ∧
        getReg t (aRing 0x24) = (if ack = true ∧ b.data = none then wd data.toNat else getReg s (aRing 0x24)) ∧
        t = { s with regs := t.regs, ring := { s.ring with modBus := none } } ∧ RegsKept s t [aRing 0x20, aRing 0x24]) ∧
    (∀ (ack : Bool) (data : Byte), (awake s = false ∨ flag s (aRing 0x20) 31 = false) → exec (.modAccessDone ack data) s = .next s)

/-- R494, R501–R503, R505–R508, R510, R769, R580: at its header a frame of this node's own is stripped, one for this node alone is taken
and not passed on, and another starts onward at once through a free transmitter in UP and is discarded at one that is not. A reception
that ends badly is counted by its cause. A good frame ends its onward copy with EOF, or waits whole for the transmitter; one that is taken
goes to gate 38 + m unless its words find no room or it is a duplicate; a filler has no other effect. The switch takes the first frame for
it in that gate. A free transmitter starts this node's own frame, express before normal, in Stabled only HELLO and REPORT; at a boundary an
express one, or a filler when the received frame is itself suspended, suspends a normal one; a copy that ends is counted. Without RING_KEEP
the transmitters stand still in Stabled. Completes: frameHeaderDecode, frameEnd,
ringFrameDeliver, txFrameStart, preemptionPoint. The size of a gate word is the model's reading (log entry 24). -/
def Obligations.RingFrames : Prop :=
  ∀ (s : State) (m : Nat), m < 4 → let p := partner m
    (∀ (w : Word) (junc : Bool), 4 ≤ linkState s m → (lnk s m).rx = [] → s.nodeId ≠ 0 →
      (bits w 31 20 = s.nodeId → ∃ t rx, exec (.frameHeaderDecode m w junc) s = .next t ∧ (lnk t m).rx = [rx] ∧ rx.word0 = w ∧
        rx.pass = false ∧ rx.take = false ∧ rx.alone = false ∧ getReg t (aRing 0x50) = getReg s (aRing 0x50) + 1 ∧
        (∀ j, j ≠ m → lnk t j = lnk s j) ∧ t = { s with regs := t.regs, ring := { s.ring with links := t.ring.links } } ∧
        RegsKept s t [aRing 0x50]) ∧
      (bits w 31 20 ≠ s.nodeId → s.ring.stripOn = false → (flag s (aRing 0x424) 0 && junc) = false →
        (word0Ok w = true → bit w 5 = false → (bits w 19 8 = s.nodeId ∨ bits w 19 8 = 0) →
          ∃ t rx, exec (.frameHeaderDecode m w junc) s = .next t ∧ (lnk t m).rx = [rx] ∧ rx.word0 = w ∧ rx.pass = false ∧
            rx.take = (decide (phaseCode s.power.phase ≠ 1) || decide (bits w 3 0 = 8)) ∧ rx.startAt = none ∧
            t = { s with ring := { s.ring with links := t.ring.links } }) ∧
        (bit w 5 = false → bits w 19 8 ≠ s.nodeId → bits w 19 8 ≠ 0 → bits w 19 8 ≠ 0xFFF →
          (linkUp s p = true → txOf s p = {} → fwdQ s p = [] → (bit w 4 = true ∨ ∀ f ∈ txQ s p, ownReady s true f = false) →
            ∃ t rx, exec (.frameHeaderDecode m w junc) s = .next t ∧ (lnk t m).rx = [rx] ∧ rx.word0 = w ∧ rx.pass = true ∧
              rx.take = false ∧ rx.startAt = some (stampNow s) ∧ txOf t p = { cur := some (.onward (bit w 4) none) } ∧
              t = { s with ring := { s.ring with links := t.ring.links, tx := t.ring.tx } }) ∧
          (linkUp s p = false → ∃ t rx, exec (.frameHeaderDecode m w junc) s = .next t ∧ (lnk t m).rx = [rx] ∧ rx.word0 = w ∧
            rx.gone = true ∧ getReg t (aLink p 0x30) = satAdd (getReg s (aLink p 0x30)) 1 ∧
            t = { s with regs := t.regs, ring := { s.ring with links := t.ring.links } } ∧ RegsKept s t [aLink p 0x30])))) ∧
    (∀ (w : Word) (junc : Bool), linkState s m < 4 → exec (.frameHeaderDecode m w junc) s = .next s ∧
      ∀ bs fin soe, exec (.frameEnd m bs fin soe) s = .next s) ∧
    (∀ (bs : List Byte) (soe : Bool), 4 ≤ linkState s m → bs.length < 4 →
      ((soe = true ∨ (lnk s m).rx ≠ []) → bs = [] → exec (.frameEnd m bs .abort soe) s = .next s) ∧
      (((soe = false ∧ (lnk s m).rx = []) ∨ bs ≠ []) → ∃ t, exec (.frameEnd m bs .abort soe) s = .next t ∧
        getReg t (aLink m 0x28) = satAdd (getReg s (aLink m 0x28)) 1 ∧ t = { s with regs := t.regs } ∧ RegsKept s t [aLink m 0x28]) ∧
      (∀ e ∈ [(FrameEnd.bad, 0x1C), (.eof, if bs.isEmpty then 0x1C else 0x24)], ∃ t, exec (.frameEnd m bs e.1 soe) s = .next t ∧
        (lnk t m).rx = (lnk s m).rx ∧ getReg t (aLink m e.2) = satAdd (getReg s (aLink m e.2)) 1 ∧
        t = withEvents { s with ring := { s.ring with links := t.ring.links } } t ∧ RegsKeptE s t [aLink m e.2, aLink m 0x04])) ∧
    (∀ (rx : RxFrame) (r : List RxFrame) (bs : List Byte) (fin : FrameEnd) (soe : Bool), 4 ≤ linkState s m → (lnk s m).rx = rx :: r → 4 ≤ bs.length →
      rx.full = false →
      let cause := badCause (fwdRoom s p rx) bs fin
      let f : Frame := { frameOf rx.word0 bs with rxAt := rx.rxAt, rxOn := m }
      let ok := word0Ok rx.word0 = true ∧ hdrRestOk rx.word0 bs = true ∧ destFits f = true
      (rx.startAt = none →
        (∀ e ∈ [(BadCause.hops, aRing 0x54), (.full, aLink p 0x2C), (.link 0x28 false, aLink m 0x28)], cause = some e.1 →
          ∃ t, exec (.frameEnd m bs fin soe) s = .next t ∧ lnk t m = { lnk s m with rx := r } ∧ getReg t e.2 = satAdd (getReg s e.2) 1 ∧
            t = { s with regs := t.regs, ring := { s.ring with links := t.ring.links } } ∧ RegsKept s t [e.2]) ∧
        (cause = some .plen → ∃ t, exec (.frameEnd m bs fin soe) s = .next t ∧ lnk t m = { lnk s m with rx := r } ∧
          getReg t (aRing 0x58) = satAdd (getReg s (aRing 0x58)) 1 ∧ flag t (aRing 0x04) 2 = true ∧
          t = { s with regs := t.regs, ring := { s.ring with links := t.ring.links } } ∧ RegsKept s t [aRing 0x58, aRing 0x04]) ∧
        (∀ c, cause = some (.link c true) → ∃ t, exec (.frameEnd m bs fin soe) s = .next t ∧ (lnk t m).rx = r ∧
          getReg t (aLink m c) = satAdd (getReg s (aLink m c)) 1 ∧
          t = withEvents { s with ring := { s.ring with links := t.ring.links } } t ∧ RegsKeptE s t [aLink m c, aLink m 0x04])) ∧
      (cause = none → ok → rx.pass = false → rx.take = true → payloadOk f = true →
        let fresh := decide (f.src = 0 ∨ (f.dest = 0 ∧ f.dkind = false)) || (dupTest f.src f.seq s).1
        ∃ t, exec (.frameEnd m bs fin soe) s = .next t ∧ (lnk t m).rx = r ∧
          getReg t (aLink m 0x0C) = getReg s (aLink m 0x0C) + 1 ∧
          tabGet (fun _ => []) t.ring.inq m = tabGet (fun _ => []) s.ring.inq m ++
            (if fresh = true ∧ inqWords s m + frameWords s f ≤ 64 then [f] else []) ∧
          (∀ j, j ≠ m → tabGet (fun _ => []) t.ring.inq j = tabGet (fun _ => []) s.ring.inq j) ∧
          getReg t (aRing 0x40) = getReg s (aRing 0x40) + (if fresh = true ∧ inqWords s m + frameWords s f ≤ 64 then 1 else 0) ∧
          getReg t (aRing 0x60) =
            (if fresh = true ∧ 64 < inqWords s m + frameWords s f then satAdd (getReg s (aRing 0x60)) 1 else getReg s (aRing 0x60)) ∧
          t.mem = s.mem ∧ t.fab = s.fab ∧ t.ring.tx = s.ring.tx ∧ t.engs = s.engs) ∧
      (cause = none → rx.pass = false → rx.alone = false → ¬ ok → ∃ t, exec (.frameEnd m bs fin soe) s = .next t ∧ (lnk t m).rx = r ∧
        getReg t (aRing 0x5C) = satAdd (getReg s (aRing 0x5C)) 1 ∧ flag t (aRing 0x04) 3 = true ∧
        getReg t (aLink m 0x0C) = getReg s (aLink m 0x0C) + 1 ∧
        t = { s with regs := t.regs, ring := { s.ring with links := t.ring.links } } ∧
        RegsKept s t [aRing 0x5C, aRing 0x04, aLink m 0x0C]) ∧
      (cause = none → ok → rx.pass = true → rx.take = false → rx.gone = false → flag s (aRing 0x424) 0 = false →
        (∀ t0, rx.startAt = some t0 → txOf s p = { cur := some (.onward rx.express none) } →
          ∃ t, exec (.frameEnd m bs fin soe) s = .next t ∧ lnk t m = { lnk s m with rx := r } ∧ txOf t p = {} ∧
            tabGet (fun _ => []) t.ring.out p = onwardBytes s m rx.word0 rx.rxAt t0 bs ∧
            getReg t (aLink m 0x0C) = getReg s (aLink m 0x0C) + 1 ∧ getReg t (aLink p 0x10) = getReg s (aLink p 0x10) + 1 ∧
            getReg t (aLink p 0x14) = getReg s (aLink p 0x14) + 1 ∧
            t = { s with regs := t.regs, ring := { s.ring with links := t.ring.links, tx := t.ring.tx, out := t.ring.out } } ∧
            RegsKept s t [aLink m 0x0C, aLink p 0x10, aLink p 0x14]) ∧
        (rx.startAt = none → ∃ t, exec (.frameEnd m bs fin soe) s = .next t ∧ lnk t m = { lnk s m with rx := r } ∧
          fwdQ t p = fwdQ s p ++ [{ express := rx.express, bytes := bs, from_ := m, rxAt := rx.rxAt }] ∧
          t = { s with regs := t.regs, ring := { s.ring with links := t.ring.links, fwd := t.ring.fwd } } ∧
          RegsKept s t [aLink m 0x0C]))) ∧
    (awake s = true → ∀ f, (ringQ s m).find? forSwitch = some f → tunWaits s f = false →
      ∃ t, exec (.ringFrameDeliver m) s = .next t ∧ ringQ t m = (ringQ s m).eraseP forSwitch ∧ (∀ j, j ≠ m → ringQ t j = ringQ s j) ∧
        (2 ≤ f.typ → t = { s with ring := { s.ring with inq := t.ring.inq }, fab := { s.fab with arrived := s.fab.arrived ++ [f] } })) ∧
    ((awake s = false ∨ (ringQ s m).find? forSwitch = none ∨ ∃ f, (ringQ s m).find? forSwitch = some f ∧ tunWaits s f = true) →
      exec (.ringFrameDeliver m) s = .next s) ∧
    (∀ (part : Nat) (held coming : Bool), ringStopped s = true →
      exec (.txFrameStart m part held coming) s = .next s ∧ exec (.preemptionPoint m part held) s = .next s) ∧
    (∀ (part : Nat) (held coming : Bool), s.power.phase = .stabled → (∀ f ∈ txQ s m, mayLeave s f = false) → fwdQ s m = [] →
      (lnk s p).rx = [] → txOf s m = {} → exec (.txFrameStart m part held coming) s = .next s) ∧
    (∀ (f : Frame) (r : List Frame) (part : Nat) (held coming : Bool), linkUp s m = true → fwdQ s m = [] → (lnk s p).rx = [] →
      txQ s m = f :: r → (∀ g ∈ f :: r, awaitsGate g = false ∧ g.cell = none) → f.typ ≠ 7 → f.bad = false → f.adm = false →
      ringStopped s = false → mayLeave s f = true →
      (txOf s m = {} → f.exp = true → part + frameLen s f ≤ 512 → ∃ t, exec (.txFrameStart m part held coming) s = .next t ∧
        txOf t m = { cur := some (.own f (frameBytes f f.payload)) } ∧ txQ t m = r ∧ (∀ j, j ≠ m → txOf t j = txOf s j ∧ txQ t j = txQ s j) ∧
        t = { s with ring := { s.ring with tx := t.ring.tx, txq := t.ring.txq } }) ∧
      (txOf s m = {} → (∀ g ∈ f :: r, g.exp = false) → part = 0 → coming = false →
        ∃ t, exec (.txFrameStart m part held coming) s = .next t ∧
        txOf t m = { cur := some (.own f (frameBytes f f.payload)) } ∧ txQ t m = r ∧ (∀ j, j ≠ m → txOf t j = txOf s j ∧ txQ t j = txQ s j) ∧
        t = { s with ring := { s.ring with tx := t.ring.tx, txq := t.ring.txq } }) ∧
      (∀ g bs, txOf s m = { cur := some (.own g bs) } → g.exp = false → f.exp = true → part + frameLen s f ≤ 512 →
        ∃ t, exec (.preemptionPoint m part held) s = .next t ∧
          txOf t m = { cur := some (.own f (frameBytes f f.payload)), susp := some (.own g bs) } ∧ txQ t m = r ∧
          getReg t (aLink m 0x18) = getReg s (aLink m 0x18) + 1 ∧
          t = { s with regs := t.regs, ring := { s.ring with tx := t.ring.tx, txq := t.ring.txq } } ∧ RegsKept s t [aLink m 0x18])) ∧
    (∀ (g : Frame) (bs : List Byte) (part : Nat) (held coming : Bool), txQ s m = [] → fwdQ s m = [] → (lnk s p).rx = [] →
      ringStopped s = false →
      (txOf s m = { cur := some (.own g bs) } → g.cell = none → ∃ t, exec (.txFrameStart m part held coming) s = .next t ∧ txOf t m = {} ∧
        tabGet (fun _ => []) t.ring.out m = bs ∧ getReg t (aLink m 0x10) = getReg s (aLink m 0x10) + 1 ∧
        t = { s with regs := t.regs, ring := { s.ring with tx := t.ring.tx, out := t.ring.out } } ∧ RegsKept s t [aLink m 0x10]) ∧
      (txOf s m = { cur := some (.onward false none) } → ∃ t, exec (.preemptionPoint m part true) s = .next t ∧
        txOf t m = { cur := none, susp := some (.onward false none) } ∧ getReg t (aLink m 0x18) = getReg s (aLink m 0x18) + 1 ∧
        t = { s with regs := t.regs, ring := { s.ring with tx := t.ring.tx } } ∧ RegsKept s t [aLink m 0x18]))

/-- R523–R532, R544, R550: a node sends a HELLO on each link in UP and shows READY 60 ms after a reset. A HELLO sets NBR[m], and a running
node relays the request of a ready node in HALTER to the manager; a neighbour not heard is dropped, unless its HELLO came in that clock.
The manager queues a request for software, or with automatic admission grants a free ID; others ignore it. An ASSIGN enters MEMBER; one
for this node brings it from HALTER to RUNNING, says that it is refused, or evicts it. A refused ADM_CMD sets ERR, and an accepted one
changes MEMBER and sends its ASSIGN; in Stabled it has no effect. Completes: helloSend, helloReceive, nbrExpiry, helloReadyHoldEnd,
admitReqReceive, assignReceive, admGranted, admRefused, admEvicted. What a refused ADM_CMD stores, and the 100 ms, are the model's
readings (log entries 28, 32 and 34). -/
def Obligations.Admission : Prop :=
  ∀ (s : State) (m : Nat), m < 4 →
    let taken := fun (p : Frame → Bool) (t : State) => ringQ t m = (ringQ s m).eraseP p ∧ ∀ j, j ≠ m → ringQ t j = ringQ s j
    let inqOf := fun (t : State) => { s with ring := { s.ring with inq := t.ring.inq } }
    (∃ t, exec .helloSend s = .next t ∧ t = { s with ring := { s.ring with txq := t.ring.txq } } ∧
      ∀ j, txQ t j = if sendsHello s = true ∧ linkUp s j = true ∧ j < 4
        then txQ s j ++ [{ typ := 8, exp := true, dest := 0, src := s.nodeId,
                           payload := mgtPayload 0 (j + 4 * b2n (readyShown s) + 8 * b2n (decide (fld s (aRing 0x400) 1 0 ≠ 0)))
                             (phaseCode s.power.phase) s.nodeId (fld s (aRing 0x418) 11 0) s.duid (bytesLE 16 0) }]
        else txQ s j) ∧
    (∀ k, (ringQ s m).find? (isMgt k) = none → ∀ e ∈ [(0, Instr.helloReceive m), (2, .admitReqReceive m), (3, .assignReceive m)], e.1 = k →
      exec e.2 s = .next s) ∧
    (∀ f, (ringQ s m).find? (isMgt 0) = some f → let st := mgtHalf2 f % 8
      ∃ t, exec (.helloReceive m) s = .next t ∧ taken (isMgt 0) t ∧ getReg t (aRing (0x480 + 16 * m)) = lo32 (mgtDuid f) ∧
        getReg t (aRing (0x484 + 16 * m)) = hi32 (mgtDuid f) ∧
        getReg t (aRing (0x488 + 16 * m)) = wd (2 ^ 31 + st * 65536 + mgtByte1 f % 4 * 4096 + mgtHalf4 f % 4096) ∧
        tabGet (fun _ => none) t.ring.mgr.heardAt m = some s.now ∧
        ((s.power.phase ≠ .running ∨ st ≠ 1 ∨ (mgtByte1 f).testBit 2 = false) →
          t = withEvents { inqOf t with ring := { (inqOf t).ring with mgr := { s.ring.mgr with heardAt := t.ring.mgr.heardAt } } } t ∧
          RegsKeptE s t [aRing (0x480 + 16 * m), aRing (0x484 + 16 * m), aRing (0x488 + 16 * m)]) ∧
        (s.power.phase = .running → st = 1 → (mgtByte1 f).testBit 2 = true → isMgr s = false → fld s (aRing 0x408) 11 0 ≠ 0 →
          tabGet (fun _ => none) s.ring.mgr.reqAt m = none → tabGet (fun _ => none) t.ring.mgr.reqAt m = some s.now ∧
          ∃ g ∈ txQ t 0, g.typ = 8 ∧ g.dest = fld s (aRing 0x408) 11 0 ∧
            g.payload = mgtPayload 2 m 0 (mgtHalf6 f % 4096) (fld s (aRing 0x41C) 11 0) (mgtDuid f)
              (bytesLE 2 (fld s (aRing 0x41C) 27 16) ++ bytesLE 14 0))) ∧
    ((tabGet (fun _ => none) s.ring.mgr.heardAt m ≠ some s.now → flag s (aRing (0x488 + 16 * m)) 31 = true →
      ∃ t, exec (.nbrExpiry m) s = .next t ∧ flag t (aRing (0x488 + 16 * m)) 31 = false ∧
        flag t (aRing 0x404) 12 = true ∧ (flag s (aRing 0x404) 12 = false → EventSet 49 t) ∧ t = withEvents s t ∧
        RegsKeptE s t [aRing (0x488 + 16 * m)])) ∧
    ((tabGet (fun _ => none) s.ring.mgr.heardAt m = some s.now ∨ flag s (aRing (0x488 + 16 * m)) 31 = false) →
      exec (.nbrExpiry m) s = .next s) ∧
    (s.power.phase ≠ .off → s.ring.mgr.readyHold = true → ∃ t, exec .helloReadyHoldEnd s = .next t ∧ t.ring.mgr.readyHold = false ∧
      t = { s with ring := { s.ring with mgr := { s.ring.mgr with readyHold := false }, txq := t.ring.txq } }) ∧
    ((s.power.phase = .off ∨ s.ring.mgr.readyHold = false) → exec .helloReadyHoldEnd s = .next s) ∧
    (∀ f, (ringQ s m).find? (isMgt 2) = some f → let d := mgtDuid f
      let decided := s.ring.mgr.decided.any (fun e => decide (e.1 = d) && decide (s.now - e.2 < 100 * msClocks))
      ((isMgr s = false ∨ decided = true ∨ (flag s (aRing 0x400) 4 = false ∧ admqHolds s d = true)) →
        ∃ t, exec (.admitReqReceive m) s = .next t ∧ taken (isMgt 2) t ∧ t = inqOf t) ∧
      (isMgr s = true → decided = false → flag s (aRing 0x400) 4 = false → admqHolds s d = false → admqFill s < 16 →
        let a := aRing (0x500 + 16 * (fld s (aRing 0x430) 4 0 % 16))
        ∃ t, exec (.admitReqReceive m) s = .next t ∧ taken (isMgt 2) t ∧ flag t (aRing 0x404) 8 = true ∧
          getReg t a = lo32 d ∧ getReg t (a + 4) = hi32 d ∧ getReg t (a + 8) = wd (mgtHalf4 f % 4096 + 65536 * (f.src % 65536)) ∧
          getReg t (aRing 0x430) = wd ((fld s (aRing 0x430) 4 0 + 1) % 32) ∧
          (flag s (aRing 0x404) 8 = false → EventSet 48 t) ∧ t = withEvents (inqOf t) t ∧
          RegsKeptE s t [aRing 0x430, a, a + 4, a + 8, a + 12]) ∧
      (isMgr s = true → decided = false → flag s (aRing 0x400) 4 = false → admqHolds s d = false → admqFill s = 16 →
        ∃ t, exec (.admitReqReceive m) s = .next t ∧ taken (isMgt 2) t ∧ flag t (aRing 0x404) 15 = true ∧
          t = { inqOf t with regs := t.regs } ∧ RegsKept s t [aRing 0x404]) ∧
      (∀ id, isMgr s = true → decided = false → flag s (aRing 0x400) 4 = true → mgtHalf4 f % 4096 = 0 → memberId s d = none →
        memberFree s (mgtHalf6 f % 4096) (fieldLE f.payload 16 2 % 4096) = some id → originates s = true →
        ∃ t, exec (.admitReqReceive m) s = .next t ∧ taken (isMgt 2) t ∧ member t id = d ∧ t.nodeId = s.nodeId ∧ t.power = s.power ∧
          ∃ g ∈ txQ t 0, g.typ = 8 ∧ g.dest = 0xFFF ∧ g.payload = mgtPayload 3 0 0 id 0 d [])) ∧
    (∀ f, (ringQ s m).find? (isMgt 3) = some f → let id := mgtHalf4 f % 4096; let d := mgtDuid f
      (d ≠ s.duid → ∃ t, exec (.assignReceive m) s = .next t ∧ taken (isMgt 3) t ∧
        member t id = (if mgtByte1 f = 0 then d else if (mgtByte1 f = 3 ∨ mgtByte1 f = 4) ∧ member s id = d then 0 else member s id) ∧
        (∀ j < 4096, j ≠ id → member t j = member s j) ∧ t = withEvents (inqOf t) t ∧
        RegsKeptE s t [aRing (0x8000 + 8 * id), aRing (0x8004 + 8 * id)]) ∧
      (mgtByte1 f = 0 → d = s.duid → s.power.phase = .halter → ∃ t, exec (.assignReceive m) s = .next t ∧ taken (isMgt 3) t ∧
        t.nodeId = id ∧ t.power = { s.power with phase := .running } ∧ member t id = s.duid ∧ t.csGen = s.csGen + 2 ∧ EventSet 99 t ∧
        getReg t (aRing 0x450) = getReg s (aRing 0x450) + 1 ∧ t.mem = s.mem ∧ t.engs = s.engs) ∧
      ((mgtByte1 f = 1 ∨ mgtByte1 f = 2) → d = s.duid → s.power.phase = .halter → ∃ t, exec (.assignReceive m) s = .next t ∧
        taken (isMgt 3) t ∧ flag t (aRing 0x404) 9 = true ∧ (flag s (aRing 0x404) 9 = false → EventSet 48 t) ∧
        t = withEvents (inqOf t) t ∧ RegsKeptE s t []) ∧
      (mgtByte1 f = 4 → d = s.duid → s.power.phase = .running → id = s.nodeId → ∃ t, exec (.assignReceive m) s = .next t ∧
        taken (isMgt 3) t ∧ t.nodeId = 0 ∧ t.power = { s.power with phase := .halter } ∧ flag t (aRing 0x404) 10 = true ∧
        t.csGen = s.csGen + 2 ∧ EventSet 99 t ∧ t.mem = s.mem ∧ t.engs = s.engs)) ∧
    (∀ id : BitVec 12, let acts := [(0, Instr.admGranted id), (1, .admRefused id), (2, .admEvicted id)]
      (awake s = false → ∀ e ∈ acts, exec e.2 s = .next s) ∧
      (awake s = true → ∀ e ∈ acts, admRefused s e.1 id.toNat = true → ∃ t, exec e.2 s = .next t ∧ flag t (aRing 0x440) 30 = true ∧
        flag t (aRing 0x440) 31 = flag s (aRing 0x440) 31 ∧ fld t (aRing 0x440) 11 0 = id.toNat ∧ t = { s with regs := t.regs } ∧
        RegsKept s t [aRing 0x440]) ∧
      (originates s = true → ∀ e ∈ acts, admRefused s e.1 id.toNat = false → admDuid s ≠ s.duid →
        (e.1 = 0 → memberId s (admDuid s) = none ∨ memberId s (admDuid s) = some id.toNat) →
        ∃ t, exec e.2 s = .next t ∧ flag t (aRing 0x440) 30 = false ∧ flag t (aRing 0x440) 31 = true ∧ fld t (aRing 0x440) 29 28 = e.1 ∧
          member t id.toNat = (if e.1 = 0 then admDuid s else if e.1 = 1 then member s id.toNat else 0) ∧
          (∃ g ∈ txQ t 0, g.typ = 8 ∧ g.dest = 0xFFF ∧
            g.payload = mgtPayload 3 (if e.1 = 0 then 0 else if e.1 = 1 then 2 else 4) 0 id.toNat 0 (admDuid s) []) ∧
          t.nodeId = s.nodeId ∧ t.power = s.power ∧ t.mem = s.mem))

/-- R533–R537, R550: elections and surveys. A node in HALTER, or a candidate that is not the manager, starts an election, counts it and as a
candidate claims with its own key, unless a SURVEY came in that clock; a CLAIM starts one where no SURVEY is fresh, and a lower key is sent
on. At the end of the quiet period, unless BEST changed in that clock, the node whose key stands becomes manager and in HALTER admits
itself; the others wait for a SURVEY and otherwise start again. The manager sends SURVEYs; one that is taken ends the election, takes the
role from a manager of a higher key, and makes its sender the manager followed; REPORTs mark a member as seen. Completes: electionStart,
electionRestart, claimReceive, electQuietExpiry, surveySend, surveyReceive, reportReceive. None starts in the 60 ms after a reset (R668).
The model's readings: ELECTING after the quiet period (log entry 30), MGR_ID and MGR_DUID of a new manager (33), the claim of a joining
candidate (35), and that a sleeping node takes no part (36). -/
def Obligations.Elections : Prop :=
  ∀ (s : State) (m : Nat), m < 4 →
    let taken := fun (p : Frame → Bool) (t : State) => ringQ t m = (ringQ s m).eraseP p ∧ ∀ j, j ≠ m → ringQ t j = ringQ s j
    let inqOf := fun (t : State) => { s with ring := { s.ring with inq := t.ring.inq } }
    let own := if candidate s then ownKey s else 2 ^ 65 - 1
    (∀ e ∈ [(Instr.electionStart, !s.ring.mgr.quietOver && (decide (s.power.phase = .halter) || (!isMgr s && originates s && candidate s))),
            (.electionRestart, s.ring.mgr.quietOver && (decide (s.power.phase = .halter) || (!isMgr s && originates s)))],
      (e.2 = true → electing s = false → surveyNow s = false → s.ring.mgr.readyHold = false → ∃ t, exec e.1 s = .next t ∧ electing t = true ∧
        getReg t (aRing 0x464) = getReg s (aRing 0x464) + 1 ∧
        t.ring.mgr = { s.ring.mgr with best := own, bestAt := some s.now, quietOver := false } ∧
        t = { s with regs := t.regs, ring := { s.ring with mgr := t.ring.mgr, txq := t.ring.txq } } ∧ RegsKept s t [aRing 0x404, aRing 0x464]) ∧
      ((e.2 = false ∨ electing s = true ∨ surveyNow s = true ∨ s.ring.mgr.readyHold = true) → exec e.1 s = .next s)) ∧
    (∀ k, (ringQ s m).find? (isMgt k) = none → ∀ e ∈ [(1, Instr.claimReceive m), (4, .surveyReceive m), (5, .reportReceive m)], e.1 = k →
      exec e.2 s = .next s) ∧
    (∀ f, (ringQ s m).find? (isMgt 1) = some f → let k := mgtKey f
      ((electsNow s = false ∨ (electing s = true ∧ s.ring.mgr.best ≤ k) ∨ (electing s = false ∧ surveyFresh s = true)) →
        ∃ t, exec (.claimReceive m) s = .next t ∧ taken (isMgt 1) t ∧ t = inqOf t) ∧
      (electsNow s = true → electing s = true → k < s.ring.mgr.best → ∃ t, exec (.claimReceive m) s = .next t ∧ taken (isMgt 1) t ∧
        t.ring.mgr = { s.ring.mgr with best := k, bestAt := some s.now, quietOver := false } ∧
        (s.power.phase = .halter → linkUp s (partner m) = true → flag s (aRing 0x424) 0 = false → ∃ g ∈ txQ t (partner m), g.typ = 8 ∧
          g.payload = mgtPayload 1 (b2n (decide (k < 2 ^ 64))) 0 0 0 (BitVec.ofNat 64 k) []) ∧
        t = { inqOf t with ring := { (inqOf t).ring with mgr := t.ring.mgr, txq := t.ring.txq } }) ∧
      (electsNow s = true → electing s = false → surveyFresh s = false → ∃ t, exec (.claimReceive m) s = .next t ∧ taken (isMgt 1) t ∧
        electing t = true ∧ t.ring.mgr = { s.ring.mgr with best := min own k, bestAt := some s.now, quietOver := false } ∧
        t = { inqOf t with regs := t.regs, ring := { (inqOf t).ring with mgr := t.ring.mgr, txq := t.ring.txq } } ∧
        RegsKept s t [aRing 0x404])) ∧
    (let due := electing s = true ∧ electsNow s = true ∧ s.ring.mgr.quietOver = false ∧ s.ring.mgr.bestAt ≠ some s.now
      let won := (candidate s && decide (s.ring.mgr.best = ownKey s)) = true
      (¬ due → exec .electQuietExpiry s = .next s) ∧
      (due → ¬ won → ∃ t, exec .electQuietExpiry s = .next t ∧ electing t = false ∧ t.ring.mgr = { s.ring.mgr with quietOver := true } ∧
        t = { s with regs := t.regs, ring := { s.ring with mgr := t.ring.mgr } } ∧ RegsKept s t [aRing 0x404]) ∧
      (due → won → originates s = true → ∃ t, exec .electQuietExpiry s = .next t ∧ isMgr t = true ∧ electing t = false ∧
        getReg t (aRing 0x408) = wd s.nodeId ∧ dword (getReg t (aRing 0x414)) (getReg t (aRing 0x410)) = s.duid ∧
        (isMgr s = false → flag s (aRing 0x404) 11 = false → EventSet 51 t) ∧
        (∃ g ∈ txQ t 0, g.typ = 8 ∧ fieldLE g.payload 0 1 = 4 ∧ mgtDuid g = s.duid) ∧
        t.nodeId = s.nodeId ∧ t.power = s.power ∧ t.mem = s.mem) ∧
      (∀ id, due → won → s.power.phase = .halter → fld s (aRing 0x418) 11 0 = id → id ≠ 0 → member s id = 0 →
        ∃ t, exec .electQuietExpiry s = .next t ∧ isMgr t = true ∧ electing t = false ∧ t.nodeId = id ∧
          t.power = { s.power with phase := .running } ∧ member t id = s.duid ∧ getReg t (aRing 0x408) = wd id ∧ t.mem = s.mem)) ∧
    (isMgr s = true → originates s = true → s.ring.mgr.missed = [] → ∃ t, exec .surveySend s = .next t ∧
      t.ring.mgr.survNo = (s.ring.mgr.survNo + 1) % 65536 ∧
      (∃ g ∈ txQ t 0, g.typ = 8 ∧ g.dest = 0xFFF ∧ g.payload = mgtPayload 4 (b2n (decide (fld s (aRing 0x400) 1 0 = 2)))
        (fld s (aRing 0x400) 27 16) ((s.ring.mgr.survNo + 1) % 65536) 0 s.duid []) ∧
      t = { s with regs := t.regs, ring := { s.ring with mgr := t.ring.mgr, txq := t.ring.txq } } ∧ RegsKept s t [aRing 0x0C]) ∧
    ((isMgr s = false ∨ originates s = false) → exec .surveySend s = .next s) ∧
    (∀ f, (ringQ s m).find? (isMgt 4) = some f → let k := mgtKey f
      ∃ t, exec (.surveyReceive m) s = .next t ∧ taken (isMgt 4) t ∧ electing t = false ∧ t.ring.mgr.survAt = some s.now ∧
        t.ring.mgr.survMs = mgtHalf2 f ∧ t.ring.mgr.quietOver = false ∧ isMgr t = (isMgr s && decide (ownKey s ≤ k)) ∧
        (originates s = true → ∃ g ∈ txQ t 0, g.typ = 8 ∧ g.dest = f.src ∧ g.payload = mgtPayload 5 0 0 (mgtHalf4 f) 0 s.duid []) ∧
        t = withEvents { inqOf t with ring := { (inqOf t).ring with mgr := t.ring.mgr } } t ∧
        RegsKeptE s t [aRing 0x408, aRing 0x410, aRing 0x414] ∧
        ((isMgr s = false ∨ k < ownKey s) → s.ring.mgr.follow = [] → mgtHalf2 f ≠ 0 →
          getReg t (aRing 0x408) = wd f.src ∧ dword (getReg t (aRing 0x414)) (getReg t (aRing 0x410)) = mgtDuid f ∧
          (getReg s (aRing 0x408) ≠ wd f.src → flag t (aRing 0x404) 11 = true))) ∧
    (∀ f, (ringQ s m).find? (isMgt 5) = some f →
      (isMgr s = true → member s f.src = mgtDuid f → ∃ t, exec (.reportReceive m) s = .next t ∧ taken (isMgt 5) t ∧
        tabGet (fun _ => 0) t.ring.mgr.missed f.src = 0 ∧
        t = { inqOf t with ring := { (inqOf t).ring with mgr := { s.ring.mgr with missed := t.ring.mgr.missed } } }) ∧
      (isMgr s = true → originates s = true → mgtDuid f ≠ s.duid → f.src < 4096 → member s f.src = 0 → memberId s (mgtDuid f) = none →
        mgtDuid f ≠ 0 → ∃ t, exec (.reportReceive m) s = .next t ∧ taken (isMgt 5) t ∧ member t f.src = mgtDuid f ∧
          ∃ g ∈ txQ t 0, g.typ = 8 ∧ g.dest = 0xFFF ∧ g.payload = mgtPayload 3 0 0 f.src 0 (mgtDuid f) []) ∧
      (isMgr s = false → ∃ t, exec (.reportReceive m) s = .next t ∧ taken (isMgt 5) t ∧ t = inqOf t))

/-! ### Events -/

/-- R139, R543, R644–R648, R652–R656, of an awake node: a pulse that waits in a gate sets the status bit and the routed latch, and its
gate is idle once the acknowledge has arrived; with a remote node its frame is sent, merged into the holdoff, or counted. The end of a
holdoff sends what was merged and begins a new one unless HOLD is 0. SWE_SET sets the event of each bit written, one that a swe of the
same clock has set only once. Otherwise the unit stands still. A running node writes a remote event to the REVT ring, which loses it when
it is full. Completes: eventSetting, evtHoldoffEnd, sweSet, evtFrameReceive. That an EVT frame is dropped outside RUNNING (log entry 37) and
the operand for the acknowledge (74) are the model's readings and choices. -/
def Obligations.EventUnit : Prop :=
  ∀ s : State,
    (∀ n acked, awake s = true → n < 128 →
      (pulseSt s n = .request → evtReserved s n = false →
        ∃ t, exec (.eventSetting n acked) s = .next t ∧ flag t (aEvtStat n) (n % 32) = true ∧
          (flag s (aEvtRoute n) 8 = true → latchOf t (fld s (aEvtRoute n) 7 4) (fld s (aEvtRoute n) 2 0) = true) ∧
          t = withEvents s t ∧ RegsKeptE s t [] ∧
          (fld s (aEvtRoute n) 27 16 = 0 → pulseSt t n = (if acked then .idle else .ack) ∧ (∀ j, j ≠ n → pulseSt t j = pulseSt s j) ∧
            t.ring = s.ring ∧ t.evtHold = s.evtHold ∧ RegsKept s t [aEvtStat n]) ∧
          (fld s (aEvtRoute n) 27 16 ≠ 0 → fld s (aEvtRoute n) 27 16 ≠ s.nodeId → originates s = true →
            (tabGet (fun _ => none) s.evtHold n = none ∨ fld s (aNode 0x1060) 7 0 = 0) →
            getReg t (aNode 0x1064) = getReg s (aNode 0x1064) + 1 ∧
            (fld s (aNode 0x1060) 7 0 ≠ 0 → tabGet (fun _ => none) t.evtHold n = some {}) ∧
            ∃ g ∈ txQ t 0, g.typ = 9 ∧ g.dest = fld s (aEvtRoute n) 27 16 ∧ g.payload = bytesLE 8 n ++ bytesLE 8 s.time.ft.toNat) ∧
          (∀ h, fld s (aEvtRoute n) 27 16 ≠ 0 → fld s (aNode 0x1060) 7 0 ≠ 0 → tabGet (fun _ => none) s.evtHold n = some h →
            t.ring = s.ring ∧ (h.merged = true → getReg t (aNode 0x1068) = getReg s (aNode 0x1068) + 1) ∧
            (h.merged = false → tabGet (fun _ => none) t.evtHold n = some { merged := true, first := s.time.ft }))) ∧
      (pulseSt s n = .ack → exec (.eventSetting n acked) s = .next (setPulse n .idle s)) ∧
      (pulseSt s n = .idle → exec (.eventSetting n acked) s = .next s)) ∧
    (∀ n acked v joined, awake s = false → exec (.eventSetting n acked) s = .next s ∧ exec (.evtHoldoffEnd n) s = .next s ∧
      exec (.sweSet v joined) s = .next s) ∧
    (∀ n, tabGet (fun _ => none) s.evtHold n = none → exec (.evtHoldoffEnd n) s = .next s) ∧
    (∀ n h, awake s = true → tabGet (fun _ => none) s.evtHold n = some h →
      ((h.merged = false ∨ fld s (aEvtRoute n) 27 16 = 0) → ∃ t, exec (.evtHoldoffEnd n) s = .next t ∧
        tabGet (fun _ => none) t.evtHold n = none ∧
        (∀ j, j ≠ n → tabGet (fun _ => none) t.evtHold j = tabGet (fun _ => none) s.evtHold j) ∧ t = { s with evtHold := t.evtHold }) ∧
      (h.merged = true → fld s (aEvtRoute n) 27 16 ≠ 0 → originates s = true → fld s (aEvtRoute n) 27 16 ≠ s.nodeId →
        ∃ t, exec (.evtHoldoffEnd n) s = .next t ∧
          tabGet (fun _ => none) t.evtHold n = (if fld s (aNode 0x1060) 7 0 = 0 then none else some {}) ∧
          getReg t (aNode 0x1064) = getReg s (aNode 0x1064) + 1 ∧ getReg t (aRing 0x0C) = wd ((fld s (aRing 0x0C) 15 0 + 1) % 65536) ∧
          (∃ g ∈ txQ t 0, g.typ = 9 ∧ g.payload = bytesLE 8 n ++ bytesLE 8 h.first.toNat) ∧
          t = { s with regs := t.regs, evtHold := t.evtHold, ring := { s.ring with txq := t.ring.txq } } ∧
          RegsKept s t [aNode 0x1064, aRing 0x0C])) ∧
    (∀ v joined : Word, awake s = true → ∃ t, exec (.sweSet v joined) s = .next t ∧
      (∀ b < 16, flag t (aNode 0x100C) (16 + b) = (flag s (aNode 0x100C) (16 + b) || bit v b)) ∧
      t = withEvents s t ∧ RegsKeptE s t [] ∧
      ((∀ b < 16, fld s (aEvtRoute (112 + b)) 27 16 = 0) → (∀ b < 16, flag t (aNode 0x100C) b = flag s (aNode 0x100C) b) ∧
        t = { s with regs := t.regs, latch := t.latch } ∧ RegsKept s t [aNode 0x100C])) ∧
    (∀ m, m < 4 → let isEvt := fun (f : Frame) => decide (f.typ = 9); let inqOf := fun (t : State) => { s with ring := { s.ring with inq := t.ring.inq } }
      ((ringQ s m).find? isEvt = none → exec (.evtFrameReceive m) s = .next s) ∧
      ∀ f, (ringQ s m).find? isEvt = some f →
        let h := fld s (aRing 0x444) 5 0; let a := aRing (0x600 + 0x10 * (h % 32)); let full := (h + 64 - fld s (aRing 0x448) 5 0) % 64 = 32
        ∃ t, exec (.evtFrameReceive m) s = .next t ∧ ringQ t m = (ringQ s m).eraseP isEvt ∧ (∀ j, j ≠ m → ringQ t j = ringQ s j) ∧
          (s.power.phase ≠ .running → t = inqOf t) ∧
          (s.power.phase = .running → full → getReg t (aRing 0x458) = satAdd (getReg s (aRing 0x458)) 1 ∧ flag t (aRing 0x404) 14 = true ∧
            t = { inqOf t with regs := t.regs } ∧ RegsKept s t [aRing 0x458, aRing 0x404]) ∧
          (s.power.phase = .running → ¬ full → getReg t (aRing 0x444) = wd ((h + 1) % 64) ∧
            getReg t a = wd (f.src + 65536 * (fieldLE f.payload 0 1 % 256)) ∧ getReg t (a + 8) = lo32 (BitVec.ofNat 64 (fieldLE f.payload 8 8)) ∧
            getReg t (a + 12) = hi32 (BitVec.ofNat 64 (fieldLE f.payload 8 8)) ∧ flag t (aRing 0x404) 13 = true ∧
            (flag s (aRing 0x404) 13 = false → EventSet 52 t) ∧ t = withEvents (inqOf t) t ∧ RegsKeptE s t []))

/-! ### CAN -/

/-- R590–R593, R612, R613, R621, R36, of an awake node: a write of CTL with INIT takes a controller out of bus traffic and clears its
error counters, at once or behind the frame in progress; a value that R618 or R621 refuses, and INIT while it is bus-off, set only
CFG_ERR. Eleven recessive bits end INTEGRATING, or bring INIT when that waits. RECOVER takes it from bus-off to RECOVERING, and out of
INIT to INTEGRATING; the recovery ends with counters of 0. An error in reception raises REC, 128 make the controller error-passive. In
Stabled nothing happens. Completes: canInit, canIntegrationDone, canRecover, canRecoveryDone, canReceiveError. R590, R597–R603, R143,
R162, R622: reception. A good frame lowers REC and is counted; one that passes no filter is counted apart; one that passes is recorded
with the counts of its start of frame and goes to gate 92, waits in the stage while that is full, and overruns it. An FD frame with FDEN 0
is an error. The switch delivers the frame at the head of the gate once it holds a pair of the CAN clock: into the receive FIFO as one
record. The receive FIFO is read word by word; empty it sets UNDER; in Stabled nothing is taken. Completes: canFrameReceive,
canFrameDeliver, canRxRead. -/
def Obligations.CanStates : Prop :=
  (∀ (s : State) (k : Nat), k < 2 →
     let st := canState s k
     let n := nbtBit (getReg s (aCan k 0x0C))
     let bad := fun (v : Word) => bits v 9 8 = 3 ∨ (bits v 9 8 = 2 ∧ ¬ (160 ≤ n ∧ n ≤ 1600)) ∨ (bit v 1 ≠ flag s (aCan k 0x00) 1 ∧ st ≠ 0)
     (awake s = false → (∀ v busy, exec (.canInit k v busy) s = .next s) ∧ (∀ v, exec (.canRecover k v) s = .next s) ∧
       exec (.canIntegrationDone k) s = .next s ∧ exec (.canRecoveryDone k) s = .next s ∧
       ∀ big more, exec (.canReceiveError k big more) s = .next s) ∧
     (awake s = true →
       (∀ (v : Word) (busy : Bool),
         ((bad v ∨ st = 3 ∨ st = 4) → ∃ t, exec (.canInit k v busy) s = .next t ∧ flag t (aCan k 0x04) 16 = true ∧ canState t k = st ∧
           t = withEvents s t ∧ RegsKeptE s t [aCan k 0x04]) ∧
         (¬ bad v → st = 1 ∨ st = 2 ∨ st = 5 → (busy = true ∨ txbIn s k 2 ≠ []) → ∃ t, exec (.canInit k v busy) s = .next t ∧
           canState t k = st ∧ (canSt t k).initPend = true ∧ getReg t (aCan k 0x00) = (v &&& 0x316#32) ||| 1#32 ∧
           t = { s with regs := t.regs, can := t.can } ∧ RegsKept s t [aCan k 0x00]) ∧
         (¬ bad v → st = 1 ∨ st = 2 ∨ st = 5 → busy = false → txbIn s k 2 = [] → ∃ t, exec (.canInit k v busy) s = .next t ∧
           canState t k = 0 ∧ canTec t k = 0 ∧ canRec t k = 0 ∧ getReg t (aCan k 0x00) = (v &&& 0x316#32) ||| 1#32 ∧
           (canSt t k).initPend = false ∧ t = withEvents { s with can := t.can } t ∧
           RegsKeptE s t [aCan k 0x00, aCan k 0x04, aCan k 0x14]) ∧
         (¬ bad v → st = 0 → ∃ t, exec (.canInit k v busy) s = .next t ∧ getReg t (aCan k 0x00) = (v &&& 0x316#32) ||| 1#32 ∧
           t = { s with regs := t.regs } ∧ RegsKept s t [aCan k 0x00])) ∧
       (st = 5 → (canSt s k).initPend = false → ∃ t, exec (.canIntegrationDone k) s = .next t ∧ canState t k = 1 ∧ t = withEvents s t ∧
         RegsKeptE s t [aCan k 0x04]) ∧
       (st = 5 → (canSt s k).initPend = true → ∃ t, exec (.canIntegrationDone k) s = .next t ∧ canState t k = 0 ∧
         (canSt t k).initPend = false ∧ t = withEvents { s with can := t.can } t ∧ RegsKeptE s t [aCan k 0x04, aCan k 0x14]) ∧
       (st ≠ 5 → exec (.canIntegrationDone k) s = .next s) ∧
       (∀ v : Word, ¬ bad v → bit v 0 = false →
         (st = 3 → ∃ t, exec (.canRecover k v) s = .next t ∧ canState t k = 4 ∧ t = withEvents { s with can := t.can } t ∧
           RegsKeptE s t [aCan k 0x00, aCan k 0x04]) ∧
         (st = 0 → s.power.phase ≠ .fault → ∃ t, exec (.canRecover k v) s = .next t ∧ canState t k = 5 ∧
           t = withEvents { s with can := t.can } t ∧ RegsKeptE s t [aCan k 0x00, aCan k 0x04])) ∧
       (st = 4 → ∃ t, exec (.canRecoveryDone k) s = .next t ∧ canState t k = 1 ∧ canTec t k = 0 ∧ canRec t k = 0 ∧
         t = withEvents s t ∧ RegsKeptE s t [aCan k 0x04, aCan k 0x14]) ∧
       (st ≠ 4 → exec (.canRecoveryDone k) s = .next s) ∧
       (∀ (big : Bool) (more : Nat), (canOn s k = false → exec (.canReceiveError k big more) s = .next s) ∧
         (canOn s k = true → (canSt s k).initPend = false → canTec s k ≤ 255 →
           let r := canRec s k + (if big then 8 else 1) + 8 * more
           ∃ t, exec (.canReceiveError k big more) s = .next t ∧ canRec t k = min 255 r ∧ canTec t k = canTec s k ∧
             canState t k = (if 128 ≤ canTec s k ∨ 128 ≤ r then 2 else 1) ∧
             getReg t (aCan k 0x88) = satAdd (getReg s (aCan k 0x88)) 1 ∧ t = withEvents s t ∧
             RegsKeptE s t [aCan k 0x04, aCan k 0x14, aCan k 0x88])))) ∧
  (∀ (s : State) (k : Nat), k < 2 →
     (∀ (w0 : Word) (b4 : Byte) (ago delay : Nat) (data : List Byte),
       let n := recLen w0 b4
       let entry := fun (act : Word) => (⟨w0, b4, btcBefore s k (ago + delay), s.time.canCount - wd (ago + delay),
         (data ++ List.replicate n 0).take n, act⟩ : CanStaged)
       (canOn s k = false → exec (.canFrameReceive k w0 b4 ago delay data) s = .next s) ∧
       (canOn s k = true → (canSt s k).initPend = false → canTec s k ≤ 255 → bit w0 31 = true → flag s (aCan k 0x00) 1 = false →
         ∃ t, exec (.canFrameReceive k w0 b4 ago delay data) s = .next t ∧ canRec t k = min 255 (canRec s k + 1) ∧ canTec t k = canTec s k ∧
           getReg t (aCan k 0x88) = satAdd (getReg s (aCan k 0x88)) 1 ∧ t = withEvents s t ∧
           RegsKeptE s t [aCan k 0x04, aCan k 0x14, aCan k 0x88]) ∧
       (canOn s k = true → (canSt s k).initPend = false → canTec s k ≤ 255 → (bit w0 31 = true → flag s (aCan k 0x00) 1 = true) →
         ∃ t, exec (.canFrameReceive k w0 b4 ago delay data) s = .next t ∧
           (if canRec s k ≤ 127 then canRec t k = canRec s k - 1 else 119 ≤ canRec t k ∧ canRec t k ≤ 127) ∧ canTec t k = canTec s k ∧
           getReg t (aCan k 0x60) = getReg s (aCan k 0x60) + 1 ∧ (∀ b < 64, txbState s k b = 3 → txbState t k b = 1) ∧
           (canFilter s k w0 = none → getReg t (aCan k 0x68) = getReg s (aCan k 0x68) + 1 ∧ (canSt t k).stage = (canSt s k).stage ∧
             t.canGate = s.canGate) ∧
           (∀ act, canFilter s k w0 = some act → actNames act = true →
             (s.canGate.length < 16 → (canSt s 0).stage = [] → (canSt s 1).stage = [] → t.canGate = s.canGate ++ [(k, entry act)] ∧
               (canSt t k).stage = []) ∧
             (16 ≤ s.canGate.length → t.canGate = s.canGate ∧
               ((canSt s k).stage.length < 8 → (canSt t k).stage = (canSt s k).stage ++ [entry act]) ∧
               (8 ≤ (canSt s k).stage.length → (canSt t k).stage = (canSt s k).stage ∧ (canSt t k).stageLost = true ∧
                 getReg t (aCan k 0x6C) = satAdd (getReg s (aCan k 0x6C)) 1))) ∧
           t = withEvents { s with can := t.can, canGate := t.canGate, free := t.free } t ∧ t.mem = s.mem)) ∧
     (s.canGate.head?.map Prod.fst ≠ some k → exec (.canFrameDeliver k) s = .next s) ∧
     (∀ f r, s.canGate = (k, f) :: r →
       ((awake s = false ∨ ftOfCount s canClock f.count = none ∨ (canLoops s f = true ∧ canRecRoom s = false)) →
         exec (.canFrameDeliver k) s = .next s) ∧
       (∀ d, awake s = true → ftOfCount s canClock f.count = some d → (canSt s 0).stage = [] → (canSt s 1).stage = [] →
         bit f.act 29 = false → bits f.act 24 20 = 0 →
         (bit f.act 30 = false → ∃ t, exec (.canFrameDeliver k) s = .next t ∧ t.canGate = r ∧ (canSt t k).stageLost = false ∧
           t = { s with can := t.can, canGate := r }) ∧
         (∀ c, bit f.act 30 = true → (canSt s k).stageLost = false → (canSt s k).rxLost = false → (canSt s k).rxq.length < 128 →
           f.data.length ≤ 64 → f.b4 < 64 → 1 ≤ poolFree s → poolFirst s = some c →
           ∃ t, exec (.canFrameDeliver k) s = .next t ∧ t.canGate = r ∧ (canSt t k).rxq = (canSt s k).rxq ++ [c] ∧
             cellText t c = bytesLE 4 f.head.toNat ++ [f.b4 ||| if k = 1 then 0x80 else 0] ++ bytesLE 3 f.btc.toNat ++ bytesLE 8 d.toNat ++
               f.data ∧
             memNat t (aCell c) 8 = d.toNat ∧ (∀ a, a < aCell c ∨ aCell c + 128 ≤ a → memByte t a = memByte s a) ∧
             t = withEvents { s with can := t.can, canGate := r, cells := t.cells, mem := t.mem, ecc := t.ecc, srcSeq := t.srcSeq } t ∧
             RegsKeptE s t [aCan k 0x58, aSw 0x00, aSw 0x14]))) ∧
     (awake s = false → exec (.canRxRead k) s = .next s) ∧
     (awake s = true → (canSt s k).rxq = [] → ∃ t, exec (.canRxRead k) s = .next t ∧ flag t (aCan k 0x58) 3 = true ∧
       t = { s with regs := t.regs } ∧ RegsKept s t [aCan k 0x58]) ∧
     (∀ c r, awake s = true → s.ecc = [] → (canSt s k).rxq = c :: r →
       (((canSt s k).rxPos + 1 < (canItem s c).length → ∃ t, exec (.canRxRead k) s = .next t ∧
         canSt t k = { canSt s k with rxPos := (canSt s k).rxPos + 1, rxLast := (canItem s c).getD (canSt s k).rxPos 0 } ∧
         t = { s with can := t.can }) ∧
       ((canItem s c).length ≤ (canSt s k).rxPos + 1 → ∃ t, exec (.canRxRead k) s = .next t ∧
         canSt t k = { canSt s k with rxq := r, rxPos := 0, rxLast := (canItem s c).getD (canSt s k).rxPos 0 } ∧
         t = { s with can := t.can, cells := (releaseRef c s).cells }))))

/-- R590, R604–R612, R615, R616, R624, of an awake node: transmission. A request makes a FREE buffer PENDING or ends REJECTED; an abort
frees one that waits and marks the ACTIVE one; REQ with ABORT is refused. The most urgent offered buffer becomes ACTIVE and a stale one is
dropped with RESULT 3; its end frees it with RESULT 1, the start of frame and its counts, and returns SUSPENDED buffers to PENDING; lost
arbitration and an error leave it PENDING, a SINGLE or aborted one FREE with RESULT 2, the ACK limit SUSPENDED, and bus-off PENDING unless
it was aborted. The lone retry
offers the suspended ones. A record for a mailbox buffer or a tunnel is loaded or dropped and counted; the sentence sender loads its first
frame. Completes: canTxRequest, canTxAbort, canArbitration, canTxDone, canTxFail, canLoneRetry, canRecordLoad, canSentenceStart. That
PENDING sets RESULT to 0 is the model's reading (log entry 65). -/
def Obligations.CanTransmission : Prop :=
  ∀ (s : State) (k b : Nat), k < 2 → b < 64 →
    let ctl := aTxb k b 0x7C
    let outside := fun (t : State) => ∀ a, a < aTxb k b 0 ∨ aTxb k b 0x80 ≤ a → getReg t a = getReg s a
    let plain := (canSt s k).series = none ∧ tabGet (fun _ => []) (canSt s k).repl b = [] ∧ (canSt s k).initPend = false
    (awake s = false → (∀ v, exec (.canTxRequest k b v) s = .next s ∧ exec (.canTxAbort k b v) s = .next s) ∧
      exec (.canRecordLoad k) s = .next s ∧ ∀ how more, exec (.canTxFail k how more) s = .next s) ∧
    (canOn s k = false → exec (.canArbitration k) s = .next s ∧ exec (.canLoneRetry k) s = .next s ∧
      ∀ ago delay, exec (.canTxDone k ago delay) s = .next s) ∧
    (awake s = true → ∀ v : Word,
      (bit v 30 = true → ∃ t, exec (.canTxRequest k b v) s = .next t ∧ flag t (aCan k 0x04) 16 = true ∧ t = withEvents s t ∧
        RegsKeptE s t [aCan k 0x04]) ∧
      (bit v 30 = false → txbState s k b ≠ 0 → ∃ t, exec (.canTxRequest k b v) s = .next t ∧ flag t ctl 29 = bit v 29 ∧
        flag t ctl 28 = bit v 28 ∧ txbState t k b = txbState s k b ∧ t = { s with regs := t.regs } ∧ RegsKept s t [ctl]) ∧
      (bit v 30 = false → txbState s k b = 0 →
        (recRejected s k (txbRec s k b) = true → ∃ t, exec (.canTxRequest k b v) s = .next t ∧ fld t ctl 7 4 = 4 ∧
          txbState t k b = 0 ∧ t = { s with regs := t.regs } ∧ RegsKept s t [ctl]) ∧
        (recRejected s k (txbRec s k b) = false → ∃ t, exec (.canTxRequest k b v) s = .next t ∧ txbState t k b = 1 ∧
          fld t ctl 7 4 = 0 ∧ flag t ctl 31 = true ∧ flag t ctl 29 = bit v 29 ∧ flag t ctl 28 = bit v 28 ∧
          getReg t (aTxb k b 0x08) = wd (capDeadline s (getReg s (aTxb k b 0x08)).toNat) ∧ t = { s with regs := t.regs } ∧
          RegsKept s t [ctl, aTxb k b 0x08])) ∧
      (bit v 31 = true → ∃ t, exec (.canTxAbort k b v) s = .next t ∧ flag t (aCan k 0x04) 16 = true ∧ t = withEvents s t ∧
        RegsKeptE s t [aCan k 0x04]) ∧
      (bit v 31 = false → txbState s k b = 0 → exec (.canTxAbort k b v) s = .next s) ∧
      (bit v 31 = false → txbState s k b = 2 → ∃ t, exec (.canTxAbort k b v) s = .next t ∧ b ∈ (canSt t k).aborts ∧
        t = { s with regs := t.regs, can := t.can } ∧ RegsKept s t [ctl]) ∧
      (bit v 31 = false → (txbState s k b = 1 ∨ txbState s k b = 3) → (canSt s k).series = none →
        ∃ t, exec (.canTxAbort k b v) s = .next t ∧ txbState t k b = 0 ∧ fld t ctl 7 4 = 2 ∧
          t = { s with regs := t.regs, can := t.can } ∧ RegsKept s t [ctl, aCan k 0x04])) ∧
    (canOn s k = true → txbIn s k 2 = [] → (canSt s k).initPend = false →
      ((∀ j < 64, txbOffered s k j = false) → exec (.canArbitration k) s = .next s) ∧
      (txbOffered s k b = true →
        (∀ j < 64, j ≠ b → txbOffered s k j = true → arbKey (getReg s (aTxb k b 0)) < arbKey (getReg s (aTxb k j 0))) →
        (isStale s (getReg s (aTxb k b 0x08)).toNat = false → ∃ t, exec (.canArbitration k) s = .next t ∧ txbState t k b = 2 ∧
          t = { s with regs := t.regs, can := t.can } ∧ RegsKept s t [ctl, aCan k 0x04]) ∧
        (isStale s (getReg s (aTxb k b 0x08)).toNat = true → (∀ j < 64, j ≠ b → txbOffered s k j = false) → (canSt s k).series = none →
          ∃ t, exec (.canArbitration k) s = .next t ∧ txbState t k b = 0 ∧ fld t ctl 7 4 = 3 ∧
            getReg t (aCan k 0x78) = satAdd (getReg s (aCan k 0x78)) 1 ∧ t = withEvents { s with can := t.can } t ∧
            RegsKeptE s t [ctl, aCan k 0x04, aCan k 0x78]))) ∧
    (txbIn s k 2 = [] → (∀ ago delay, exec (.canTxDone k ago delay) s = .next s) ∧ ∀ how more, exec (.canTxFail k how more) s = .next s) ∧
    (∀ ago delay, canOn s k = true → txbIn s k 2 = [b] → plain → canTec s k ≤ 255 →
      ∃ t, exec (.canTxDone k ago delay) s = .next t ∧ txbState t k b = 0 ∧ fld t ctl 7 4 = 1 ∧ canTec t k = canTec s k - 1 ∧
        canRec t k = canRec s k ∧ getReg t (aCan k 0x64) = getReg s (aCan k 0x64) + 1 ∧ getReg t (aTxb k b 0x58) = btcBefore s k (ago + delay) ∧
        (∀ d, ftOfCount s canClock (s.time.canCount - wd (ago + delay)) = some d →
          getReg t (aTxb k b 0x50) = lo32 d ∧ getReg t (aTxb k b 0x54) = hi32 d) ∧
        (∀ j < 64, txbState s k j = 3 → txbState t k j = 1) ∧ t.mem = s.mem ∧ t = withEvents { s with can := t.can } t) ∧
    (∀ more, awake s = true → txbIn s k 2 = [b] → plain → (canSt s k).aborts = [] → (canSt s k).lone = false →
      flag s ctl 28 = false → ∃ t, exec (.canTxFail k .arbitration more) s = .next t ∧ txbState t k b = 1 ∧
        getReg t (aCan k 0x8C) = getReg s (aCan k 0x8C) + 1 ∧ t = { s with regs := t.regs, can := t.can } ∧
        RegsKept s t [ctl, aCan k 0x8C]) ∧
    (∀ (how : TxFail) (more : Nat), awake s = true → how ≠ .arbitration → txbIn s k 2 = [b] → plain →
      (canSt s k).lone = false → (canState s k = 1 ∨ canState s k = 2) →
      let tec := canTec s k + tecRise s k how more
      let freed := flag s ctl 28 = true ∨ b ∈ (canSt s k).aborts
      let acks := if how = .ack true ∨ how = .ack false then tabGet (fun _ => 0) (canSt s k).ackCnt b + 1 else 0
      ∃ t, exec (.canTxFail k how more) s = .next t ∧ getReg t (aCan k 0x88) = satAdd (getReg s (aCan k 0x88)) 1 ∧ t.mem = s.mem ∧
        t = withEvents { s with can := t.can } t ∧
        (255 < tec → txbState t k b = (if b ∈ (canSt s k).aborts then 0 else 1) ∧ (b ∈ (canSt s k).aborts → fld t ctl 7 4 = 2) ∧
          canState t k = (if flag s (aCan k 0x00) 2 then 4 else 3)) ∧
        (tec ≤ 255 → canTec t k = tec ∧ canState t k = (if 128 ≤ tec ∨ 128 ≤ canRec s k then 2 else 1) ∧
          tabGet (fun _ => 0) (canSt t k).ackCnt b = acks ∧
          txbState t k b = (if freed then 0 else if acks ≠ 0 ∧ fld s (aCan k 0x1C) 7 0 ≤ acks then 3 else 1) ∧
          (freed → fld t ctl 7 4 = 2) ∧
          getReg t (aCan k 0x84) =
            (if ¬ freed ∧ acks ≠ 0 ∧ fld s (aCan k 0x1C) 7 0 ≤ acks then satAdd (getReg s (aCan k 0x84)) 1
             else getReg s (aCan k 0x84)))) ∧
    (canOn s k = true → exec (.canLoneRetry k) s = .next (setCan s k { canSt s k with offers := txbIn s k 3 })) ∧
    (s.recGate.head?.map Prod.fst ≠ some k → exec (.canRecordLoad k) s = .next s) ∧
    (∀ mb r rest, s.recGate = (k, mb, r) :: rest → awake s = true →
      let drop := fun (t : State) => t.recGate = rest ∧ getReg t (aCan k 0x74) = satAdd (getReg s (aCan k 0x74)) 1 ∧
        flag t (aCan k 0x04) 10 = true ∧ t = withEvents { s with recGate := rest } t ∧ RegsKeptE s t [aCan k 0x74, aCan k 0x04]
      let named := mb = true ∧ (recByte r 5).getLsbD 6 = true
      ((canState s k = 0 ∨ recRejected s k (if mb then r else if r.length < 16 then r else tunRecord r) = true) →
        ∃ t, exec (.canRecordLoad k) s = .next t ∧ drop t) ∧
      (mb = true → (recByte r 5).toNat = 64 + b → canState s k ≠ 0 → recRejected s k r = false →
        (isSentBuf s k b = true → ∃ t, exec (.canRecordLoad k) s = .next t ∧ drop t) ∧
        (isSentBuf s k b = false → txbState s k b = 2 → ∃ t, exec (.canRecordLoad k) s = .next t ∧
          tabGet (fun _ => []) (canSt t k).repl b = r ∧ t = { s with can := t.can, recGate := rest }) ∧
        (isSentBuf s k b = false → txbState s k b = 0 → ∃ t, exec (.canRecordLoad k) s = .next t ∧ t.recGate = rest ∧ txbState t k b = 1 ∧
          fld t ctl 7 4 = 0 ∧
          (∀ i < 20, i ≠ 2 → getReg t (aTxb k b (4 * i)) = wd (ofBytesLE ((r.drop (4 * i) ++ [0, 0, 0, 0]).take 4))) ∧
          t = { s with regs := t.regs, recGate := rest } ∧ outside t)) ∧
      (¬ named → canState s k ≠ 0 → recRejected s k (if mb then r else if r.length < 16 then r else tunRecord r) = false →
        (fld s (aCan k 0x20) 5 0 ≤ b → txbState s k b = 0 → fld s (aCan k 0x28) 5 0 ≠ b →
          (∀ j < b, fld s (aCan k 0x20) 5 0 ≤ j → txbState s k j = 0 → fld s (aCan k 0x28) 5 0 = j) →
          ∃ t, exec (.canRecordLoad k) s = .next t ∧ t.recGate = rest ∧ txbState t k b = 1 ∧ getReg t (aTxb k b 0) = recWord0 r ∧
            t = { s with regs := t.regs, recGate := rest } ∧ outside t) ∧
        ((∀ j < 64, fld s (aCan k 0x20) 5 0 ≤ j → txbState s k j = 0 → fld s (aCan k 0x28) 5 0 = j) →
          ∃ t, exec (.canRecordLoad k) s = .next t ∧ drop t))) ∧
    (let may := flag s (aCan k 0x28) 31 = true ∧ (canSt s k).series = none ∧ txbState s k (fld s (aCan k 0x28) 5 0) = 0 ∧
        canState s k ≠ 0 ∧ awake s = true ∧ inFault s = false;
      ((¬ may ∨ (canSt s k).sq = []) → exec (.canSentenceStart k) s = .next s) ∧
      (∀ c r, may → s.ecc = [] → fld s (aCan k 0x28) 5 0 = b → (canSt s k).sq = c :: r → isStale s (cellDeadline s c) = false →
        ∃ t, exec (.canSentenceStart k) s = .next t ∧ (canSt t k).sq = r ∧ (canSt t k).series = some (c, 0, b) ∧ txbState t k b = 1 ∧
          t = { s with regs := t.regs, can := t.can } ∧ outside t))

/-! ### The update unit -/

/-- R697–R704, R706, R708, R710, R712: the commands of the update unit. Asleep it takes none, and while GO is 1 a command is refused;
another initiator than the owner ends with CODE 1, an own-node one under MODE 10b with CODE 12, an unlisted OP with CODE 2. BEGIN takes the
header in UPD.BUF, BLOCK a block, VERIFY ends with the code of the first check that fails and otherwise makes the PROOF ready, ACTIVATE
needs a PROOF that is ready and with LIVE copies the active bank to the inactive one and writes the image's tables over it, CONFIRM needs a
trial, ABANDON gives the download or the activation up, KEYPROG writes a key slot once; a flash that does not complete gives CODE 14. BEGIN,
VERIFY, ACTIVATE, CONFIRM and ABANDON write their journal record, while its SEQ does not wrap, and outside the journal and the sector they
fill no byte of memory changes. Completes: updBegin, updBlock, updVerify, updActivate, updConfirm, updAbandon, updKeyprog, updUnlistedOp.
The order of the codes (log entry 43) and that a command acts at GO, an ABANDON on a live activation that drains and a CONFIRM's MINVER at
its end included (78), are the model's readings and choices. -/
def Obligations.UpdateCommands : Prop :=
  ∀ (s : State) (node : BitVec 12) (loc : BitVec 9) (blk : BitVec 12) (key : BitVec 2) (now fl : Bool) (op : BitVec 4),
    let src := (node.toNat, loc.toNat)
    let cmds := [(1, Instr.updBegin node loc fl), (2, .updBlock node loc blk fl), (3, .updVerify node loc fl), (4, .updActivate node loc now fl),
      (5, .updConfirm node loc fl), (7, .updKeyprog node loc key fl)]
    let abandon := Instr.updAbandon node loc fl
    let ends := fun (i : Instr) (n code : Nat) => ∃ t, exec i s = .next t ∧ flag t (aUpd 0x00) 31 = true ∧
      t = { s with regs := t.regs, upd := { s.upd with run := some (n, code) } } ∧ RegsKept s t [aUpd 0x00]
    let r := jRec s; let h := slotHdr s (proofSlot s); let code := verifyCode s (proofSlot s)
    let wrote := fun (t : State) => t = { s with regs := t.regs, upd := t.upd, mem := t.mem, ecc := t.ecc, free := t.free } ∧
      RegsKept s t [aUpd 0x00]
    let outside := fun (t : State) (b n : Nat) => ∀ a, (a < 0x03800000 ∨ 0x03802000 ≤ a) → (a < b ∨ b + n ≤ a) → memByte t a = memByte s a
    let record := fun (t : State) (r' : JRec) => r.seq + 1 < 2 ^ 32 → jRec t = { r' with seq := (jRec t).seq }
    let activated := fun (t : State) (rf : Nat) => outside t 0 0 ∧ t.power = s.power ∧ t.engs = s.engs ∧
      record t { r with print := 1 - r.print % 2, state := 1, tries := 3, prev := r.print, proof := 2, rflags := rf,
                        hcrc := hHcrc (slotHdr s r.print) } ∧
      getReg t (aUpd 0x4C) = getReg s (aUpd 0x4C) + 1 ∧
      (s.av.logq.length < 16 → ∃ e, t.av = { s.av with logq := s.av.logq ++ [e] } ∧ e.typ = 8 ∧ e.ft = s.time.ft) ∧
      t = { s with regs := t.regs, upd := t.upd, mem := t.mem, ecc := t.ecc, free := t.free, tables := t.tables, av := t.av } ∧
      RegsKept s t [aUpd 0x00, aUpd 0x4C, aAv 0x00, aAv 0xD4]
    (awake s = false → (∀ e ∈ (6, abandon) :: cmds, exec e.2 s = .next s) ∧ exec (.updUnlistedOp node loc op) s = .next s) ∧
    (0 < op.toNat → op.toNat < 8 → exec (.updUnlistedOp node loc op) s = .next s) ∧
    (awake s = true → flag s (aUpd 0x00) 31 = true → ∀ e ∈ (6, abandon) :: cmds, ∃ t, exec e.2 s = .next t ∧ flag t (aUpd 0x08) 19 = true ∧
      t = { s with regs := t.regs } ∧ RegsKept s t [aUpd 0x08]) ∧
    (awake s = true → flag s (aUpd 0x00) 31 = false →
      (s.power.bootMode = 2 → node.toNat = s.nodeId → ∀ e ∈ (6, abandon) :: cmds, ends e.2 e.1 12) ∧
      ((s.power.bootMode ≠ 2 ∨ node.toNat ≠ s.nodeId) →
        (∀ o, s.upd.owner = some o → o ≠ src → ∀ e ∈ cmds, ends e.2 e.1 1) ∧
        (ownedByOther s src = false →
          ((op = 0 ∨ 8 ≤ op.toNat) → ends (.updUnlistedOp node loc op) op.toNat 2) ∧
          (r.state = 1 → ends (.updBegin node loc fl) 1 2) ∧
          (r.state ≠ 1 → check1 (updBuf s 512) = false → ends (.updBegin node loc fl) 1 3) ∧
          (r.state ≠ 1 → check1 (updBuf s 512) = true →
            (r.proof = 1 → updBuf s 512 = h → ∃ t, exec (.updBegin node loc fl) s = .next t ∧
              t.upd = { s.upd with owner := some src, run := some (1, 0) } ∧ t = { s with regs := t.regs, upd := t.upd } ∧
              RegsKept s t [aUpd 0x00]) ∧
            ((r.proof ≠ 1 ∨ updBuf s 512 ≠ h) → fl = false → ends (.updBegin node loc fl) 1 14) ∧
            ((r.proof ≠ 1 ∨ updBuf s 512 ≠ h) → fl = true → ∃ t, exec (.updBegin node loc fl) s = .next t ∧
              t.upd = { s.upd with owner := some src, run := some (1, 0) } ∧ slotHdr t (proofSlot s) = updBuf s 512 ∧
              record t { r with proof := 1, hcrc := hHcrc (updBuf s 512) } ∧
              (r.seq + 1 < 2 ^ 32 → ∀ j < 3072, bitmapBit t j = true) ∧ outside t (slotBase (proofSlot s)) 4096 ∧ wrote t)) ∧
          (r.proof ≠ 1 → ends (.updBlock node loc blk fl) 2 2) ∧
          (r.proof = 1 → hNblk h ≤ blk.toNat → ends (.updBlock node loc blk fl) 2 4) ∧
          (r.proof = 1 → blk.toNat < hNblk h →
            (blockOk s 0x00061000 = false → ∃ t, exec (.updBlock node loc blk fl) s = .next t ∧ t.upd = { s.upd with run := some (2, 5) } ∧
              getReg t (aUpd 0x44) = satAdd (getReg s (aUpd 0x44)) 1 ∧ EventSet 80 t ∧ t = withEvents { s with upd := t.upd } t ∧
              RegsKeptE s t [aUpd 0x00, aUpd 0x44]) ∧
            (blockOk s 0x00061000 = true → bitmapBit s blk.toNat = false → ends (.updBlock node loc blk fl) 2 0) ∧
            (blockOk s 0x00061000 = true → bitmapBit s blk.toNat = true → blk.toNat < 3071 → fl = true →
              ∃ t, exec (.updBlock node loc blk fl) s = .next t ∧ t.upd = { s.upd with run := some (2, 0) } ∧
                memBytes t (blockAddr (proofSlot s) blk.toNat) 4096 = updBuf s 4096 ∧ jRec t = r ∧
                (∀ j < 3072, bitmapBit t j = (bitmapBit s j && decide (j ≠ blk.toNat))) ∧
                outside t (blockAddr (proofSlot s) blk.toNat) 4096 ∧ getReg t (aUpd 0x40) = getReg s (aUpd 0x40) + 1 ∧
                t = { s with regs := t.regs, upd := t.upd, mem := t.mem, ecc := t.ecc } ∧ RegsKept s t [aUpd 0x00, aUpd 0x40])) ∧
          (r.proof = 0 → ends (.updVerify node loc fl) 3 2) ∧
          ((r.proof = 2 ∨ (r.proof = 1 ∧ downloadWhole s = true)) →
            (code ≠ 0 → ∃ t, exec (.updVerify node loc fl) s = .next t ∧ t.upd = { s.upd with run := some (3, code) } ∧
              getReg t (aUpd 0x48) = satAdd (getReg s (aUpd 0x48)) 1 ∧ EventSet 82 t ∧ t = withEvents { s with upd := t.upd } t ∧
              RegsKeptE s t [aUpd 0x00, aUpd 0x48]) ∧
            (code = 0 → r.proof = 2 → ∃ t, exec (.updVerify node loc fl) s = .next t ∧ t.upd = { s.upd with run := some (3, 0) } ∧
              EventSet 81 t ∧ t = withEvents { s with upd := t.upd } t ∧ RegsKeptE s t [aUpd 0x00]) ∧
            (code = 0 → r.proof = 1 → fl = false → ends (.updVerify node loc fl) 3 14) ∧
            (code = 0 → r.proof = 1 → fl = true → ∃ t, exec (.updVerify node loc fl) s = .next t ∧ t.upd = { s.upd with run := some (3, 0) } ∧
              EventSet 81 t ∧ record t { r with proof := 2 } ∧ outside t 0 0 ∧
              t = withEvents { s with upd := t.upd, mem := t.mem, ecc := t.ecc, free := t.free } t ∧ RegsKeptE s t [aUpd 0x00])) ∧
          ((r.proof ≠ 2 ∨ r.state ≠ 0) → ends (.updActivate node loc now fl) 4 2) ∧
          (r.proof = 2 → r.state = 0 → check7 s h = false → ends (.updActivate node loc now fl) 4 11) ∧
          (r.proof = 2 → r.state = 0 → check7 s h = true →
            (hLive h = false → fl = false → ends (.updActivate node loc now fl) 4 14) ∧
            (hLive h = false → fl = true → ∃ t, exec (.updActivate node loc now fl) s = .next t ∧
              t.upd = { s.upd with owner := none, restart := now, run := some (4, 0) } ∧ t.tables = s.tables ∧ activated t 0) ∧
            (hLive h = true → s.tables.busy = true → ends (.updActivate node loc now fl) 4 13) ∧
            (hLive h = true → s.tables.busy = false → s.power.phase ≠ .halter → s.power.phase ≠ .running →
              ends (.updActivate node loc now fl) 4 2) ∧
            (hLive h = true → s.tables.busy = false → (s.power.phase = .halter ∨ s.power.phase = .running) → fl = true →
              ∃ t, exec (.updActivate node loc now fl) s = .next t ∧
                t.upd = { s.upd with
                  owner := none, run := some (4, 0),
                  live := some { slot := proofSlot s, engines := (namedEngines h).filter (fun l => decide (engPhys s l ≠ 31)) } } ∧
                t.tables = (loadTables (proofSlot s) (!s.tables.active) (copyBanks s)).tables ∧
                (∀ tbl o, (∀ x ∈ hSects h, x.kind ≠ tbl + 2) → tblWord t (!s.tables.active) tbl o = tblWord s s.tables.active tbl o) ∧
                (∀ tbl o, tblWord t s.tables.active tbl o = tblWord s s.tables.active tbl o) ∧ activated t 2)) ∧
          (s.upd.runTrial = false → ends (.updConfirm node loc fl) 5 2) ∧
          (s.upd.runTrial = true → fl = false → ends (.updConfirm node loc fl) 5 14) ∧
          (s.upd.runTrial = true → fl = true → ∃ t, exec (.updConfirm node loc fl) s = .next t ∧
            t.upd = { s.upd with run := some (5, 0) } ∧ record t { r with state := 0, proof := 2, rflags := 0 } ∧ outside t 0 0 ∧ wrote t) ∧
          (s.power.bootMode ≠ 3 → ends (.updKeyprog node loc key fl) 7 12) ∧
          (s.power.bootMode = 3 → keyProgrammed s key.toNat = true → ends (.updKeyprog node loc key fl) 7 2) ∧
          (s.power.bootMode = 3 → keyProgrammed s key.toNat = false → fl = true → ∃ t, exec (.updKeyprog node loc key fl) s = .next t ∧
            t.upd = { s.upd with run := some (7, 0) } ∧ keyBytes t key.toNat = updBuf s 64 ∧
            (∀ a, a < keyAddr key.toNat ∨ keyAddr key.toNat + 64 ≤ a → memByte t a = memByte s a) ∧ wrote t)) ∧
        (r.proof ≠ 1 → (r.state ≠ 1 ∨ s.upd.runTrial = true) → ends abandon 6 2) ∧
        ((r.proof = 1 ∨ (r.state = 1 ∧ s.upd.runTrial = false)) → (fl = false → ends abandon 6 14) ∧
          (fl = true → ∃ t, exec abandon s = .next t ∧ outside t 0 0 ∧ wrote t ∧
            (r.proof = 1 → t.upd = { s.upd with owner := none, run := some (6, 0) } ∧ record t { r with proof := 0 }) ∧
            (r.proof ≠ 1 → t.upd = { s.upd with owner := none, run := some (6, 0), live := none } ∧
              record t { r with print := r.prev, state := 0, proof := 2, hcrc := hHcrc (slotHdr s (1 - r.prev % 2)) })))))

/-- R697, R698, R704, R706–R709, R32, of an awake node: the end of a command shows its RESULT and clears GO, that of a CONFIRM raises MINVER
to the print image's SETMIN, takes its REVOKE and ends the trial, and that of an ACTIVATE with NOW begins its restart; the owner is released
after 60 s unless its command comes in that clock; the confirmation window warns with event 84, and its expiry, unless a CONFIRM is in
progress, writes the revert record and restarts the core; the drain of a live activation ends with the banks swapped and the new image in
trial. In Stabled and OFF none of these happens. Completes: updCommandEnd, updOwnerTimeout, confirmDue, confirmWindowExpiry, liveDrainEnd.
That the restart begins at the command's end, the log written first (log entry 42), and MINVER rises there (78), are the model's choices. -/
def Obligations.UpdateTimes : Prop :=
  ∀ s : State,
    (∀ op code, awake s = true → s.upd.run = some (op, code) →
      (s.upd.restart = false → let done := decide (op = 5 ∧ code = 0)
        let h := slotHdr s (jRec s).print
        let raises := done && check1 h && decide (s.upd.minver < hSetmin h)
        ∃ t, exec .updCommandEnd s = .next t ∧ getReg t (aUpd 0x04) = wd (op * 256 + code) ∧
          flag t (aUpd 0x00) 31 = false ∧
          t = { s with regs := t.regs, upd := { s.upd with
            run := none, runTrial := s.upd.runTrial && !done, minver := if raises then hSetmin h else s.upd.minver,
            revoked := if raises then s.upd.revoked ||| hRevoke h else s.upd.revoked } } ∧
          RegsKept s t [aUpd 0x00, aUpd 0x04]) ∧
      (s.upd.restart = true → ∃ t, exec .updCommandEnd s = .next t ∧ t.power.phase = .booting ∧ flag t (aNode 0x04) 6 = true ∧
        t.upd.run = none ∧ t.upd.restart = false ∧ SameDevice s t ∧ t.pending = s.pending)) ∧
    ((awake s = false ∨ s.upd.run = none) → exec .updCommandEnd s = .next s) ∧
    (awake s = true → exec (.updOwnerTimeout false) s = .next { s with upd := { s.upd with owner := none } }) ∧
    (∀ taken, (awake s = false ∨ taken = true) → exec (.updOwnerTimeout taken) s = .next s) ∧
    (awake s = true → s.upd.runTrial = true → fld s (aUpd 0x24) 15 0 ≠ 0 →
      ∃ t, exec .confirmDue s = .next t ∧ EventSet 84 t ∧ t = withEvents s t ∧ RegsKeptE s t []) ∧
    (let r := jRec s;
      awake s = true → s.upd.runTrial = true → s.upd.run ≠ some (5, 0) → ∃ t, exec .confirmWindowExpiry s = .next t ∧
        t.power.phase = .booting ∧ flag t (aNode 0x04) 6 = true ∧ t.upd.reverted = true ∧
        (r.seq + 1 < 2 ^ 32 → jRec t = { r with seq := (jRec t).seq, print := r.prev, state := 0, proof := 2, rflags := 1,
                                                hcrc := hHcrc (slotHdr s (1 - r.prev % 2)) }) ∧
        SameDevice s t ∧ t.pending = s.pending) ∧
    ((s.upd.runTrial = false ∨ awake s = false ∨ s.upd.run = some (5, 0)) → exec .confirmWindowExpiry s = .next s) ∧
    ((s.upd.runTrial = false ∨ awake s = false ∨ fld s (aUpd 0x24) 15 0 = 0) → exec .confirmDue s = .next s) ∧
    (∀ v, awake s = true → s.upd.live = some v → ∃ t, exec .liveDrainEnd s = .next t ∧ t.upd.live = none ∧ t.upd.runTrial = true ∧
      t.upd.winAt = s.now ∧ t.tables.active = !s.tables.active ∧ EventSet 83 t ∧ t.nodeId = s.nodeId ∧ SameDevice s t ∧ t.pending = s.pending) ∧
    ((awake s = false ∨ s.upd.live = none) → exec .liveDrainEnd s = .next s)

/-! ### The availability unit -/

/-- R714–R724, R734–R738, of an awake node: a scrubbing pass meets upsets and its end counts it, with event 90 when it found errors; the
walk over the tables reports two copies that differ. LOG_CMD queues a record or counts it lost, and a queued record is written behind the
last one. A temperature sample is shown, WARN_NOW follows the threshold, and neither threshold acts before it is armed; a rail outside its
band warns once with event 95. In Stabled none of these has an effect. Completes: scrubPassStart, scrubPassEnd, rtWalkPass, logCmd,
logRecordWrite, tempSample, vmonWarn. Errors enter by the operands of the commands (log entry 21). -/
def Obligations.Scrubbing : Prop :=
  ∀ s : State,
    (awake s = false → (∀ i ∈ [Instr.logRecordWrite, .scrubPassEnd 0, .scrubPassStart [], .rtWalkPass [], .tempSample 0 0 0 0, .vmonWarn 0 0],
      exec i s = .next s) ∧ ∀ v, exec (.logCmd v) s = .next s) ∧
    (awake s = true → s.av.scrubbing = true → ∀ ups, exec (.scrubPassStart ups) s = .next s) ∧
    (awake s = true → s.av.scrubbing = false →
      exec (.scrubPassStart []) s = .next { s with av := { s.av with scrubbing := true } } ∧
      (∀ ms, exec (.scrubPassEnd ms) s = .next s) ∧
      ∀ w e, scrubbed w = true → 1 ≤ e → ∃ t, exec (.scrubPassStart [(w, e)]) s = .next t ∧
        eccOf t w = (if eccOf s w = 0 then e else 73) ∧ (∀ x, x ≠ w → eccOf t x = eccOf s x) ∧
        t = { s with ecc := t.ecc, av := { s.av with scrubbing := true } }) ∧
    (awake s = true → s.av.scrubbing = true → ∀ ms, ∃ t, exec (.scrubPassEnd ms) s = .next t ∧ getReg t (aAv 0x18) = wd (ms % 65536) ∧
      getReg t (aAv 0x1C) = getReg s (aAv 0x1C) + 1 ∧ t.av.scrubbing = false ∧ (s.ecc ≠ [] → EventSet 90 t) ∧
      (s.ecc = [] → t.av = { s.av with scrubbing := false, scrubbed := [] } ∧ t = { s with regs := t.regs, av := t.av } ∧
        RegsKept s t [aAv 0x18, aAv 0x1C])) ∧
    (awake s = true → (∀ e ∈ s.tables.par, e.2 ≠ 4) → exec (.rtWalkPass []) s = .next s) ∧
    (awake s = true → ∀ k, s.tables.par = [(k, 4)] → flag s (aAv 0x04) 9 = false →
      ∃ t, exec (.rtWalkPass []) s = .next t ∧ t.tables.par = [] ∧ flag t (aAv 0x00) 3 = true ∧
        (flag s (aAv 0x00) 3 = false → EventSet 89 t) ∧ getReg t (aAv 0x24) = satAdd (getReg s (aAv 0x24)) 1 ∧
        t = withEvents { s with tables := { s.tables with par := [] } } t ∧ RegsKeptE s t [aAv 0x00, aAv 0x24, aAv 0x28]) ∧
    (∀ v : Word, awake s = true →
      (bit v 31 = false → exec (.logCmd v) s = .next s) ∧
      (bit v 31 = true → s.av.logq.length < 16 → ∃ t r, exec (.logCmd v) s = .next t ∧
        t = { s with av := { s.av with logq := s.av.logq ++ [r] } } ∧ r.typ = 9 ∧ r.inst = 0 ∧ r.ft = s.time.ft ∧
        r.data = wordBytes (getReg s (aAv 0xC8)) ++ wordBytes (getReg s (aAv 0xCC)) ++ wordBytes (getReg s (aAv 0xD0))) ∧
      (bit v 31 = true → 16 ≤ s.av.logq.length → ∃ t, exec (.logCmd v) s = .next t ∧ flag t (aAv 0x00) 8 = true ∧
        getReg t (aAv 0xD4) = satAdd (getReg s (aAv 0xD4)) 1 ∧ t = { s with regs := t.regs } ∧ RegsKept s t [aAv 0x00, aAv 0xD4])) ∧
    (s.av.logq = [] → exec .logRecordWrite s = .next s) ∧
    (∀ r q n, awake s = true → s.av.logq = r :: q → s.av.logSeq = some n → s.av.logHead % 32 = 0 → s.av.logHead < 0xF0000 →
      r.data.length = 12 → ∃ t, exec .logRecordWrite s = .next t ∧
        t.av = { s.av with logq := q, logSeq := some ((n + 1) % 2 ^ 32), logHead := (s.av.logHead + 32) % 0xF0000 } ∧
        memBytes t (0x03910000 + s.av.logHead) 32 = logBytes ((n + 1) % 2 ^ 32) r.typ r.inst r.ft r.data ∧
        (∀ a, (s.av.logHead % 4096 ≠ 0 ∧ (a < 0x03910000 + s.av.logHead ∨ 0x03910020 + s.av.logHead ≤ a)) ∨ a < 0x03910000 →
          memByte t a = memByte s a) ∧
        t = { s with av := t.av, mem := t.mem, ecc := t.ecc }) ∧
    (∀ t0 t1 t2 t3 : BitVec 16, awake s = true → ∃ t, exec (.tempSample t0 t1 t2 t3) s = .next t ∧
      getReg t (aAv 0x80) = t0.setWidth 32 ∧ getReg t (aAv 0x84) = t1.setWidth 32 ∧ getReg t (aAv 0x88) = t2.setWidth 32 ∧
      getReg t (aAv 0x8C) = t3.setWidth 32 ∧ t.mem = s.mem ∧
      let warn : Int := 4 * (fld s (aAv 0x90) 7 0 : Int); let crit : Int := 4 * (fld s (aAv 0x90) 15 8 : Int)
      (flag t (aAv 0x00) 19 = true ↔ ∃ x ∈ [t0, t1, t2, t3], warn ≤ x.toInt) ∧
      (s.av.warnArmed = true → (∃ x ∈ [t0, t1, t2, t3], warn ≤ x.toInt) → flag t (aAv 0x00) 4 = true ∧ t.av.warnArmed = false ∧
        (flag s (aAv 0x00) 4 = false → EventSet 94 t)) ∧
      (s.av.warnArmed = false → (∃ x ∈ [t0, t1, t2, t3], warn - 20 < x.toInt) → flag t (aAv 0x00) 4 = flag s (aAv 0x00) 4) ∧
      ((∀ x ∈ [t0, t1, t2, t3], x.toInt ≤ warn - 20) → t.av.warnArmed = true) ∧
      ((∀ x ∈ [t0, t1, t2, t3], x.toInt < crit) → flag t (aAv 0x00) 5 = flag s (aAv 0x00) 5 ∧ t.power = s.power ∧ t.engs = s.engs)) ∧
    (∀ r mv, r < 6 → awake s = true → ∃ t, exec (.vmonWarn r mv) s = .next t ∧ getReg t (aAv (0xA0 + 4 * r)) = wd (mv % 65536) ∧
      let out := railPresent s r && decide (mv < (railBand r).1 ∨ (railBand r).2 < mv)
      flag t (aAv 0x00) 6 = (flag s (aAv 0x00) 6 || out) ∧ (flag s (aAv 0x00) 6 = false → out = true → EventSet 95 t) ∧
      t = withEvents s t ∧ RegsKeptE s t [aAv 0x00, aAv (0xA0 + 4 * r)])

/-- R72–R75, R420–R422, R724–R733, R740, of an awake node: a slice command is refused while another runs; TEST and RETIRE act on a free
slice and otherwise end with ERR; the end shows the RESULT with event 93, and a failed TEST_RETIRE retires the slice. A rotation that is
due, or ROT_MOVE, starts a move to a spare, copies in rounds until few lines are dirty, stalls its engine for the last one or gives up
after the eighth, and ends with the engine on its new carrier and the old one in self-test; ROT_RETIRE and a failed self-test retire a
physical engine. In Stabled none of these has an effect. Completes: sliceTest, sliceRetire, sliceTestRetire, sliceCmdEnd, rotationDue,
rotMove, rotRetire, moveCopyRound, moveComplete, selfTestEnd. Log entry 38 names what the model reads into these rules. -/
def Obligations.Availability : Prop :=
  ∀ s : State,
    (awake s = false → (∀ x, ∀ i ∈ [Instr.sliceTest x, .sliceRetire x, .sliceTestRetire x], exec i s = .next s) ∧
      (∀ l target, ∀ i ∈ [Instr.rotMove l target, .rotRetire l target], exec i s = .next s) ∧ exec .rotationDue s = .next s ∧
      exec .moveComplete s = .next s ∧ (∀ pass, exec (.sliceCmdEnd pass) s = .next s) ∧ (∀ d, exec (.moveCopyRound d) s = .next s) ∧
      ∀ e res word, exec (.selfTestEnd e res word) s = .next s) ∧
    (∀ (x : BitVec 9), awake s = true → let free := decide (sliceMap s x.toNat / 0x4000 = 0)
      ((flag s (aAv 0x60) 31 = true ∨ 280 ≤ x.toNat) → ∀ i ∈ [Instr.sliceTest x, .sliceRetire x, .sliceTestRetire x],
        ∃ t, exec i s = .next t ∧ flag t (aAv 0x00) 9 = true ∧ t = { s with regs := t.regs } ∧ RegsKept s t [aAv 0x00]) ∧
      (x.toNat < 280 → flag s (aAv 0x60) 31 = false →
        (∀ e ∈ [(0, Instr.sliceTest x), (1, .sliceRetire x), (2, .sliceTestRetire x)], (e.1 = 1 → free = false) →
          ∃ t, exec e.2 s = .next t ∧ flag t (aAv 0x60) 31 = true ∧ t.av.sliceCmd = some { op := e.1, slice := x.toNat, err := !free } ∧
            t = { s with regs := t.regs, av := { s.av with sliceCmd := t.av.sliceCmd } } ∧ RegsKept s t [aAv 0x60]) ∧
        (free = true → ∃ t, exec (.sliceRetire x) s = .next t ∧ flag t (aAv 0x60) 31 = true ∧ sliceMap t x.toNat = 0x81FF ∧
          (∀ j, j ≠ x.toNat → sliceMap t j = sliceMap s j) ∧ t.csGen = s.csGen + 2 ∧ t.av.lastRetire = s.time.ft ∧
          t.av.sliceCmd = some { op := 1, slice := x.toNat, err := false } ∧ RegsKept s t [aAv 0x60]))) ∧
    (∀ pass, s.av.sliceCmd = none → exec (.sliceCmdEnd pass) s = .next s) ∧
    (∀ c pass, awake s = true → s.av.sliceCmd = some c → ∃ t, exec (.sliceCmdEnd pass) s = .next t ∧ flag t (aAv 0x60) 31 = false ∧
      flag t (aAv 0x60) 30 = c.err ∧ EventSet 93 t ∧
      fld t (aAv 0x60) 29 28 = (if c.err then 0 else if c.op = 1 then 3 else if pass then 1 else if c.op = 2 then 3 else 2) ∧
      ((c.op ≠ 2 ∨ c.err = true ∨ pass = true) → t = withEvents { s with av := { s.av with sliceCmd := none } } t ∧
        RegsKeptE s t [aAv 0x60]) ∧
      (c.op = 2 → c.err = false → pass = false → sliceMap t c.slice = 0x81FF ∧ t.av.lastRetire = s.time.ft)) ∧
    (let may := flag s (aAv 0x40) 15 = true ∧ mayMove s = true ∧ s.av.move = none;
      (¬ may → exec .rotationDue s = .next s) ∧
      (may → (chooseMover s = none ∨ chooseSpare s = none) → ∃ t, exec .rotationDue s = .next t ∧ flag t (aAv 0x00) 16 = true ∧
        t = { s with regs := t.regs } ∧ RegsKept s t [aAv 0x00]) ∧
      (∀ l e, may → chooseMover s = some l → chooseSpare s = some e → ∃ t, exec .rotationDue s = .next t ∧
        t.av.move = some { l := l, dst := e } ∧ flag t (aAv 0x00) 17 = true ∧ flag t (aAv 0x00) 16 = false ∧
        t = { s with regs := t.regs, av := { s.av with move := t.av.move } } ∧ RegsKept s t [aAv 0x00])) ∧
    (∀ (l : BitVec 4) (target : BitVec 5), awake s = true →
      (flag s (aAv 0x44) 31 = true → ∀ i ∈ [Instr.rotMove l target, .rotRetire l target], ∃ t, exec i s = .next t ∧
        flag t (aAv 0x00) 9 = true ∧ t = { s with regs := t.regs } ∧ RegsKept s t [aAv 0x00]) ∧
      (flag s (aAv 0x44) 31 = false →
        (∀ e ∈ [(Instr.rotMove l target, (if target.toNat = 31 then (chooseSpare s).isNone else !isSpare s target.toNat) || !mayMove s),
            (.rotRetire l target, !isSpare s target.toNat)],
          (e.2 = true ∨ s.av.move ≠ none ∨ engPhys s l.toNat = 31) → ∃ t, exec e.1 s = .next t ∧ flag t (aAv 0x44) 30 = true ∧
            flag t (aAv 0x44) 31 = false ∧ t = { s with regs := t.regs } ∧ RegsKept s t [aAv 0x44]) ∧
        (∀ e, (if target.toNat = 31 then chooseSpare s = some e else isSpare s target.toNat = true ∧ e = target.toNat) → s.av.move = none →
          engPhys s l.toNat ≠ 31 →
          (mayMove s = true → ∃ t, exec (.rotMove l target) s = .next t ∧ t.av.move = some { l := l.toNat, dst := e } ∧
            flag t (aAv 0x44) 31 = true ∧ flag t (aAv 0x44) 30 = false ∧ flag t (aAv 0x00) 17 = true ∧
            t = { s with regs := t.regs, av := { s.av with move := t.av.move } } ∧ RegsKept s t [aAv 0x44, aAv 0x00]) ∧
          (target.toNat ≠ 31 → ∃ t, exec (.rotRetire l target) s = .next t ∧ target.toNat ∈ t.av.engRetired ∧ t.av.lastRetire = s.time.ft ∧
            t.csGen = s.csGen + 2 ∧ EventSet 92 t ∧ t.engs = s.engs ∧ RegsKeptE s t [aAv 0x44])))) ∧
    (∀ dirty, (s.av.move = none ∨ ∃ v, s.av.move = some v ∧ v.stalled = true) → exec (.moveCopyRound dirty) s = .next s) ∧
    (∀ (v : MoveSt) (dirty : Nat), awake s = true → s.av.move = some v → v.stalled = false →
      (dirty < 1024 → ∃ t, exec (.moveCopyRound dirty) s = .next t ∧ (eng t v.l).moving = true ∧ t.av.move = some { v with stalled := true } ∧
        (∀ j, j ≠ v.l → eng t j = eng s j) ∧ t = { s with engs := t.engs, av := { s.av with move := t.av.move } }) ∧
      (1024 ≤ dirty → v.round + 1 < 8 → exec (.moveCopyRound dirty) s =
        .next { s with av := { s.av with move := some { v with round := v.round + 1 } } }) ∧
      (1024 ≤ dirty → 8 ≤ v.round + 1 → ∃ t, exec (.moveCopyRound dirty) s = .next t ∧ t.av.move = none ∧
        getReg t (aAv 0x4C) = satAdd (getReg s (aAv 0x4C)) 1 ∧ flag t (aAv 0x00) 17 = false ∧ flag t (aAv 0x44) 31 = false ∧
        t = { s with regs := t.regs, av := { s.av with move := none } } ∧ RegsKept s t [aAv 0x00, aAv 0x44, aAv 0x4C])) ∧
    ((s.av.move = none ∨ ∃ v, s.av.move = some v ∧ v.stalled = false) → exec .moveComplete s = .next s) ∧
    (∀ v, awake s = true → s.av.move = some v → v.stalled = true → v.l < 16 → v.dst < 18 → ∃ t, exec .moveComplete s = .next t ∧
      engPhys t v.l = v.dst ∧ (eng t v.l).moving = false ∧ (∀ j, j ≠ v.l → eng t j = eng s j) ∧ t.av.move = none ∧ t.av.lastMoved = v.l ∧
      t.av.testing = s.av.testing ++ [engPhys s v.l] ∧ t.av.tested = s.av.tested ∧ EventSet 91 t ∧ getReg t (aEng v.l 0x2C) = getReg s (aEng v.l 0x2C) + 1 ∧
      t.csGen = s.csGen + 2 ∧ t.mem = s.mem) ∧
    (∀ e res word, (e ∉ s.av.testing ∨ res = 0 ∨ 3 < res) → exec (.selfTestEnd e res word) s = .next s) ∧
    (∀ e res word, awake s = true → e ∈ s.av.testing →
      (res = 1 → ∃ t, exec (.selfTestEnd e res word) s = .next t ∧ t.av.testing = s.av.testing.filter (fun x => decide (x ≠ e)) ∧
        t.av.tested = s.av.tested.filter (fun x => decide (x.1 ≠ e)) ++ [(e, s.time.ft)] ∧ getReg t (aAv 0x48) = wd (e * 2 ^ 24 + 2 ^ 22) ∧ t.csGen = s.csGen + 2 ∧ t.engs = s.engs ∧
        RegsKept s t [aAv 0x00, aAv 0x48]) ∧
      (res = 2 ∨ res = 3 → ∃ t, exec (.selfTestEnd e res word) s = .next t ∧ e ∈ t.av.engRetired ∧ e ∉ t.av.testing ∧
        flag t (aAv 0x00) 7 = true ∧ EventSet 92 t ∧ getReg t (aAv 0x50) = satAdd (getReg s (aAv 0x50)) 1 ∧
        getReg t (aAv 0x48) = wd (e * 2 ^ 24 + res * 2 ^ 22 + (if res = 2 then word % 2 ^ 17 else 0)) ∧
        t.engs = s.engs ∧ RegsKeptE s t [aAv 0x00, aAv 0x48, aAv 0x50]))
end

