-- ==== Sys2Proof/Laws/Tab.lean ====
section
/-!
SUPPORT. Sparse tables: a read after a write, and the canonical form that every write keeps.
-/
namespace Sys2Proof.Machine

/-! ### Reads after writes -/

theorem tabGet_tabPut {α : Type} (d : Nat → α) (k j : Nat) (v : α) (t : Tab α) :
    tabGet d (tabPut t k v) j = if j = k then v else tabGet d t j := by
  induction t with
  | nil => simp [tabPut, tabGet]
  | cons e r ih =>
    obtain ⟨k', v'⟩ := e
    simp only [tabPut]
    split
    · simp [tabGet]
    · split
      · subst k'; simp only [tabGet]; split <;> simp_all
      · simp only [tabGet, ih]; split
        · rename_i h1 h2 h3; subst h3; simp [Ne.symm h2]
        · rfl

theorem tabGet_tabDel {α : Type} (d : Nat → α) (k j : Nat) (t : Tab α) :
    tabGet d (tabDel t k) j = if j = k then d k else tabGet d t j := by
  induction t with
  | nil => simp only [tabDel, tabGet]; split <;> simp_all
  | cons e r ih =>
    obtain ⟨k', v'⟩ := e
    simp only [tabDel]
    split
    · subst k'; rw [ih]; simp only [tabGet]; split <;> simp_all
    · simp only [tabGet, ih]; split
      · rename_i h1 h2; subst h2; simp [Ne.symm h1]
      · rfl

/-- A read after a write gives the value written at that key and the old value elsewhere. -/
theorem tabGet_tabSet {α : Type} [DecidableEq α] (d : Nat → α) (t : Tab α) (k j : Nat) (v : α) :
    tabGet d (tabSet d t k v) j = if j = k then v else tabGet d t j := by
  unfold tabSet
  split
  · rename_i h; rw [tabGet_tabDel, h]
  · exact tabGet_tabPut d k j v t

@[simp] theorem tabGet_tabSet_same {α : Type} [DecidableEq α] (d : Nat → α) (t : Tab α) (k : Nat) (v : α) :
    tabGet d (tabSet d t k v) k = v := by simp [tabGet_tabSet]

theorem tabGet_tabSet_ne {α : Type} [DecidableEq α] (d : Nat → α) (t : Tab α) (k j : Nat) (v : α) (h : j ≠ k) :
    tabGet d (tabSet d t k v) j = tabGet d t j := by simp [tabGet_tabSet, h]

/-! ### The canonical form -/

theorem tabWfFrom_mono {α : Type} [DecidableEq α] (d : Nat → α) (t : Tab α) (lo hi : Option Nat)
    (h : ∀ l, lo = some l → ∃ m, hi = some m ∧ l ≤ m) (w : tabWfFrom d hi t = true) : tabWfFrom d lo t = true := by
  cases t with
  | nil => rfl
  | cons e r =>
    obtain ⟨k, v⟩ := e
    cases lo with
    | none => cases hi <;> simp_all [tabWfFrom]
    | some l =>
      obtain ⟨m, rfl, hm⟩ := h l rfl
      simp only [tabWfFrom, Bool.and_eq_true, decide_eq_true_eq] at *
      exact ⟨⟨by omega, w.1.2⟩, w.2⟩

theorem tabWfFrom_del {α : Type} [DecidableEq α] (d : Nat → α) (k : Nat) (t : Tab α) :
    ∀ lo, tabWfFrom d lo t = true → tabWfFrom d lo (tabDel t k) = true := by
  induction t with
  | nil => intro lo h; exact h
  | cons e r ih =>
    obtain ⟨k', v'⟩ := e
    intro lo h
    simp only [tabWfFrom, Bool.and_eq_true, decide_eq_true_eq] at h
    simp only [tabDel]
    split
    · refine ih lo (tabWfFrom_mono d r lo (some k') ?_ h.2)
      intro l hl; subst hl; exact ⟨k', rfl, by have := h.1.1; simp at this; omega⟩
    · simp only [tabWfFrom, Bool.and_eq_true, decide_eq_true_eq]
      exact ⟨h.1, ih (some k') h.2⟩

theorem tabWfFrom_put {α : Type} [DecidableEq α] (d : Nat → α) (k : Nat) (v : α) (hv : v ≠ d k) (t : Tab α) :
    ∀ lo, (∀ l, lo = some l → l < k) → tabWfFrom d lo t = true → tabWfFrom d lo (tabPut t k v) = true := by
  induction t with
  | nil =>
    intro lo hl _
    cases lo with
    | none => simp [tabPut, tabWfFrom, hv]
    | some l => simp [tabPut, tabWfFrom, hv, hl l rfl]
  | cons e r ih =>
    obtain ⟨k', v'⟩ := e
    intro lo hl h
    simp only [tabPut]
    have h' := h
    simp only [tabWfFrom, Bool.and_eq_true, decide_eq_true_eq] at h'
    split
    · rename_i hk
      cases lo with
      | none => simp [tabWfFrom, hv, hk, h'.1.2, h'.2]
      | some l => simp [tabWfFrom, hv, hk, h'.1.2, h'.2, hl l rfl]
    · split
      · subst k'
        simp only [tabWfFrom, Bool.and_eq_true, decide_eq_true_eq]
        exact ⟨⟨h'.1.1, hv⟩, h'.2⟩
      · simp only [tabWfFrom, Bool.and_eq_true, decide_eq_true_eq]
        exact ⟨h'.1, ih (some k') (by intro l hl'; cases hl'; omega) h'.2⟩

/-- A write keeps the canonical form. -/
theorem tabWf_tabSet {α : Type} [DecidableEq α] (d : Nat → α) (t : Tab α) (k : Nat) (v : α) (h : tabWf d t = true) :
    tabWf d (tabSet d t k v) = true := by
  unfold tabSet tabWf
  split
  · exact tabWfFrom_del d k t none h
  · rename_i hv; exact tabWfFrom_put d k v hv t none (by simp) h

theorem tabWfFrom_filter {α : Type} [DecidableEq α] (d : Nat → α) (p : Nat × α → Bool) (t : Tab α) :
    ∀ lo, tabWfFrom d lo t = true → tabWfFrom d lo (t.filter p) = true := by
  induction t with
  | nil => intro lo h; exact h
  | cons e r ih =>
    obtain ⟨k', v'⟩ := e
    intro lo h
    simp only [tabWfFrom, Bool.and_eq_true, decide_eq_true_eq] at h
    rw [List.filter_cons]
    split
    · simp only [tabWfFrom, Bool.and_eq_true, decide_eq_true_eq]
      exact ⟨h.1, ih (some k') h.2⟩
    · refine ih lo (tabWfFrom_mono d r lo (some k') ?_ h.2)
      intro l hl; subst hl; exact ⟨k', rfl, by have := h.1.1; simp at this; omega⟩

/-- Leaving entries out keeps the canonical form. -/
theorem tabWf_filter {α : Type} [DecidableEq α] (d : Nat → α) (p : Nat × α → Bool) (t : Tab α) (h : tabWf d t = true) :
    tabWf d (t.filter p) = true := tabWfFrom_filter d p t none h

end Sys2Proof.Machine
end

