-- ==== Sys2Proof/Laws/State.lean ====
section
/-!
SUPPORT. The updates of the state: what each field holds after each of them.
-/
namespace Sys2Proof.Machine

variable {s : State}

/-! ### setReg -/

@[simp] theorem setReg_m4 {a v} : (setReg s a v).m4 = s.m4 := rfl
@[simp] theorem setReg_duid {a v} : (setReg s a v).duid = s.duid := rfl
@[simp] theorem setReg_srev {a v} : (setReg s a v).srev = s.srev := rfl
@[simp] theorem setReg_pending {a v} : (setReg s a v).pending = s.pending := rfl
@[simp] theorem setReg_now {a v} : (setReg s a v).now = s.now := rfl
@[simp] theorem setReg_free {a v} : (setReg s a v).free = s.free := rfl
@[simp] theorem setReg_nodeId {a v} : (setReg s a v).nodeId = s.nodeId := rfl
@[simp] theorem setReg_csGen {a v} : (setReg s a v).csGen = s.csGen := rfl
@[simp] theorem setReg_mem {a v} : (setReg s a v).mem = s.mem := rfl
@[simp] theorem setReg_ecc {a v} : (setReg s a v).ecc = s.ecc := rfl
@[simp] theorem setReg_power {a v} : (setReg s a v).power = s.power := rfl
@[simp] theorem setReg_pulses {a v} : (setReg s a v).pulses = s.pulses := rfl
@[simp] theorem setReg_epochs {a v} : (setReg s a v).epochs = s.epochs := rfl
@[simp] theorem setReg_evtDue {a v} : (setReg s a v).evtDue = s.evtDue := rfl
@[simp] theorem setReg_peerDue {a v} : (setReg s a v).peerDue = s.peerDue := rfl
@[simp] theorem setReg_evtHold {a v} : (setReg s a v).evtHold = s.evtHold := rfl
@[simp] theorem setReg_latch {a v} : (setReg s a v).latch = s.latch := rfl
@[simp] theorem setReg_fifos {a v} : (setReg s a v).fifos = s.fifos := rfl
@[simp] theorem setReg_time {a v} : (setReg s a v).time = s.time := rfl
@[simp] theorem setReg_ring {a v} : (setReg s a v).ring = s.ring := rfl
@[simp] theorem setReg_tables {a v} : (setReg s a v).tables = s.tables := rfl
@[simp] theorem setReg_cells {a v} : (setReg s a v).cells = s.cells := rfl
@[simp] theorem setReg_srcSeq {a v} : (setReg s a v).srcSeq = s.srcSeq := rfl
@[simp] theorem setReg_parsers {a v} : (setReg s a v).parsers = s.parsers := rfl
@[simp] theorem setReg_queues {a v} : (setReg s a v).queues = s.queues := rfl
@[simp] theorem setReg_sweep {a v} : (setReg s a v).sweep = s.sweep := rfl
@[simp] theorem setReg_slices {a v} : (setReg s a v).slices = s.slices := rfl
@[simp] theorem setReg_raws {a v} : (setReg s a v).raws = s.raws := rfl
@[simp] theorem setReg_tiles {a v} : (setReg s a v).tiles = s.tiles := rfl
@[simp] theorem setReg_lines {a v} : (setReg s a v).lines = s.lines := rfl
@[simp] theorem setReg_sliceMap {a v} : (setReg s a v).sliceMap = s.sliceMap := rfl
@[simp] theorem setReg_dl {a v} : (setReg s a v).dl = s.dl := rfl
@[simp] theorem setReg_dlShutDeb {a v} : (setReg s a v).dlShutDeb = s.dlShutDeb := rfl
@[simp] theorem setReg_engs {a v} : (setReg s a v).engs = s.engs := rfl
@[simp] theorem setReg_av {a v} : (setReg s a v).av = s.av := rfl
@[simp] theorem setReg_upd {a v} : (setReg s a v).upd = s.upd := rfl
@[simp] theorem setReg_fab {a v} : (setReg s a v).fab = s.fab := rfl
@[simp] theorem setReg_can {a v} : (setReg s a v).can = s.can := rfl
@[simp] theorem setReg_canGate {a v} : (setReg s a v).canGate = s.canGate := rfl
@[simp] theorem setReg_recGate {a v} : (setReg s a v).recGate = s.recGate := rfl
@[simp] theorem memByte_setReg {a v b} : memByte (setReg s a v) b = memByte s b := rfl

/-! ### memPut -/

@[simp] theorem memPut_m4 {a v} : (memPut s a v).m4 = s.m4 := rfl
@[simp] theorem memPut_duid {a v} : (memPut s a v).duid = s.duid := rfl
@[simp] theorem memPut_srev {a v} : (memPut s a v).srev = s.srev := rfl
@[simp] theorem memPut_pending {a v} : (memPut s a v).pending = s.pending := rfl
@[simp] theorem memPut_now {a v} : (memPut s a v).now = s.now := rfl
@[simp] theorem memPut_free {a v} : (memPut s a v).free = s.free := rfl
@[simp] theorem memPut_nodeId {a v} : (memPut s a v).nodeId = s.nodeId := rfl
@[simp] theorem memPut_csGen {a v} : (memPut s a v).csGen = s.csGen := rfl
@[simp] theorem memPut_regs {a v} : (memPut s a v).regs = s.regs := rfl
@[simp] theorem memPut_power {a v} : (memPut s a v).power = s.power := rfl
@[simp] theorem memPut_pulses {a v} : (memPut s a v).pulses = s.pulses := rfl
@[simp] theorem memPut_epochs {a v} : (memPut s a v).epochs = s.epochs := rfl
@[simp] theorem memPut_evtDue {a v} : (memPut s a v).evtDue = s.evtDue := rfl
@[simp] theorem memPut_peerDue {a v} : (memPut s a v).peerDue = s.peerDue := rfl
@[simp] theorem memPut_evtHold {a v} : (memPut s a v).evtHold = s.evtHold := rfl
@[simp] theorem memPut_latch {a v} : (memPut s a v).latch = s.latch := rfl
@[simp] theorem memPut_fifos {a v} : (memPut s a v).fifos = s.fifos := rfl
@[simp] theorem memPut_time {a v} : (memPut s a v).time = s.time := rfl
@[simp] theorem memPut_ring {a v} : (memPut s a v).ring = s.ring := rfl
@[simp] theorem memPut_tables {a v} : (memPut s a v).tables = s.tables := rfl
@[simp] theorem memPut_cells {a v} : (memPut s a v).cells = s.cells := rfl
@[simp] theorem memPut_srcSeq {a v} : (memPut s a v).srcSeq = s.srcSeq := rfl
@[simp] theorem memPut_parsers {a v} : (memPut s a v).parsers = s.parsers := rfl
@[simp] theorem memPut_queues {a v} : (memPut s a v).queues = s.queues := rfl
@[simp] theorem memPut_sweep {a v} : (memPut s a v).sweep = s.sweep := rfl
@[simp] theorem memPut_slices {a v} : (memPut s a v).slices = s.slices := rfl
@[simp] theorem memPut_raws {a v} : (memPut s a v).raws = s.raws := rfl
@[simp] theorem memPut_tiles {a v} : (memPut s a v).tiles = s.tiles := rfl
@[simp] theorem memPut_lines {a v} : (memPut s a v).lines = s.lines := rfl
@[simp] theorem memPut_sliceMap {a v} : (memPut s a v).sliceMap = s.sliceMap := rfl
@[simp] theorem memPut_dl {a v} : (memPut s a v).dl = s.dl := rfl
@[simp] theorem memPut_dlShutDeb {a v} : (memPut s a v).dlShutDeb = s.dlShutDeb := rfl
@[simp] theorem memPut_engs {a v} : (memPut s a v).engs = s.engs := rfl
@[simp] theorem memPut_av {a v} : (memPut s a v).av = s.av := rfl
@[simp] theorem memPut_upd {a v} : (memPut s a v).upd = s.upd := rfl
@[simp] theorem memPut_fab {a v} : (memPut s a v).fab = s.fab := rfl
@[simp] theorem memPut_can {a v} : (memPut s a v).can = s.can := rfl
@[simp] theorem memPut_canGate {a v} : (memPut s a v).canGate = s.canGate := rfl
@[simp] theorem memPut_recGate {a v} : (memPut s a v).recGate = s.recGate := rfl
@[simp] theorem getReg_memPut {a v b} : getReg (memPut s a v) b = getReg s b := rfl

/-! ### setLatch -/

@[simp] theorem setLatch_m4 {l c} : (setLatch l c s).m4 = s.m4 := rfl
@[simp] theorem setLatch_duid {l c} : (setLatch l c s).duid = s.duid := rfl
@[simp] theorem setLatch_srev {l c} : (setLatch l c s).srev = s.srev := rfl
@[simp] theorem setLatch_pending {l c} : (setLatch l c s).pending = s.pending := rfl
@[simp] theorem setLatch_now {l c} : (setLatch l c s).now = s.now := rfl
@[simp] theorem setLatch_free {l c} : (setLatch l c s).free = s.free := rfl
@[simp] theorem setLatch_nodeId {l c} : (setLatch l c s).nodeId = s.nodeId := rfl
@[simp] theorem setLatch_csGen {l c} : (setLatch l c s).csGen = s.csGen := rfl
@[simp] theorem setLatch_regs {l c} : (setLatch l c s).regs = s.regs := rfl
@[simp] theorem setLatch_mem {l c} : (setLatch l c s).mem = s.mem := rfl
@[simp] theorem setLatch_ecc {l c} : (setLatch l c s).ecc = s.ecc := rfl
@[simp] theorem setLatch_power {l c} : (setLatch l c s).power = s.power := rfl
@[simp] theorem setLatch_pulses {l c} : (setLatch l c s).pulses = s.pulses := rfl
@[simp] theorem setLatch_epochs {l c} : (setLatch l c s).epochs = s.epochs := rfl
@[simp] theorem setLatch_evtDue {l c} : (setLatch l c s).evtDue = s.evtDue := rfl
@[simp] theorem setLatch_peerDue {l c} : (setLatch l c s).peerDue = s.peerDue := rfl
@[simp] theorem setLatch_evtHold {l c} : (setLatch l c s).evtHold = s.evtHold := rfl
@[simp] theorem setLatch_fifos {l c} : (setLatch l c s).fifos = s.fifos := rfl
@[simp] theorem setLatch_time {l c} : (setLatch l c s).time = s.time := rfl
@[simp] theorem setLatch_ring {l c} : (setLatch l c s).ring = s.ring := rfl
@[simp] theorem setLatch_tables {l c} : (setLatch l c s).tables = s.tables := rfl
@[simp] theorem setLatch_cells {l c} : (setLatch l c s).cells = s.cells := rfl
@[simp] theorem setLatch_srcSeq {l c} : (setLatch l c s).srcSeq = s.srcSeq := rfl
@[simp] theorem setLatch_parsers {l c} : (setLatch l c s).parsers = s.parsers := rfl
@[simp] theorem setLatch_queues {l c} : (setLatch l c s).queues = s.queues := rfl
@[simp] theorem setLatch_sweep {l c} : (setLatch l c s).sweep = s.sweep := rfl
@[simp] theorem setLatch_slices {l c} : (setLatch l c s).slices = s.slices := rfl
@[simp] theorem setLatch_raws {l c} : (setLatch l c s).raws = s.raws := rfl
@[simp] theorem setLatch_tiles {l c} : (setLatch l c s).tiles = s.tiles := rfl
@[simp] theorem setLatch_lines {l c} : (setLatch l c s).lines = s.lines := rfl
@[simp] theorem setLatch_sliceMap {l c} : (setLatch l c s).sliceMap = s.sliceMap := rfl
@[simp] theorem setLatch_dl {l c} : (setLatch l c s).dl = s.dl := rfl
@[simp] theorem setLatch_dlShutDeb {l c} : (setLatch l c s).dlShutDeb = s.dlShutDeb := rfl
@[simp] theorem setLatch_engs {l c} : (setLatch l c s).engs = s.engs := rfl
@[simp] theorem setLatch_av {l c} : (setLatch l c s).av = s.av := rfl
@[simp] theorem setLatch_upd {l c} : (setLatch l c s).upd = s.upd := rfl
@[simp] theorem setLatch_fab {l c} : (setLatch l c s).fab = s.fab := rfl
@[simp] theorem setLatch_can {l c} : (setLatch l c s).can = s.can := rfl
@[simp] theorem setLatch_canGate {l c} : (setLatch l c s).canGate = s.canGate := rfl
@[simp] theorem setLatch_recGate {l c} : (setLatch l c s).recGate = s.recGate := rfl
@[simp] theorem getReg_setLatch {l c b} : getReg (setLatch l c s) b = getReg s b := rfl
@[simp] theorem memByte_setLatch {l c b} : memByte (setLatch l c s) b = memByte s b := rfl

/-! ### csChange -/

@[simp] theorem csChange_m4 : (csChange s).m4 = s.m4 := rfl
@[simp] theorem csChange_duid : (csChange s).duid = s.duid := rfl
@[simp] theorem csChange_srev : (csChange s).srev = s.srev := rfl
@[simp] theorem csChange_pending : (csChange s).pending = s.pending := rfl
@[simp] theorem csChange_now : (csChange s).now = s.now := rfl
@[simp] theorem csChange_free : (csChange s).free = s.free := rfl
@[simp] theorem csChange_nodeId : (csChange s).nodeId = s.nodeId := rfl
@[simp] theorem csChange_regs : (csChange s).regs = s.regs := rfl
@[simp] theorem csChange_mem : (csChange s).mem = s.mem := rfl
@[simp] theorem csChange_ecc : (csChange s).ecc = s.ecc := rfl
@[simp] theorem csChange_power : (csChange s).power = s.power := rfl
@[simp] theorem csChange_pulses : (csChange s).pulses = s.pulses := rfl
@[simp] theorem csChange_epochs : (csChange s).epochs = s.epochs := rfl
@[simp] theorem csChange_evtDue : (csChange s).evtDue = s.evtDue := rfl
@[simp] theorem csChange_peerDue : (csChange s).peerDue = s.peerDue := rfl
@[simp] theorem csChange_evtHold : (csChange s).evtHold = s.evtHold := rfl
@[simp] theorem csChange_latch : (csChange s).latch = s.latch := rfl
@[simp] theorem csChange_fifos : (csChange s).fifos = s.fifos := rfl
@[simp] theorem csChange_time : (csChange s).time = s.time := rfl
@[simp] theorem csChange_ring : (csChange s).ring = s.ring := rfl
@[simp] theorem csChange_tables : (csChange s).tables = s.tables := rfl
@[simp] theorem csChange_cells : (csChange s).cells = s.cells := rfl
@[simp] theorem csChange_srcSeq : (csChange s).srcSeq = s.srcSeq := rfl
@[simp] theorem csChange_parsers : (csChange s).parsers = s.parsers := rfl
@[simp] theorem csChange_queues : (csChange s).queues = s.queues := rfl
@[simp] theorem csChange_sweep : (csChange s).sweep = s.sweep := rfl
@[simp] theorem csChange_slices : (csChange s).slices = s.slices := rfl
@[simp] theorem csChange_raws : (csChange s).raws = s.raws := rfl
@[simp] theorem csChange_tiles : (csChange s).tiles = s.tiles := rfl
@[simp] theorem csChange_lines : (csChange s).lines = s.lines := rfl
@[simp] theorem csChange_sliceMap : (csChange s).sliceMap = s.sliceMap := rfl
@[simp] theorem csChange_dl : (csChange s).dl = s.dl := rfl
@[simp] theorem csChange_dlShutDeb : (csChange s).dlShutDeb = s.dlShutDeb := rfl
@[simp] theorem csChange_engs : (csChange s).engs = s.engs := rfl
@[simp] theorem csChange_av : (csChange s).av = s.av := rfl
@[simp] theorem csChange_upd : (csChange s).upd = s.upd := rfl
@[simp] theorem csChange_fab : (csChange s).fab = s.fab := rfl
@[simp] theorem csChange_can : (csChange s).can = s.can := rfl
@[simp] theorem csChange_canGate : (csChange s).canGate = s.canGate := rfl
@[simp] theorem csChange_recGate : (csChange s).recGate = s.recGate := rfl
@[simp] theorem getReg_csChange {b} : getReg (csChange s) b = getReg s b := rfl
@[simp] theorem memByte_csChange {b} : memByte (csChange s) b = memByte s b := rfl

/-! ### setCellSt -/

@[simp] theorem setCellSt_m4 {c v} : (setCellSt s c v).m4 = s.m4 := rfl
@[simp] theorem setCellSt_duid {c v} : (setCellSt s c v).duid = s.duid := rfl
@[simp] theorem setCellSt_srev {c v} : (setCellSt s c v).srev = s.srev := rfl
@[simp] theorem setCellSt_pending {c v} : (setCellSt s c v).pending = s.pending := rfl
@[simp] theorem setCellSt_now {c v} : (setCellSt s c v).now = s.now := rfl
@[simp] theorem setCellSt_free {c v} : (setCellSt s c v).free = s.free := rfl
@[simp] theorem setCellSt_nodeId {c v} : (setCellSt s c v).nodeId = s.nodeId := rfl
@[simp] theorem setCellSt_csGen {c v} : (setCellSt s c v).csGen = s.csGen := rfl
@[simp] theorem setCellSt_regs {c v} : (setCellSt s c v).regs = s.regs := rfl
@[simp] theorem setCellSt_mem {c v} : (setCellSt s c v).mem = s.mem := rfl
@[simp] theorem setCellSt_ecc {c v} : (setCellSt s c v).ecc = s.ecc := rfl
@[simp] theorem setCellSt_power {c v} : (setCellSt s c v).power = s.power := rfl
@[simp] theorem setCellSt_pulses {c v} : (setCellSt s c v).pulses = s.pulses := rfl
@[simp] theorem setCellSt_epochs {c v} : (setCellSt s c v).epochs = s.epochs := rfl
@[simp] theorem setCellSt_evtDue {c v} : (setCellSt s c v).evtDue = s.evtDue := rfl
@[simp] theorem setCellSt_peerDue {c v} : (setCellSt s c v).peerDue = s.peerDue := rfl
@[simp] theorem setCellSt_evtHold {c v} : (setCellSt s c v).evtHold = s.evtHold := rfl
@[simp] theorem setCellSt_latch {c v} : (setCellSt s c v).latch = s.latch := rfl
@[simp] theorem setCellSt_fifos {c v} : (setCellSt s c v).fifos = s.fifos := rfl
@[simp] theorem setCellSt_time {c v} : (setCellSt s c v).time = s.time := rfl
@[simp] theorem setCellSt_ring {c v} : (setCellSt s c v).ring = s.ring := rfl
@[simp] theorem setCellSt_tables {c v} : (setCellSt s c v).tables = s.tables := rfl
@[simp] theorem setCellSt_srcSeq {c v} : (setCellSt s c v).srcSeq = s.srcSeq := rfl
@[simp] theorem setCellSt_parsers {c v} : (setCellSt s c v).parsers = s.parsers := rfl
@[simp] theorem setCellSt_queues {c v} : (setCellSt s c v).queues = s.queues := rfl
@[simp] theorem setCellSt_sweep {c v} : (setCellSt s c v).sweep = s.sweep := rfl
@[simp] theorem setCellSt_slices {c v} : (setCellSt s c v).slices = s.slices := rfl
@[simp] theorem setCellSt_raws {c v} : (setCellSt s c v).raws = s.raws := rfl
@[simp] theorem setCellSt_tiles {c v} : (setCellSt s c v).tiles = s.tiles := rfl
@[simp] theorem setCellSt_lines {c v} : (setCellSt s c v).lines = s.lines := rfl
@[simp] theorem setCellSt_sliceMap {c v} : (setCellSt s c v).sliceMap = s.sliceMap := rfl
@[simp] theorem setCellSt_dl {c v} : (setCellSt s c v).dl = s.dl := rfl
@[simp] theorem setCellSt_dlShutDeb {c v} : (setCellSt s c v).dlShutDeb = s.dlShutDeb := rfl
@[simp] theorem setCellSt_engs {c v} : (setCellSt s c v).engs = s.engs := rfl
@[simp] theorem setCellSt_av {c v} : (setCellSt s c v).av = s.av := rfl
@[simp] theorem setCellSt_upd {c v} : (setCellSt s c v).upd = s.upd := rfl
@[simp] theorem setCellSt_fab {c v} : (setCellSt s c v).fab = s.fab := rfl
@[simp] theorem setCellSt_can {c v} : (setCellSt s c v).can = s.can := rfl
@[simp] theorem setCellSt_canGate {c v} : (setCellSt s c v).canGate = s.canGate := rfl
@[simp] theorem setCellSt_recGate {c v} : (setCellSt s c v).recGate = s.recGate := rfl
@[simp] theorem getReg_setCellSt {c v b} : getReg (setCellSt s c v) b = getReg s b := rfl
@[simp] theorem memByte_setCellSt {c v b} : memByte (setCellSt s c v) b = memByte s b := rfl

/-! ### freeChain -/

@[simp] theorem freeChain_m4 {c} : (freeChain c s).m4 = s.m4 := rfl
@[simp] theorem freeChain_duid {c} : (freeChain c s).duid = s.duid := rfl
@[simp] theorem freeChain_srev {c} : (freeChain c s).srev = s.srev := rfl
@[simp] theorem freeChain_pending {c} : (freeChain c s).pending = s.pending := rfl
@[simp] theorem freeChain_now {c} : (freeChain c s).now = s.now := rfl
@[simp] theorem freeChain_free {c} : (freeChain c s).free = s.free := rfl
@[simp] theorem freeChain_nodeId {c} : (freeChain c s).nodeId = s.nodeId := rfl
@[simp] theorem freeChain_csGen {c} : (freeChain c s).csGen = s.csGen := rfl
@[simp] theorem freeChain_regs {c} : (freeChain c s).regs = s.regs := rfl
@[simp] theorem freeChain_mem {c} : (freeChain c s).mem = s.mem := rfl
@[simp] theorem freeChain_ecc {c} : (freeChain c s).ecc = s.ecc := rfl
@[simp] theorem freeChain_power {c} : (freeChain c s).power = s.power := rfl
@[simp] theorem freeChain_pulses {c} : (freeChain c s).pulses = s.pulses := rfl
@[simp] theorem freeChain_epochs {c} : (freeChain c s).epochs = s.epochs := rfl
@[simp] theorem freeChain_evtDue {c} : (freeChain c s).evtDue = s.evtDue := rfl
@[simp] theorem freeChain_peerDue {c} : (freeChain c s).peerDue = s.peerDue := rfl
@[simp] theorem freeChain_evtHold {c} : (freeChain c s).evtHold = s.evtHold := rfl
@[simp] theorem freeChain_latch {c} : (freeChain c s).latch = s.latch := rfl
@[simp] theorem freeChain_fifos {c} : (freeChain c s).fifos = s.fifos := rfl
@[simp] theorem freeChain_time {c} : (freeChain c s).time = s.time := rfl
@[simp] theorem freeChain_ring {c} : (freeChain c s).ring = s.ring := rfl
@[simp] theorem freeChain_tables {c} : (freeChain c s).tables = s.tables := rfl
@[simp] theorem freeChain_srcSeq {c} : (freeChain c s).srcSeq = s.srcSeq := rfl
@[simp] theorem freeChain_parsers {c} : (freeChain c s).parsers = s.parsers := rfl
@[simp] theorem freeChain_queues {c} : (freeChain c s).queues = s.queues := rfl
@[simp] theorem freeChain_sweep {c} : (freeChain c s).sweep = s.sweep := rfl
@[simp] theorem freeChain_slices {c} : (freeChain c s).slices = s.slices := rfl
@[simp] theorem freeChain_raws {c} : (freeChain c s).raws = s.raws := rfl
@[simp] theorem freeChain_tiles {c} : (freeChain c s).tiles = s.tiles := rfl
@[simp] theorem freeChain_lines {c} : (freeChain c s).lines = s.lines := rfl
@[simp] theorem freeChain_sliceMap {c} : (freeChain c s).sliceMap = s.sliceMap := rfl
@[simp] theorem freeChain_dl {c} : (freeChain c s).dl = s.dl := rfl
@[simp] theorem freeChain_dlShutDeb {c} : (freeChain c s).dlShutDeb = s.dlShutDeb := rfl
@[simp] theorem freeChain_engs {c} : (freeChain c s).engs = s.engs := rfl
@[simp] theorem freeChain_av {c} : (freeChain c s).av = s.av := rfl
@[simp] theorem freeChain_upd {c} : (freeChain c s).upd = s.upd := rfl
@[simp] theorem freeChain_fab {c} : (freeChain c s).fab = s.fab := rfl
@[simp] theorem freeChain_can {c} : (freeChain c s).can = s.can := rfl
@[simp] theorem freeChain_canGate {c} : (freeChain c s).canGate = s.canGate := rfl
@[simp] theorem freeChain_recGate {c} : (freeChain c s).recGate = s.recGate := rfl
@[simp] theorem getReg_freeChain {c b} : getReg (freeChain c s) b = getReg s b := rfl
@[simp] theorem memByte_freeChain {c b} : memByte (freeChain c s) b = memByte s b := rfl

/-! ### setFifo -/

@[simp] theorem setFifo_m4 {f v} : (setFifo s f v).m4 = s.m4 := rfl
@[simp] theorem setFifo_duid {f v} : (setFifo s f v).duid = s.duid := rfl
@[simp] theorem setFifo_srev {f v} : (setFifo s f v).srev = s.srev := rfl
@[simp] theorem setFifo_pending {f v} : (setFifo s f v).pending = s.pending := rfl
@[simp] theorem setFifo_now {f v} : (setFifo s f v).now = s.now := rfl
@[simp] theorem setFifo_free {f v} : (setFifo s f v).free = s.free := rfl
@[simp] theorem setFifo_nodeId {f v} : (setFifo s f v).nodeId = s.nodeId := rfl
@[simp] theorem setFifo_csGen {f v} : (setFifo s f v).csGen = s.csGen := rfl
@[simp] theorem setFifo_regs {f v} : (setFifo s f v).regs = s.regs := rfl
@[simp] theorem setFifo_mem {f v} : (setFifo s f v).mem = s.mem := rfl
@[simp] theorem setFifo_ecc {f v} : (setFifo s f v).ecc = s.ecc := rfl
@[simp] theorem setFifo_power {f v} : (setFifo s f v).power = s.power := rfl
@[simp] theorem setFifo_pulses {f v} : (setFifo s f v).pulses = s.pulses := rfl
@[simp] theorem setFifo_epochs {f v} : (setFifo s f v).epochs = s.epochs := rfl
@[simp] theorem setFifo_evtDue {f v} : (setFifo s f v).evtDue = s.evtDue := rfl
@[simp] theorem setFifo_peerDue {f v} : (setFifo s f v).peerDue = s.peerDue := rfl
@[simp] theorem setFifo_evtHold {f v} : (setFifo s f v).evtHold = s.evtHold := rfl
@[simp] theorem setFifo_latch {f v} : (setFifo s f v).latch = s.latch := rfl
@[simp] theorem setFifo_time {f v} : (setFifo s f v).time = s.time := rfl
@[simp] theorem setFifo_ring {f v} : (setFifo s f v).ring = s.ring := rfl
@[simp] theorem setFifo_tables {f v} : (setFifo s f v).tables = s.tables := rfl
@[simp] theorem setFifo_cells {f v} : (setFifo s f v).cells = s.cells := rfl
@[simp] theorem setFifo_srcSeq {f v} : (setFifo s f v).srcSeq = s.srcSeq := rfl
@[simp] theorem setFifo_parsers {f v} : (setFifo s f v).parsers = s.parsers := rfl
@[simp] theorem setFifo_queues {f v} : (setFifo s f v).queues = s.queues := rfl
@[simp] theorem setFifo_sweep {f v} : (setFifo s f v).sweep = s.sweep := rfl
@[simp] theorem setFifo_slices {f v} : (setFifo s f v).slices = s.slices := rfl
@[simp] theorem setFifo_raws {f v} : (setFifo s f v).raws = s.raws := rfl
@[simp] theorem setFifo_tiles {f v} : (setFifo s f v).tiles = s.tiles := rfl
@[simp] theorem setFifo_lines {f v} : (setFifo s f v).lines = s.lines := rfl
@[simp] theorem setFifo_sliceMap {f v} : (setFifo s f v).sliceMap = s.sliceMap := rfl
@[simp] theorem setFifo_dl {f v} : (setFifo s f v).dl = s.dl := rfl
@[simp] theorem setFifo_dlShutDeb {f v} : (setFifo s f v).dlShutDeb = s.dlShutDeb := rfl
@[simp] theorem setFifo_engs {f v} : (setFifo s f v).engs = s.engs := rfl
@[simp] theorem setFifo_av {f v} : (setFifo s f v).av = s.av := rfl
@[simp] theorem setFifo_upd {f v} : (setFifo s f v).upd = s.upd := rfl
@[simp] theorem setFifo_fab {f v} : (setFifo s f v).fab = s.fab := rfl
@[simp] theorem setFifo_can {f v} : (setFifo s f v).can = s.can := rfl
@[simp] theorem setFifo_canGate {f v} : (setFifo s f v).canGate = s.canGate := rfl
@[simp] theorem setFifo_recGate {f v} : (setFifo s f v).recGate = s.recGate := rfl
@[simp] theorem getReg_setFifo {f v b} : getReg (setFifo s f v) b = getReg s b := rfl
@[simp] theorem memByte_setFifo {f v b} : memByte (setFifo s f v) b = memByte s b := rfl

/-! ### setCan -/

@[simp] theorem setCan_m4 {k v} : (setCan s k v).m4 = s.m4 := rfl
@[simp] theorem setCan_duid {k v} : (setCan s k v).duid = s.duid := rfl
@[simp] theorem setCan_srev {k v} : (setCan s k v).srev = s.srev := rfl
@[simp] theorem setCan_pending {k v} : (setCan s k v).pending = s.pending := rfl
@[simp] theorem setCan_now {k v} : (setCan s k v).now = s.now := rfl
@[simp] theorem setCan_free {k v} : (setCan s k v).free = s.free := rfl
@[simp] theorem setCan_nodeId {k v} : (setCan s k v).nodeId = s.nodeId := rfl
@[simp] theorem setCan_csGen {k v} : (setCan s k v).csGen = s.csGen := rfl
@[simp] theorem setCan_regs {k v} : (setCan s k v).regs = s.regs := rfl
@[simp] theorem setCan_mem {k v} : (setCan s k v).mem = s.mem := rfl
@[simp] theorem setCan_ecc {k v} : (setCan s k v).ecc = s.ecc := rfl
@[simp] theorem setCan_power {k v} : (setCan s k v).power = s.power := rfl
@[simp] theorem setCan_pulses {k v} : (setCan s k v).pulses = s.pulses := rfl
@[simp] theorem setCan_epochs {k v} : (setCan s k v).epochs = s.epochs := rfl
@[simp] theorem setCan_evtDue {k v} : (setCan s k v).evtDue = s.evtDue := rfl
@[simp] theorem setCan_peerDue {k v} : (setCan s k v).peerDue = s.peerDue := rfl
@[simp] theorem setCan_evtHold {k v} : (setCan s k v).evtHold = s.evtHold := rfl
@[simp] theorem setCan_latch {k v} : (setCan s k v).latch = s.latch := rfl
@[simp] theorem setCan_fifos {k v} : (setCan s k v).fifos = s.fifos := rfl
@[simp] theorem setCan_time {k v} : (setCan s k v).time = s.time := rfl
@[simp] theorem setCan_ring {k v} : (setCan s k v).ring = s.ring := rfl
@[simp] theorem setCan_tables {k v} : (setCan s k v).tables = s.tables := rfl
@[simp] theorem setCan_cells {k v} : (setCan s k v).cells = s.cells := rfl
@[simp] theorem setCan_srcSeq {k v} : (setCan s k v).srcSeq = s.srcSeq := rfl
@[simp] theorem setCan_parsers {k v} : (setCan s k v).parsers = s.parsers := rfl
@[simp] theorem setCan_queues {k v} : (setCan s k v).queues = s.queues := rfl
@[simp] theorem setCan_sweep {k v} : (setCan s k v).sweep = s.sweep := rfl
@[simp] theorem setCan_slices {k v} : (setCan s k v).slices = s.slices := rfl
@[simp] theorem setCan_raws {k v} : (setCan s k v).raws = s.raws := rfl
@[simp] theorem setCan_tiles {k v} : (setCan s k v).tiles = s.tiles := rfl
@[simp] theorem setCan_lines {k v} : (setCan s k v).lines = s.lines := rfl
@[simp] theorem setCan_sliceMap {k v} : (setCan s k v).sliceMap = s.sliceMap := rfl
@[simp] theorem setCan_dl {k v} : (setCan s k v).dl = s.dl := rfl
@[simp] theorem setCan_dlShutDeb {k v} : (setCan s k v).dlShutDeb = s.dlShutDeb := rfl
@[simp] theorem setCan_engs {k v} : (setCan s k v).engs = s.engs := rfl
@[simp] theorem setCan_av {k v} : (setCan s k v).av = s.av := rfl
@[simp] theorem setCan_upd {k v} : (setCan s k v).upd = s.upd := rfl
@[simp] theorem setCan_fab {k v} : (setCan s k v).fab = s.fab := rfl
@[simp] theorem setCan_canGate {k v} : (setCan s k v).canGate = s.canGate := rfl
@[simp] theorem setCan_recGate {k v} : (setCan s k v).recGate = s.recGate := rfl
@[simp] theorem getReg_setCan {k v b} : getReg (setCan s k v) b = getReg s b := rfl
@[simp] theorem memByte_setCan {k v b} : memByte (setCan s k v) b = memByte s b := rfl

/-! ### setSlice -/

@[simp] theorem setSlice_m4 {n v} : (setSlice s n v).m4 = s.m4 := rfl
@[simp] theorem setSlice_duid {n v} : (setSlice s n v).duid = s.duid := rfl
@[simp] theorem setSlice_srev {n v} : (setSlice s n v).srev = s.srev := rfl
@[simp] theorem setSlice_pending {n v} : (setSlice s n v).pending = s.pending := rfl
@[simp] theorem setSlice_now {n v} : (setSlice s n v).now = s.now := rfl
@[simp] theorem setSlice_free {n v} : (setSlice s n v).free = s.free := rfl
@[simp] theorem setSlice_nodeId {n v} : (setSlice s n v).nodeId = s.nodeId := rfl
@[simp] theorem setSlice_csGen {n v} : (setSlice s n v).csGen = s.csGen := rfl
@[simp] theorem setSlice_regs {n v} : (setSlice s n v).regs = s.regs := rfl
@[simp] theorem setSlice_mem {n v} : (setSlice s n v).mem = s.mem := rfl
@[simp] theorem setSlice_ecc {n v} : (setSlice s n v).ecc = s.ecc := rfl
@[simp] theorem setSlice_power {n v} : (setSlice s n v).power = s.power := rfl
@[simp] theorem setSlice_pulses {n v} : (setSlice s n v).pulses = s.pulses := rfl
@[simp] theorem setSlice_epochs {n v} : (setSlice s n v).epochs = s.epochs := rfl
@[simp] theorem setSlice_evtDue {n v} : (setSlice s n v).evtDue = s.evtDue := rfl
@[simp] theorem setSlice_peerDue {n v} : (setSlice s n v).peerDue = s.peerDue := rfl
@[simp] theorem setSlice_evtHold {n v} : (setSlice s n v).evtHold = s.evtHold := rfl
@[simp] theorem setSlice_latch {n v} : (setSlice s n v).latch = s.latch := rfl
@[simp] theorem setSlice_fifos {n v} : (setSlice s n v).fifos = s.fifos := rfl
@[simp] theorem setSlice_time {n v} : (setSlice s n v).time = s.time := rfl
@[simp] theorem setSlice_ring {n v} : (setSlice s n v).ring = s.ring := rfl
@[simp] theorem setSlice_tables {n v} : (setSlice s n v).tables = s.tables := rfl
@[simp] theorem setSlice_cells {n v} : (setSlice s n v).cells = s.cells := rfl
@[simp] theorem setSlice_srcSeq {n v} : (setSlice s n v).srcSeq = s.srcSeq := rfl
@[simp] theorem setSlice_parsers {n v} : (setSlice s n v).parsers = s.parsers := rfl
@[simp] theorem setSlice_queues {n v} : (setSlice s n v).queues = s.queues := rfl
@[simp] theorem setSlice_sweep {n v} : (setSlice s n v).sweep = s.sweep := rfl
@[simp] theorem setSlice_raws {n v} : (setSlice s n v).raws = s.raws := rfl
@[simp] theorem setSlice_tiles {n v} : (setSlice s n v).tiles = s.tiles := rfl
@[simp] theorem setSlice_lines {n v} : (setSlice s n v).lines = s.lines := rfl
@[simp] theorem setSlice_sliceMap {n v} : (setSlice s n v).sliceMap = s.sliceMap := rfl
@[simp] theorem setSlice_dl {n v} : (setSlice s n v).dl = s.dl := rfl
@[simp] theorem setSlice_dlShutDeb {n v} : (setSlice s n v).dlShutDeb = s.dlShutDeb := rfl
@[simp] theorem setSlice_engs {n v} : (setSlice s n v).engs = s.engs := rfl
@[simp] theorem setSlice_av {n v} : (setSlice s n v).av = s.av := rfl
@[simp] theorem setSlice_upd {n v} : (setSlice s n v).upd = s.upd := rfl
@[simp] theorem setSlice_fab {n v} : (setSlice s n v).fab = s.fab := rfl
@[simp] theorem setSlice_can {n v} : (setSlice s n v).can = s.can := rfl
@[simp] theorem setSlice_canGate {n v} : (setSlice s n v).canGate = s.canGate := rfl
@[simp] theorem setSlice_recGate {n v} : (setSlice s n v).recGate = s.recGate := rfl
@[simp] theorem getReg_setSlice {n v b} : getReg (setSlice s n v) b = getReg s b := rfl
@[simp] theorem memByte_setSlice {n v b} : memByte (setSlice s n v) b = memByte s b := rfl

/-! ### setQueue -/

@[simp] theorem setQueue_m4 {n v} : (setQueue s n v).m4 = s.m4 := rfl
@[simp] theorem setQueue_duid {n v} : (setQueue s n v).duid = s.duid := rfl
@[simp] theorem setQueue_srev {n v} : (setQueue s n v).srev = s.srev := rfl
@[simp] theorem setQueue_pending {n v} : (setQueue s n v).pending = s.pending := rfl
@[simp] theorem setQueue_now {n v} : (setQueue s n v).now = s.now := rfl
@[simp] theorem setQueue_free {n v} : (setQueue s n v).free = s.free := rfl
@[simp] theorem setQueue_nodeId {n v} : (setQueue s n v).nodeId = s.nodeId := rfl
@[simp] theorem setQueue_csGen {n v} : (setQueue s n v).csGen = s.csGen := rfl
@[simp] theorem setQueue_regs {n v} : (setQueue s n v).regs = s.regs := rfl
@[simp] theorem setQueue_mem {n v} : (setQueue s n v).mem = s.mem := rfl
@[simp] theorem setQueue_ecc {n v} : (setQueue s n v).ecc = s.ecc := rfl
@[simp] theorem setQueue_power {n v} : (setQueue s n v).power = s.power := rfl
@[simp] theorem setQueue_pulses {n v} : (setQueue s n v).pulses = s.pulses := rfl
@[simp] theorem setQueue_epochs {n v} : (setQueue s n v).epochs = s.epochs := rfl
@[simp] theorem setQueue_evtDue {n v} : (setQueue s n v).evtDue = s.evtDue := rfl
@[simp] theorem setQueue_peerDue {n v} : (setQueue s n v).peerDue = s.peerDue := rfl
@[simp] theorem setQueue_evtHold {n v} : (setQueue s n v).evtHold = s.evtHold := rfl
@[simp] theorem setQueue_latch {n v} : (setQueue s n v).latch = s.latch := rfl
@[simp] theorem setQueue_fifos {n v} : (setQueue s n v).fifos = s.fifos := rfl
@[simp] theorem setQueue_time {n v} : (setQueue s n v).time = s.time := rfl
@[simp] theorem setQueue_ring {n v} : (setQueue s n v).ring = s.ring := rfl
@[simp] theorem setQueue_tables {n v} : (setQueue s n v).tables = s.tables := rfl
@[simp] theorem setQueue_cells {n v} : (setQueue s n v).cells = s.cells := rfl
@[simp] theorem setQueue_srcSeq {n v} : (setQueue s n v).srcSeq = s.srcSeq := rfl
@[simp] theorem setQueue_parsers {n v} : (setQueue s n v).parsers = s.parsers := rfl
@[simp] theorem setQueue_sweep {n v} : (setQueue s n v).sweep = s.sweep := rfl
@[simp] theorem setQueue_slices {n v} : (setQueue s n v).slices = s.slices := rfl
@[simp] theorem setQueue_raws {n v} : (setQueue s n v).raws = s.raws := rfl
@[simp] theorem setQueue_tiles {n v} : (setQueue s n v).tiles = s.tiles := rfl
@[simp] theorem setQueue_lines {n v} : (setQueue s n v).lines = s.lines := rfl
@[simp] theorem setQueue_sliceMap {n v} : (setQueue s n v).sliceMap = s.sliceMap := rfl
@[simp] theorem setQueue_dl {n v} : (setQueue s n v).dl = s.dl := rfl
@[simp] theorem setQueue_dlShutDeb {n v} : (setQueue s n v).dlShutDeb = s.dlShutDeb := rfl
@[simp] theorem setQueue_engs {n v} : (setQueue s n v).engs = s.engs := rfl
@[simp] theorem setQueue_av {n v} : (setQueue s n v).av = s.av := rfl
@[simp] theorem setQueue_upd {n v} : (setQueue s n v).upd = s.upd := rfl
@[simp] theorem setQueue_fab {n v} : (setQueue s n v).fab = s.fab := rfl
@[simp] theorem setQueue_can {n v} : (setQueue s n v).can = s.can := rfl
@[simp] theorem setQueue_canGate {n v} : (setQueue s n v).canGate = s.canGate := rfl
@[simp] theorem setQueue_recGate {n v} : (setQueue s n v).recGate = s.recGate := rfl
@[simp] theorem getReg_setQueue {n v b} : getReg (setQueue s n v) b = getReg s b := rfl
@[simp] theorem memByte_setQueue {n v b} : memByte (setQueue s n v) b = memByte s b := rfl

/-! ### setParser -/

@[simp] theorem setParser_m4 {n v} : (setParser s n v).m4 = s.m4 := rfl
@[simp] theorem setParser_duid {n v} : (setParser s n v).duid = s.duid := rfl
@[simp] theorem setParser_srev {n v} : (setParser s n v).srev = s.srev := rfl
@[simp] theorem setParser_pending {n v} : (setParser s n v).pending = s.pending := rfl
@[simp] theorem setParser_now {n v} : (setParser s n v).now = s.now := rfl
@[simp] theorem setParser_free {n v} : (setParser s n v).free = s.free := rfl
@[simp] theorem setParser_nodeId {n v} : (setParser s n v).nodeId = s.nodeId := rfl
@[simp] theorem setParser_csGen {n v} : (setParser s n v).csGen = s.csGen := rfl
@[simp] theorem setParser_regs {n v} : (setParser s n v).regs = s.regs := rfl
@[simp] theorem setParser_mem {n v} : (setParser s n v).mem = s.mem := rfl
@[simp] theorem setParser_ecc {n v} : (setParser s n v).ecc = s.ecc := rfl
@[simp] theorem setParser_power {n v} : (setParser s n v).power = s.power := rfl
@[simp] theorem setParser_pulses {n v} : (setParser s n v).pulses = s.pulses := rfl
@[simp] theorem setParser_epochs {n v} : (setParser s n v).epochs = s.epochs := rfl
@[simp] theorem setParser_evtDue {n v} : (setParser s n v).evtDue = s.evtDue := rfl
@[simp] theorem setParser_peerDue {n v} : (setParser s n v).peerDue = s.peerDue := rfl
@[simp] theorem setParser_evtHold {n v} : (setParser s n v).evtHold = s.evtHold := rfl
@[simp] theorem setParser_latch {n v} : (setParser s n v).latch = s.latch := rfl
@[simp] theorem setParser_fifos {n v} : (setParser s n v).fifos = s.fifos := rfl
@[simp] theorem setParser_time {n v} : (setParser s n v).time = s.time := rfl
@[simp] theorem setParser_ring {n v} : (setParser s n v).ring = s.ring := rfl
@[simp] theorem setParser_tables {n v} : (setParser s n v).tables = s.tables := rfl
@[simp] theorem setParser_cells {n v} : (setParser s n v).cells = s.cells := rfl
@[simp] theorem setParser_srcSeq {n v} : (setParser s n v).srcSeq = s.srcSeq := rfl
@[simp] theorem setParser_queues {n v} : (setParser s n v).queues = s.queues := rfl
@[simp] theorem setParser_sweep {n v} : (setParser s n v).sweep = s.sweep := rfl
@[simp] theorem setParser_slices {n v} : (setParser s n v).slices = s.slices := rfl
@[simp] theorem setParser_raws {n v} : (setParser s n v).raws = s.raws := rfl
@[simp] theorem setParser_tiles {n v} : (setParser s n v).tiles = s.tiles := rfl
@[simp] theorem setParser_lines {n v} : (setParser s n v).lines = s.lines := rfl
@[simp] theorem setParser_sliceMap {n v} : (setParser s n v).sliceMap = s.sliceMap := rfl
@[simp] theorem setParser_dl {n v} : (setParser s n v).dl = s.dl := rfl
@[simp] theorem setParser_dlShutDeb {n v} : (setParser s n v).dlShutDeb = s.dlShutDeb := rfl
@[simp] theorem setParser_engs {n v} : (setParser s n v).engs = s.engs := rfl
@[simp] theorem setParser_av {n v} : (setParser s n v).av = s.av := rfl
@[simp] theorem setParser_upd {n v} : (setParser s n v).upd = s.upd := rfl
@[simp] theorem setParser_fab {n v} : (setParser s n v).fab = s.fab := rfl
@[simp] theorem setParser_can {n v} : (setParser s n v).can = s.can := rfl
@[simp] theorem setParser_canGate {n v} : (setParser s n v).canGate = s.canGate := rfl
@[simp] theorem setParser_recGate {n v} : (setParser s n v).recGate = s.recGate := rfl
@[simp] theorem getReg_setParser {n v b} : getReg (setParser s n v) b = getReg s b := rfl
@[simp] theorem memByte_setParser {n v b} : memByte (setParser s n v) b = memByte s b := rfl

/-! ### setRaw -/

@[simp] theorem setRaw_m4 {n v} : (setRaw s n v).m4 = s.m4 := rfl
@[simp] theorem setRaw_duid {n v} : (setRaw s n v).duid = s.duid := rfl
@[simp] theorem setRaw_srev {n v} : (setRaw s n v).srev = s.srev := rfl
@[simp] theorem setRaw_pending {n v} : (setRaw s n v).pending = s.pending := rfl
@[simp] theorem setRaw_now {n v} : (setRaw s n v).now = s.now := rfl
@[simp] theorem setRaw_free {n v} : (setRaw s n v).free = s.free := rfl
@[simp] theorem setRaw_nodeId {n v} : (setRaw s n v).nodeId = s.nodeId := rfl
@[simp] theorem setRaw_csGen {n v} : (setRaw s n v).csGen = s.csGen := rfl
@[simp] theorem setRaw_regs {n v} : (setRaw s n v).regs = s.regs := rfl
@[simp] theorem setRaw_mem {n v} : (setRaw s n v).mem = s.mem := rfl
@[simp] theorem setRaw_ecc {n v} : (setRaw s n v).ecc = s.ecc := rfl
@[simp] theorem setRaw_power {n v} : (setRaw s n v).power = s.power := rfl
@[simp] theorem setRaw_pulses {n v} : (setRaw s n v).pulses = s.pulses := rfl
@[simp] theorem setRaw_epochs {n v} : (setRaw s n v).epochs = s.epochs := rfl
@[simp] theorem setRaw_evtDue {n v} : (setRaw s n v).evtDue = s.evtDue := rfl
@[simp] theorem setRaw_peerDue {n v} : (setRaw s n v).peerDue = s.peerDue := rfl
@[simp] theorem setRaw_evtHold {n v} : (setRaw s n v).evtHold = s.evtHold := rfl
@[simp] theorem setRaw_latch {n v} : (setRaw s n v).latch = s.latch := rfl
@[simp] theorem setRaw_fifos {n v} : (setRaw s n v).fifos = s.fifos := rfl
@[simp] theorem setRaw_time {n v} : (setRaw s n v).time = s.time := rfl
@[simp] theorem setRaw_ring {n v} : (setRaw s n v).ring = s.ring := rfl
@[simp] theorem setRaw_tables {n v} : (setRaw s n v).tables = s.tables := rfl
@[simp] theorem setRaw_cells {n v} : (setRaw s n v).cells = s.cells := rfl
@[simp] theorem setRaw_srcSeq {n v} : (setRaw s n v).srcSeq = s.srcSeq := rfl
@[simp] theorem setRaw_parsers {n v} : (setRaw s n v).parsers = s.parsers := rfl
@[simp] theorem setRaw_queues {n v} : (setRaw s n v).queues = s.queues := rfl
@[simp] theorem setRaw_sweep {n v} : (setRaw s n v).sweep = s.sweep := rfl
@[simp] theorem setRaw_slices {n v} : (setRaw s n v).slices = s.slices := rfl
@[simp] theorem setRaw_tiles {n v} : (setRaw s n v).tiles = s.tiles := rfl
@[simp] theorem setRaw_lines {n v} : (setRaw s n v).lines = s.lines := rfl
@[simp] theorem setRaw_sliceMap {n v} : (setRaw s n v).sliceMap = s.sliceMap := rfl
@[simp] theorem setRaw_dl {n v} : (setRaw s n v).dl = s.dl := rfl
@[simp] theorem setRaw_dlShutDeb {n v} : (setRaw s n v).dlShutDeb = s.dlShutDeb := rfl
@[simp] theorem setRaw_engs {n v} : (setRaw s n v).engs = s.engs := rfl
@[simp] theorem setRaw_av {n v} : (setRaw s n v).av = s.av := rfl
@[simp] theorem setRaw_upd {n v} : (setRaw s n v).upd = s.upd := rfl
@[simp] theorem setRaw_fab {n v} : (setRaw s n v).fab = s.fab := rfl
@[simp] theorem setRaw_can {n v} : (setRaw s n v).can = s.can := rfl
@[simp] theorem setRaw_canGate {n v} : (setRaw s n v).canGate = s.canGate := rfl
@[simp] theorem setRaw_recGate {n v} : (setRaw s n v).recGate = s.recGate := rfl
@[simp] theorem getReg_setRaw {n v b} : getReg (setRaw s n v) b = getReg s b := rfl
@[simp] theorem memByte_setRaw {n v b} : memByte (setRaw s n v) b = memByte s b := rfl

/-! ### setTile -/

@[simp] theorem setTile_m4 {k v} : (setTile s k v).m4 = s.m4 := rfl
@[simp] theorem setTile_duid {k v} : (setTile s k v).duid = s.duid := rfl
@[simp] theorem setTile_srev {k v} : (setTile s k v).srev = s.srev := rfl
@[simp] theorem setTile_pending {k v} : (setTile s k v).pending = s.pending := rfl
@[simp] theorem setTile_now {k v} : (setTile s k v).now = s.now := rfl
@[simp] theorem setTile_free {k v} : (setTile s k v).free = s.free := rfl
@[simp] theorem setTile_nodeId {k v} : (setTile s k v).nodeId = s.nodeId := rfl
@[simp] theorem setTile_csGen {k v} : (setTile s k v).csGen = s.csGen := rfl
@[simp] theorem setTile_regs {k v} : (setTile s k v).regs = s.regs := rfl
@[simp] theorem setTile_mem {k v} : (setTile s k v).mem = s.mem := rfl
@[simp] theorem setTile_ecc {k v} : (setTile s k v).ecc = s.ecc := rfl
@[simp] theorem setTile_power {k v} : (setTile s k v).power = s.power := rfl
@[simp] theorem setTile_pulses {k v} : (setTile s k v).pulses = s.pulses := rfl
@[simp] theorem setTile_epochs {k v} : (setTile s k v).epochs = s.epochs := rfl
@[simp] theorem setTile_evtDue {k v} : (setTile s k v).evtDue = s.evtDue := rfl
@[simp] theorem setTile_peerDue {k v} : (setTile s k v).peerDue = s.peerDue := rfl
@[simp] theorem setTile_evtHold {k v} : (setTile s k v).evtHold = s.evtHold := rfl
@[simp] theorem setTile_latch {k v} : (setTile s k v).latch = s.latch := rfl
@[simp] theorem setTile_fifos {k v} : (setTile s k v).fifos = s.fifos := rfl
@[simp] theorem setTile_time {k v} : (setTile s k v).time = s.time := rfl
@[simp] theorem setTile_ring {k v} : (setTile s k v).ring = s.ring := rfl
@[simp] theorem setTile_tables {k v} : (setTile s k v).tables = s.tables := rfl
@[simp] theorem setTile_cells {k v} : (setTile s k v).cells = s.cells := rfl
@[simp] theorem setTile_srcSeq {k v} : (setTile s k v).srcSeq = s.srcSeq := rfl
@[simp] theorem setTile_parsers {k v} : (setTile s k v).parsers = s.parsers := rfl
@[simp] theorem setTile_queues {k v} : (setTile s k v).queues = s.queues := rfl
@[simp] theorem setTile_sweep {k v} : (setTile s k v).sweep = s.sweep := rfl
@[simp] theorem setTile_slices {k v} : (setTile s k v).slices = s.slices := rfl
@[simp] theorem setTile_raws {k v} : (setTile s k v).raws = s.raws := rfl
@[simp] theorem setTile_lines {k v} : (setTile s k v).lines = s.lines := rfl
@[simp] theorem setTile_sliceMap {k v} : (setTile s k v).sliceMap = s.sliceMap := rfl
@[simp] theorem setTile_dl {k v} : (setTile s k v).dl = s.dl := rfl
@[simp] theorem setTile_dlShutDeb {k v} : (setTile s k v).dlShutDeb = s.dlShutDeb := rfl
@[simp] theorem setTile_engs {k v} : (setTile s k v).engs = s.engs := rfl
@[simp] theorem setTile_av {k v} : (setTile s k v).av = s.av := rfl
@[simp] theorem setTile_upd {k v} : (setTile s k v).upd = s.upd := rfl
@[simp] theorem setTile_fab {k v} : (setTile s k v).fab = s.fab := rfl
@[simp] theorem setTile_can {k v} : (setTile s k v).can = s.can := rfl
@[simp] theorem setTile_canGate {k v} : (setTile s k v).canGate = s.canGate := rfl
@[simp] theorem setTile_recGate {k v} : (setTile s k v).recGate = s.recGate := rfl
@[simp] theorem getReg_setTile {k v b} : getReg (setTile s k v) b = getReg s b := rfl
@[simp] theorem memByte_setTile {k v b} : memByte (setTile s k v) b = memByte s b := rfl

/-! ### setLine -/

@[simp] theorem setLine_m4 {p v} : (setLine s p v).m4 = s.m4 := rfl
@[simp] theorem setLine_duid {p v} : (setLine s p v).duid = s.duid := rfl
@[simp] theorem setLine_srev {p v} : (setLine s p v).srev = s.srev := rfl
@[simp] theorem setLine_pending {p v} : (setLine s p v).pending = s.pending := rfl
@[simp] theorem setLine_now {p v} : (setLine s p v).now = s.now := rfl
@[simp] theorem setLine_free {p v} : (setLine s p v).free = s.free := rfl
@[simp] theorem setLine_nodeId {p v} : (setLine s p v).nodeId = s.nodeId := rfl
@[simp] theorem setLine_csGen {p v} : (setLine s p v).csGen = s.csGen := rfl
@[simp] theorem setLine_regs {p v} : (setLine s p v).regs = s.regs := rfl
@[simp] theorem setLine_mem {p v} : (setLine s p v).mem = s.mem := rfl
@[simp] theorem setLine_ecc {p v} : (setLine s p v).ecc = s.ecc := rfl
@[simp] theorem setLine_power {p v} : (setLine s p v).power = s.power := rfl
@[simp] theorem setLine_pulses {p v} : (setLine s p v).pulses = s.pulses := rfl
@[simp] theorem setLine_epochs {p v} : (setLine s p v).epochs = s.epochs := rfl
@[simp] theorem setLine_evtDue {p v} : (setLine s p v).evtDue = s.evtDue := rfl
@[simp] theorem setLine_peerDue {p v} : (setLine s p v).peerDue = s.peerDue := rfl
@[simp] theorem setLine_evtHold {p v} : (setLine s p v).evtHold = s.evtHold := rfl
@[simp] theorem setLine_latch {p v} : (setLine s p v).latch = s.latch := rfl
@[simp] theorem setLine_fifos {p v} : (setLine s p v).fifos = s.fifos := rfl
@[simp] theorem setLine_time {p v} : (setLine s p v).time = s.time := rfl
@[simp] theorem setLine_ring {p v} : (setLine s p v).ring = s.ring := rfl
@[simp] theorem setLine_tables {p v} : (setLine s p v).tables = s.tables := rfl
@[simp] theorem setLine_cells {p v} : (setLine s p v).cells = s.cells := rfl
@[simp] theorem setLine_srcSeq {p v} : (setLine s p v).srcSeq = s.srcSeq := rfl
@[simp] theorem setLine_parsers {p v} : (setLine s p v).parsers = s.parsers := rfl
@[simp] theorem setLine_queues {p v} : (setLine s p v).queues = s.queues := rfl
@[simp] theorem setLine_sweep {p v} : (setLine s p v).sweep = s.sweep := rfl
@[simp] theorem setLine_slices {p v} : (setLine s p v).slices = s.slices := rfl
@[simp] theorem setLine_raws {p v} : (setLine s p v).raws = s.raws := rfl
@[simp] theorem setLine_tiles {p v} : (setLine s p v).tiles = s.tiles := rfl
@[simp] theorem setLine_sliceMap {p v} : (setLine s p v).sliceMap = s.sliceMap := rfl
@[simp] theorem setLine_dl {p v} : (setLine s p v).dl = s.dl := rfl
@[simp] theorem setLine_dlShutDeb {p v} : (setLine s p v).dlShutDeb = s.dlShutDeb := rfl
@[simp] theorem setLine_engs {p v} : (setLine s p v).engs = s.engs := rfl
@[simp] theorem setLine_av {p v} : (setLine s p v).av = s.av := rfl
@[simp] theorem setLine_upd {p v} : (setLine s p v).upd = s.upd := rfl
@[simp] theorem setLine_fab {p v} : (setLine s p v).fab = s.fab := rfl
@[simp] theorem setLine_can {p v} : (setLine s p v).can = s.can := rfl
@[simp] theorem setLine_canGate {p v} : (setLine s p v).canGate = s.canGate := rfl
@[simp] theorem setLine_recGate {p v} : (setLine s p v).recGate = s.recGate := rfl
@[simp] theorem getReg_setLine {p v b} : getReg (setLine s p v) b = getReg s b := rfl
@[simp] theorem memByte_setLine {p v b} : memByte (setLine s p v) b = memByte s b := rfl

/-! ### setSliceMap -/

@[simp] theorem setSliceMap_m4 {x v} : (setSliceMap s x v).m4 = s.m4 := rfl
@[simp] theorem setSliceMap_duid {x v} : (setSliceMap s x v).duid = s.duid := rfl
@[simp] theorem setSliceMap_srev {x v} : (setSliceMap s x v).srev = s.srev := rfl
@[simp] theorem setSliceMap_pending {x v} : (setSliceMap s x v).pending = s.pending := rfl
@[simp] theorem setSliceMap_now {x v} : (setSliceMap s x v).now = s.now := rfl
@[simp] theorem setSliceMap_free {x v} : (setSliceMap s x v).free = s.free := rfl
@[simp] theorem setSliceMap_nodeId {x v} : (setSliceMap s x v).nodeId = s.nodeId := rfl
@[simp] theorem setSliceMap_csGen {x v} : (setSliceMap s x v).csGen = s.csGen := rfl
@[simp] theorem setSliceMap_regs {x v} : (setSliceMap s x v).regs = s.regs := rfl
@[simp] theorem setSliceMap_mem {x v} : (setSliceMap s x v).mem = s.mem := rfl
@[simp] theorem setSliceMap_ecc {x v} : (setSliceMap s x v).ecc = s.ecc := rfl
@[simp] theorem setSliceMap_power {x v} : (setSliceMap s x v).power = s.power := rfl
@[simp] theorem setSliceMap_pulses {x v} : (setSliceMap s x v).pulses = s.pulses := rfl
@[simp] theorem setSliceMap_epochs {x v} : (setSliceMap s x v).epochs = s.epochs := rfl
@[simp] theorem setSliceMap_evtDue {x v} : (setSliceMap s x v).evtDue = s.evtDue := rfl
@[simp] theorem setSliceMap_peerDue {x v} : (setSliceMap s x v).peerDue = s.peerDue := rfl
@[simp] theorem setSliceMap_evtHold {x v} : (setSliceMap s x v).evtHold = s.evtHold := rfl
@[simp] theorem setSliceMap_latch {x v} : (setSliceMap s x v).latch = s.latch := rfl
@[simp] theorem setSliceMap_fifos {x v} : (setSliceMap s x v).fifos = s.fifos := rfl
@[simp] theorem setSliceMap_time {x v} : (setSliceMap s x v).time = s.time := rfl
@[simp] theorem setSliceMap_ring {x v} : (setSliceMap s x v).ring = s.ring := rfl
@[simp] theorem setSliceMap_tables {x v} : (setSliceMap s x v).tables = s.tables := rfl
@[simp] theorem setSliceMap_cells {x v} : (setSliceMap s x v).cells = s.cells := rfl
@[simp] theorem setSliceMap_srcSeq {x v} : (setSliceMap s x v).srcSeq = s.srcSeq := rfl
@[simp] theorem setSliceMap_parsers {x v} : (setSliceMap s x v).parsers = s.parsers := rfl
@[simp] theorem setSliceMap_queues {x v} : (setSliceMap s x v).queues = s.queues := rfl
@[simp] theorem setSliceMap_sweep {x v} : (setSliceMap s x v).sweep = s.sweep := rfl
@[simp] theorem setSliceMap_slices {x v} : (setSliceMap s x v).slices = s.slices := rfl
@[simp] theorem setSliceMap_raws {x v} : (setSliceMap s x v).raws = s.raws := rfl
@[simp] theorem setSliceMap_tiles {x v} : (setSliceMap s x v).tiles = s.tiles := rfl
@[simp] theorem setSliceMap_lines {x v} : (setSliceMap s x v).lines = s.lines := rfl
@[simp] theorem setSliceMap_dl {x v} : (setSliceMap s x v).dl = s.dl := rfl
@[simp] theorem setSliceMap_dlShutDeb {x v} : (setSliceMap s x v).dlShutDeb = s.dlShutDeb := rfl
@[simp] theorem setSliceMap_engs {x v} : (setSliceMap s x v).engs = s.engs := rfl
@[simp] theorem setSliceMap_av {x v} : (setSliceMap s x v).av = s.av := rfl
@[simp] theorem setSliceMap_upd {x v} : (setSliceMap s x v).upd = s.upd := rfl
@[simp] theorem setSliceMap_fab {x v} : (setSliceMap s x v).fab = s.fab := rfl
@[simp] theorem setSliceMap_can {x v} : (setSliceMap s x v).can = s.can := rfl
@[simp] theorem setSliceMap_canGate {x v} : (setSliceMap s x v).canGate = s.canGate := rfl
@[simp] theorem setSliceMap_recGate {x v} : (setSliceMap s x v).recGate = s.recGate := rfl
@[simp] theorem getReg_setSliceMap {x v b} : getReg (setSliceMap s x v) b = getReg s b := rfl
@[simp] theorem memByte_setSliceMap {x v b} : memByte (setSliceMap s x v) b = memByte s b := rfl

/-! ### setTime -/

@[simp] theorem setTime_m4 {f} : (setTime s f).m4 = s.m4 := rfl
@[simp] theorem setTime_duid {f} : (setTime s f).duid = s.duid := rfl
@[simp] theorem setTime_srev {f} : (setTime s f).srev = s.srev := rfl
@[simp] theorem setTime_pending {f} : (setTime s f).pending = s.pending := rfl
@[simp] theorem setTime_now {f} : (setTime s f).now = s.now := rfl
@[simp] theorem setTime_free {f} : (setTime s f).free = s.free := rfl
@[simp] theorem setTime_nodeId {f} : (setTime s f).nodeId = s.nodeId := rfl
@[simp] theorem setTime_csGen {f} : (setTime s f).csGen = s.csGen := rfl
@[simp] theorem setTime_regs {f} : (setTime s f).regs = s.regs := rfl
@[simp] theorem setTime_mem {f} : (setTime s f).mem = s.mem := rfl
@[simp] theorem setTime_ecc {f} : (setTime s f).ecc = s.ecc := rfl
@[simp] theorem setTime_power {f} : (setTime s f).power = s.power := rfl
@[simp] theorem setTime_pulses {f} : (setTime s f).pulses = s.pulses := rfl
@[simp] theorem setTime_epochs {f} : (setTime s f).epochs = s.epochs := rfl
@[simp] theorem setTime_evtDue {f} : (setTime s f).evtDue = s.evtDue := rfl
@[simp] theorem setTime_peerDue {f} : (setTime s f).peerDue = s.peerDue := rfl
@[simp] theorem setTime_evtHold {f} : (setTime s f).evtHold = s.evtHold := rfl
@[simp] theorem setTime_latch {f} : (setTime s f).latch = s.latch := rfl
@[simp] theorem setTime_fifos {f} : (setTime s f).fifos = s.fifos := rfl
@[simp] theorem setTime_ring {f} : (setTime s f).ring = s.ring := rfl
@[simp] theorem setTime_tables {f} : (setTime s f).tables = s.tables := rfl
@[simp] theorem setTime_cells {f} : (setTime s f).cells = s.cells := rfl
@[simp] theorem setTime_srcSeq {f} : (setTime s f).srcSeq = s.srcSeq := rfl
@[simp] theorem setTime_parsers {f} : (setTime s f).parsers = s.parsers := rfl
@[simp] theorem setTime_queues {f} : (setTime s f).queues = s.queues := rfl
@[simp] theorem setTime_sweep {f} : (setTime s f).sweep = s.sweep := rfl
@[simp] theorem setTime_slices {f} : (setTime s f).slices = s.slices := rfl
@[simp] theorem setTime_raws {f} : (setTime s f).raws = s.raws := rfl
@[simp] theorem setTime_tiles {f} : (setTime s f).tiles = s.tiles := rfl
@[simp] theorem setTime_lines {f} : (setTime s f).lines = s.lines := rfl
@[simp] theorem setTime_sliceMap {f} : (setTime s f).sliceMap = s.sliceMap := rfl
@[simp] theorem setTime_dl {f} : (setTime s f).dl = s.dl := rfl
@[simp] theorem setTime_dlShutDeb {f} : (setTime s f).dlShutDeb = s.dlShutDeb := rfl
@[simp] theorem setTime_engs {f} : (setTime s f).engs = s.engs := rfl
@[simp] theorem setTime_av {f} : (setTime s f).av = s.av := rfl
@[simp] theorem setTime_upd {f} : (setTime s f).upd = s.upd := rfl
@[simp] theorem setTime_fab {f} : (setTime s f).fab = s.fab := rfl
@[simp] theorem setTime_can {f} : (setTime s f).can = s.can := rfl
@[simp] theorem setTime_canGate {f} : (setTime s f).canGate = s.canGate := rfl
@[simp] theorem setTime_recGate {f} : (setTime s f).recGate = s.recGate := rfl
@[simp] theorem setTime_time {f} : (setTime s f).time = f s.time := rfl
@[simp] theorem getReg_setTime {f b} : getReg (setTime s f) b = getReg s b := rfl
@[simp] theorem memByte_setTime {f b} : memByte (setTime s f) b = memByte s b := rfl

/-! ### setDl -/

@[simp] theorem setDl_m4 {k v} : (setDl s k v).m4 = s.m4 := rfl
@[simp] theorem setDl_duid {k v} : (setDl s k v).duid = s.duid := rfl
@[simp] theorem setDl_srev {k v} : (setDl s k v).srev = s.srev := rfl
@[simp] theorem setDl_pending {k v} : (setDl s k v).pending = s.pending := rfl
@[simp] theorem setDl_now {k v} : (setDl s k v).now = s.now := rfl
@[simp] theorem setDl_free {k v} : (setDl s k v).free = s.free := rfl
@[simp] theorem setDl_nodeId {k v} : (setDl s k v).nodeId = s.nodeId := rfl
@[simp] theorem setDl_csGen {k v} : (setDl s k v).csGen = s.csGen := rfl
@[simp] theorem setDl_regs {k v} : (setDl s k v).regs = s.regs := rfl
@[simp] theorem setDl_mem {k v} : (setDl s k v).mem = s.mem := rfl
@[simp] theorem setDl_ecc {k v} : (setDl s k v).ecc = s.ecc := rfl
@[simp] theorem setDl_power {k v} : (setDl s k v).power = s.power := rfl
@[simp] theorem setDl_pulses {k v} : (setDl s k v).pulses = s.pulses := rfl
@[simp] theorem setDl_epochs {k v} : (setDl s k v).epochs = s.epochs := rfl
@[simp] theorem setDl_evtDue {k v} : (setDl s k v).evtDue = s.evtDue := rfl
@[simp] theorem setDl_peerDue {k v} : (setDl s k v).peerDue = s.peerDue := rfl
@[simp] theorem setDl_evtHold {k v} : (setDl s k v).evtHold = s.evtHold := rfl
@[simp] theorem setDl_latch {k v} : (setDl s k v).latch = s.latch := rfl
@[simp] theorem setDl_fifos {k v} : (setDl s k v).fifos = s.fifos := rfl
@[simp] theorem setDl_time {k v} : (setDl s k v).time = s.time := rfl
@[simp] theorem setDl_ring {k v} : (setDl s k v).ring = s.ring := rfl
@[simp] theorem setDl_tables {k v} : (setDl s k v).tables = s.tables := rfl
@[simp] theorem setDl_cells {k v} : (setDl s k v).cells = s.cells := rfl
@[simp] theorem setDl_srcSeq {k v} : (setDl s k v).srcSeq = s.srcSeq := rfl
@[simp] theorem setDl_parsers {k v} : (setDl s k v).parsers = s.parsers := rfl
@[simp] theorem setDl_queues {k v} : (setDl s k v).queues = s.queues := rfl
@[simp] theorem setDl_sweep {k v} : (setDl s k v).sweep = s.sweep := rfl
@[simp] theorem setDl_slices {k v} : (setDl s k v).slices = s.slices := rfl
@[simp] theorem setDl_raws {k v} : (setDl s k v).raws = s.raws := rfl
@[simp] theorem setDl_tiles {k v} : (setDl s k v).tiles = s.tiles := rfl
@[simp] theorem setDl_lines {k v} : (setDl s k v).lines = s.lines := rfl
@[simp] theorem setDl_sliceMap {k v} : (setDl s k v).sliceMap = s.sliceMap := rfl
@[simp] theorem setDl_dlShutDeb {k v} : (setDl s k v).dlShutDeb = s.dlShutDeb := rfl
@[simp] theorem setDl_engs {k v} : (setDl s k v).engs = s.engs := rfl
@[simp] theorem setDl_av {k v} : (setDl s k v).av = s.av := rfl
@[simp] theorem setDl_upd {k v} : (setDl s k v).upd = s.upd := rfl
@[simp] theorem setDl_fab {k v} : (setDl s k v).fab = s.fab := rfl
@[simp] theorem setDl_can {k v} : (setDl s k v).can = s.can := rfl
@[simp] theorem setDl_canGate {k v} : (setDl s k v).canGate = s.canGate := rfl
@[simp] theorem setDl_recGate {k v} : (setDl s k v).recGate = s.recGate := rfl
@[simp] theorem getReg_setDl {k v b} : getReg (setDl s k v) b = getReg s b := rfl
@[simp] theorem memByte_setDl {k v b} : memByte (setDl s k v) b = memByte s b := rfl

/-! ### setEng -/

@[simp] theorem setEng_m4 {l v} : (setEng s l v).m4 = s.m4 := rfl
@[simp] theorem setEng_duid {l v} : (setEng s l v).duid = s.duid := rfl
@[simp] theorem setEng_srev {l v} : (setEng s l v).srev = s.srev := rfl
@[simp] theorem setEng_pending {l v} : (setEng s l v).pending = s.pending := rfl
@[simp] theorem setEng_now {l v} : (setEng s l v).now = s.now := rfl
@[simp] theorem setEng_free {l v} : (setEng s l v).free = s.free := rfl
@[simp] theorem setEng_nodeId {l v} : (setEng s l v).nodeId = s.nodeId := rfl
@[simp] theorem setEng_csGen {l v} : (setEng s l v).csGen = s.csGen := rfl
@[simp] theorem setEng_regs {l v} : (setEng s l v).regs = s.regs := rfl
@[simp] theorem setEng_mem {l v} : (setEng s l v).mem = s.mem := rfl
@[simp] theorem setEng_ecc {l v} : (setEng s l v).ecc = s.ecc := rfl
@[simp] theorem setEng_power {l v} : (setEng s l v).power = s.power := rfl
@[simp] theorem setEng_pulses {l v} : (setEng s l v).pulses = s.pulses := rfl
@[simp] theorem setEng_epochs {l v} : (setEng s l v).epochs = s.epochs := rfl
@[simp] theorem setEng_evtDue {l v} : (setEng s l v).evtDue = s.evtDue := rfl
@[simp] theorem setEng_peerDue {l v} : (setEng s l v).peerDue = s.peerDue := rfl
@[simp] theorem setEng_evtHold {l v} : (setEng s l v).evtHold = s.evtHold := rfl
@[simp] theorem setEng_latch {l v} : (setEng s l v).latch = s.latch := rfl
@[simp] theorem setEng_fifos {l v} : (setEng s l v).fifos = s.fifos := rfl
@[simp] theorem setEng_time {l v} : (setEng s l v).time = s.time := rfl
@[simp] theorem setEng_ring {l v} : (setEng s l v).ring = s.ring := rfl
@[simp] theorem setEng_tables {l v} : (setEng s l v).tables = s.tables := rfl
@[simp] theorem setEng_cells {l v} : (setEng s l v).cells = s.cells := rfl
@[simp] theorem setEng_srcSeq {l v} : (setEng s l v).srcSeq = s.srcSeq := rfl
@[simp] theorem setEng_parsers {l v} : (setEng s l v).parsers = s.parsers := rfl
@[simp] theorem setEng_queues {l v} : (setEng s l v).queues = s.queues := rfl
@[simp] theorem setEng_sweep {l v} : (setEng s l v).sweep = s.sweep := rfl
@[simp] theorem setEng_slices {l v} : (setEng s l v).slices = s.slices := rfl
@[simp] theorem setEng_raws {l v} : (setEng s l v).raws = s.raws := rfl
@[simp] theorem setEng_tiles {l v} : (setEng s l v).tiles = s.tiles := rfl
@[simp] theorem setEng_lines {l v} : (setEng s l v).lines = s.lines := rfl
@[simp] theorem setEng_sliceMap {l v} : (setEng s l v).sliceMap = s.sliceMap := rfl
@[simp] theorem setEng_dl {l v} : (setEng s l v).dl = s.dl := rfl
@[simp] theorem setEng_dlShutDeb {l v} : (setEng s l v).dlShutDeb = s.dlShutDeb := rfl
@[simp] theorem setEng_av {l v} : (setEng s l v).av = s.av := rfl
@[simp] theorem setEng_upd {l v} : (setEng s l v).upd = s.upd := rfl
@[simp] theorem setEng_fab {l v} : (setEng s l v).fab = s.fab := rfl
@[simp] theorem setEng_can {l v} : (setEng s l v).can = s.can := rfl
@[simp] theorem setEng_canGate {l v} : (setEng s l v).canGate = s.canGate := rfl
@[simp] theorem setEng_recGate {l v} : (setEng s l v).recGate = s.recGate := rfl
@[simp] theorem getReg_setEng {l v b} : getReg (setEng s l v) b = getReg s b := rfl
@[simp] theorem memByte_setEng {l v b} : memByte (setEng s l v) b = memByte s b := rfl

/-! ### setRing -/

@[simp] theorem setRing_m4 {f} : (setRing s f).m4 = s.m4 := rfl
@[simp] theorem setRing_duid {f} : (setRing s f).duid = s.duid := rfl
@[simp] theorem setRing_srev {f} : (setRing s f).srev = s.srev := rfl
@[simp] theorem setRing_pending {f} : (setRing s f).pending = s.pending := rfl
@[simp] theorem setRing_now {f} : (setRing s f).now = s.now := rfl
@[simp] theorem setRing_free {f} : (setRing s f).free = s.free := rfl
@[simp] theorem setRing_nodeId {f} : (setRing s f).nodeId = s.nodeId := rfl
@[simp] theorem setRing_csGen {f} : (setRing s f).csGen = s.csGen := rfl
@[simp] theorem setRing_regs {f} : (setRing s f).regs = s.regs := rfl
@[simp] theorem setRing_mem {f} : (setRing s f).mem = s.mem := rfl
@[simp] theorem setRing_ecc {f} : (setRing s f).ecc = s.ecc := rfl
@[simp] theorem setRing_power {f} : (setRing s f).power = s.power := rfl
@[simp] theorem setRing_pulses {f} : (setRing s f).pulses = s.pulses := rfl
@[simp] theorem setRing_epochs {f} : (setRing s f).epochs = s.epochs := rfl
@[simp] theorem setRing_evtDue {f} : (setRing s f).evtDue = s.evtDue := rfl
@[simp] theorem setRing_peerDue {f} : (setRing s f).peerDue = s.peerDue := rfl
@[simp] theorem setRing_evtHold {f} : (setRing s f).evtHold = s.evtHold := rfl
@[simp] theorem setRing_latch {f} : (setRing s f).latch = s.latch := rfl
@[simp] theorem setRing_fifos {f} : (setRing s f).fifos = s.fifos := rfl
@[simp] theorem setRing_time {f} : (setRing s f).time = s.time := rfl
@[simp] theorem setRing_tables {f} : (setRing s f).tables = s.tables := rfl
@[simp] theorem setRing_cells {f} : (setRing s f).cells = s.cells := rfl
@[simp] theorem setRing_srcSeq {f} : (setRing s f).srcSeq = s.srcSeq := rfl
@[simp] theorem setRing_parsers {f} : (setRing s f).parsers = s.parsers := rfl
@[simp] theorem setRing_queues {f} : (setRing s f).queues = s.queues := rfl
@[simp] theorem setRing_sweep {f} : (setRing s f).sweep = s.sweep := rfl
@[simp] theorem setRing_slices {f} : (setRing s f).slices = s.slices := rfl
@[simp] theorem setRing_raws {f} : (setRing s f).raws = s.raws := rfl
@[simp] theorem setRing_tiles {f} : (setRing s f).tiles = s.tiles := rfl
@[simp] theorem setRing_lines {f} : (setRing s f).lines = s.lines := rfl
@[simp] theorem setRing_sliceMap {f} : (setRing s f).sliceMap = s.sliceMap := rfl
@[simp] theorem setRing_dl {f} : (setRing s f).dl = s.dl := rfl
@[simp] theorem setRing_dlShutDeb {f} : (setRing s f).dlShutDeb = s.dlShutDeb := rfl
@[simp] theorem setRing_engs {f} : (setRing s f).engs = s.engs := rfl
@[simp] theorem setRing_av {f} : (setRing s f).av = s.av := rfl
@[simp] theorem setRing_upd {f} : (setRing s f).upd = s.upd := rfl
@[simp] theorem setRing_fab {f} : (setRing s f).fab = s.fab := rfl
@[simp] theorem setRing_can {f} : (setRing s f).can = s.can := rfl
@[simp] theorem setRing_canGate {f} : (setRing s f).canGate = s.canGate := rfl
@[simp] theorem setRing_recGate {f} : (setRing s f).recGate = s.recGate := rfl
@[simp] theorem setRing_ring {f} : (setRing s f).ring = f s.ring := rfl
@[simp] theorem getReg_setRing {f b} : getReg (setRing s f) b = getReg s b := rfl
@[simp] theorem memByte_setRing {f b} : memByte (setRing s f) b = memByte s b := rfl

/-! ### setAv -/

@[simp] theorem setAv_m4 {f} : (setAv s f).m4 = s.m4 := rfl
@[simp] theorem setAv_duid {f} : (setAv s f).duid = s.duid := rfl
@[simp] theorem setAv_srev {f} : (setAv s f).srev = s.srev := rfl
@[simp] theorem setAv_pending {f} : (setAv s f).pending = s.pending := rfl
@[simp] theorem setAv_now {f} : (setAv s f).now = s.now := rfl
@[simp] theorem setAv_free {f} : (setAv s f).free = s.free := rfl
@[simp] theorem setAv_nodeId {f} : (setAv s f).nodeId = s.nodeId := rfl
@[simp] theorem setAv_csGen {f} : (setAv s f).csGen = s.csGen := rfl
@[simp] theorem setAv_regs {f} : (setAv s f).regs = s.regs := rfl
@[simp] theorem setAv_mem {f} : (setAv s f).mem = s.mem := rfl
@[simp] theorem setAv_ecc {f} : (setAv s f).ecc = s.ecc := rfl
@[simp] theorem setAv_power {f} : (setAv s f).power = s.power := rfl
@[simp] theorem setAv_pulses {f} : (setAv s f).pulses = s.pulses := rfl
@[simp] theorem setAv_epochs {f} : (setAv s f).epochs = s.epochs := rfl
@[simp] theorem setAv_evtDue {f} : (setAv s f).evtDue = s.evtDue := rfl
@[simp] theorem setAv_peerDue {f} : (setAv s f).peerDue = s.peerDue := rfl
@[simp] theorem setAv_evtHold {f} : (setAv s f).evtHold = s.evtHold := rfl
@[simp] theorem setAv_latch {f} : (setAv s f).latch = s.latch := rfl
@[simp] theorem setAv_fifos {f} : (setAv s f).fifos = s.fifos := rfl
@[simp] theorem setAv_time {f} : (setAv s f).time = s.time := rfl
@[simp] theorem setAv_ring {f} : (setAv s f).ring = s.ring := rfl
@[simp] theorem setAv_tables {f} : (setAv s f).tables = s.tables := rfl
@[simp] theorem setAv_cells {f} : (setAv s f).cells = s.cells := rfl
@[simp] theorem setAv_srcSeq {f} : (setAv s f).srcSeq = s.srcSeq := rfl
@[simp] theorem setAv_parsers {f} : (setAv s f).parsers = s.parsers := rfl
@[simp] theorem setAv_queues {f} : (setAv s f).queues = s.queues := rfl
@[simp] theorem setAv_sweep {f} : (setAv s f).sweep = s.sweep := rfl
@[simp] theorem setAv_slices {f} : (setAv s f).slices = s.slices := rfl
@[simp] theorem setAv_raws {f} : (setAv s f).raws = s.raws := rfl
@[simp] theorem setAv_tiles {f} : (setAv s f).tiles = s.tiles := rfl
@[simp] theorem setAv_lines {f} : (setAv s f).lines = s.lines := rfl
@[simp] theorem setAv_sliceMap {f} : (setAv s f).sliceMap = s.sliceMap := rfl
@[simp] theorem setAv_dl {f} : (setAv s f).dl = s.dl := rfl
@[simp] theorem setAv_dlShutDeb {f} : (setAv s f).dlShutDeb = s.dlShutDeb := rfl
@[simp] theorem setAv_engs {f} : (setAv s f).engs = s.engs := rfl
@[simp] theorem setAv_upd {f} : (setAv s f).upd = s.upd := rfl
@[simp] theorem setAv_fab {f} : (setAv s f).fab = s.fab := rfl
@[simp] theorem setAv_can {f} : (setAv s f).can = s.can := rfl
@[simp] theorem setAv_canGate {f} : (setAv s f).canGate = s.canGate := rfl
@[simp] theorem setAv_recGate {f} : (setAv s f).recGate = s.recGate := rfl
@[simp] theorem setAv_av {f} : (setAv s f).av = f s.av := rfl
@[simp] theorem getReg_setAv {f b} : getReg (setAv s f) b = getReg s b := rfl
@[simp] theorem memByte_setAv {f b} : memByte (setAv s f) b = memByte s b := rfl

/-! ### setUpd -/

@[simp] theorem setUpd_m4 {f} : (setUpd s f).m4 = s.m4 := rfl
@[simp] theorem setUpd_duid {f} : (setUpd s f).duid = s.duid := rfl
@[simp] theorem setUpd_srev {f} : (setUpd s f).srev = s.srev := rfl
@[simp] theorem setUpd_pending {f} : (setUpd s f).pending = s.pending := rfl
@[simp] theorem setUpd_now {f} : (setUpd s f).now = s.now := rfl
@[simp] theorem setUpd_free {f} : (setUpd s f).free = s.free := rfl
@[simp] theorem setUpd_nodeId {f} : (setUpd s f).nodeId = s.nodeId := rfl
@[simp] theorem setUpd_csGen {f} : (setUpd s f).csGen = s.csGen := rfl
@[simp] theorem setUpd_regs {f} : (setUpd s f).regs = s.regs := rfl
@[simp] theorem setUpd_mem {f} : (setUpd s f).mem = s.mem := rfl
@[simp] theorem setUpd_ecc {f} : (setUpd s f).ecc = s.ecc := rfl
@[simp] theorem setUpd_power {f} : (setUpd s f).power = s.power := rfl
@[simp] theorem setUpd_pulses {f} : (setUpd s f).pulses = s.pulses := rfl
@[simp] theorem setUpd_epochs {f} : (setUpd s f).epochs = s.epochs := rfl
@[simp] theorem setUpd_evtDue {f} : (setUpd s f).evtDue = s.evtDue := rfl
@[simp] theorem setUpd_peerDue {f} : (setUpd s f).peerDue = s.peerDue := rfl
@[simp] theorem setUpd_evtHold {f} : (setUpd s f).evtHold = s.evtHold := rfl
@[simp] theorem setUpd_latch {f} : (setUpd s f).latch = s.latch := rfl
@[simp] theorem setUpd_fifos {f} : (setUpd s f).fifos = s.fifos := rfl
@[simp] theorem setUpd_time {f} : (setUpd s f).time = s.time := rfl
@[simp] theorem setUpd_ring {f} : (setUpd s f).ring = s.ring := rfl
@[simp] theorem setUpd_tables {f} : (setUpd s f).tables = s.tables := rfl
@[simp] theorem setUpd_cells {f} : (setUpd s f).cells = s.cells := rfl
@[simp] theorem setUpd_srcSeq {f} : (setUpd s f).srcSeq = s.srcSeq := rfl
@[simp] theorem setUpd_parsers {f} : (setUpd s f).parsers = s.parsers := rfl
@[simp] theorem setUpd_queues {f} : (setUpd s f).queues = s.queues := rfl
@[simp] theorem setUpd_sweep {f} : (setUpd s f).sweep = s.sweep := rfl
@[simp] theorem setUpd_slices {f} : (setUpd s f).slices = s.slices := rfl
@[simp] theorem setUpd_raws {f} : (setUpd s f).raws = s.raws := rfl
@[simp] theorem setUpd_tiles {f} : (setUpd s f).tiles = s.tiles := rfl
@[simp] theorem setUpd_lines {f} : (setUpd s f).lines = s.lines := rfl
@[simp] theorem setUpd_sliceMap {f} : (setUpd s f).sliceMap = s.sliceMap := rfl
@[simp] theorem setUpd_dl {f} : (setUpd s f).dl = s.dl := rfl
@[simp] theorem setUpd_dlShutDeb {f} : (setUpd s f).dlShutDeb = s.dlShutDeb := rfl
@[simp] theorem setUpd_engs {f} : (setUpd s f).engs = s.engs := rfl
@[simp] theorem setUpd_av {f} : (setUpd s f).av = s.av := rfl
@[simp] theorem setUpd_fab {f} : (setUpd s f).fab = s.fab := rfl
@[simp] theorem setUpd_can {f} : (setUpd s f).can = s.can := rfl
@[simp] theorem setUpd_canGate {f} : (setUpd s f).canGate = s.canGate := rfl
@[simp] theorem setUpd_recGate {f} : (setUpd s f).recGate = s.recGate := rfl
@[simp] theorem setUpd_upd {f} : (setUpd s f).upd = f s.upd := rfl
@[simp] theorem getReg_setUpd {f b} : getReg (setUpd s f) b = getReg s b := rfl
@[simp] theorem memByte_setUpd {f b} : memByte (setUpd s f) b = memByte s b := rfl

/-! ### setPower -/

@[simp] theorem setPower_m4 {f} : (setPower s f).m4 = s.m4 := rfl
@[simp] theorem setPower_duid {f} : (setPower s f).duid = s.duid := rfl
@[simp] theorem setPower_srev {f} : (setPower s f).srev = s.srev := rfl
@[simp] theorem setPower_pending {f} : (setPower s f).pending = s.pending := rfl
@[simp] theorem setPower_now {f} : (setPower s f).now = s.now := rfl
@[simp] theorem setPower_free {f} : (setPower s f).free = s.free := rfl
@[simp] theorem setPower_nodeId {f} : (setPower s f).nodeId = s.nodeId := rfl
@[simp] theorem setPower_csGen {f} : (setPower s f).csGen = s.csGen := rfl
@[simp] theorem setPower_regs {f} : (setPower s f).regs = s.regs := rfl
@[simp] theorem setPower_mem {f} : (setPower s f).mem = s.mem := rfl
@[simp] theorem setPower_ecc {f} : (setPower s f).ecc = s.ecc := rfl
@[simp] theorem setPower_pulses {f} : (setPower s f).pulses = s.pulses := rfl
@[simp] theorem setPower_epochs {f} : (setPower s f).epochs = s.epochs := rfl
@[simp] theorem setPower_evtDue {f} : (setPower s f).evtDue = s.evtDue := rfl
@[simp] theorem setPower_peerDue {f} : (setPower s f).peerDue = s.peerDue := rfl
@[simp] theorem setPower_evtHold {f} : (setPower s f).evtHold = s.evtHold := rfl
@[simp] theorem setPower_latch {f} : (setPower s f).latch = s.latch := rfl
@[simp] theorem setPower_fifos {f} : (setPower s f).fifos = s.fifos := rfl
@[simp] theorem setPower_time {f} : (setPower s f).time = s.time := rfl
@[simp] theorem setPower_ring {f} : (setPower s f).ring = s.ring := rfl
@[simp] theorem setPower_tables {f} : (setPower s f).tables = s.tables := rfl
@[simp] theorem setPower_cells {f} : (setPower s f).cells = s.cells := rfl
@[simp] theorem setPower_srcSeq {f} : (setPower s f).srcSeq = s.srcSeq := rfl
@[simp] theorem setPower_parsers {f} : (setPower s f).parsers = s.parsers := rfl
@[simp] theorem setPower_queues {f} : (setPower s f).queues = s.queues := rfl
@[simp] theorem setPower_sweep {f} : (setPower s f).sweep = s.sweep := rfl
@[simp] theorem setPower_slices {f} : (setPower s f).slices = s.slices := rfl
@[simp] theorem setPower_raws {f} : (setPower s f).raws = s.raws := rfl
@[simp] theorem setPower_tiles {f} : (setPower s f).tiles = s.tiles := rfl
@[simp] theorem setPower_lines {f} : (setPower s f).lines = s.lines := rfl
@[simp] theorem setPower_sliceMap {f} : (setPower s f).sliceMap = s.sliceMap := rfl
@[simp] theorem setPower_dl {f} : (setPower s f).dl = s.dl := rfl
@[simp] theorem setPower_dlShutDeb {f} : (setPower s f).dlShutDeb = s.dlShutDeb := rfl
@[simp] theorem setPower_engs {f} : (setPower s f).engs = s.engs := rfl
@[simp] theorem setPower_av {f} : (setPower s f).av = s.av := rfl
@[simp] theorem setPower_upd {f} : (setPower s f).upd = s.upd := rfl
@[simp] theorem setPower_fab {f} : (setPower s f).fab = s.fab := rfl
@[simp] theorem setPower_can {f} : (setPower s f).can = s.can := rfl
@[simp] theorem setPower_canGate {f} : (setPower s f).canGate = s.canGate := rfl
@[simp] theorem setPower_recGate {f} : (setPower s f).recGate = s.recGate := rfl
@[simp] theorem setPower_power {f} : (setPower s f).power = f s.power := rfl
@[simp] theorem getReg_setPower {f b} : getReg (setPower s f) b = getReg s b := rfl
@[simp] theorem memByte_setPower {f b} : memByte (setPower s f) b = memByte s b := rfl

/-! ### setFab -/

@[simp] theorem setFab_m4 {f} : (setFab s f).m4 = s.m4 := rfl
@[simp] theorem setFab_duid {f} : (setFab s f).duid = s.duid := rfl
@[simp] theorem setFab_srev {f} : (setFab s f).srev = s.srev := rfl
@[simp] theorem setFab_pending {f} : (setFab s f).pending = s.pending := rfl
@[simp] theorem setFab_now {f} : (setFab s f).now = s.now := rfl
@[simp] theorem setFab_free {f} : (setFab s f).free = s.free := rfl
@[simp] theorem setFab_nodeId {f} : (setFab s f).nodeId = s.nodeId := rfl
@[simp] theorem setFab_csGen {f} : (setFab s f).csGen = s.csGen := rfl
@[simp] theorem setFab_regs {f} : (setFab s f).regs = s.regs := rfl
@[simp] theorem setFab_mem {f} : (setFab s f).mem = s.mem := rfl
@[simp] theorem setFab_ecc {f} : (setFab s f).ecc = s.ecc := rfl
@[simp] theorem setFab_power {f} : (setFab s f).power = s.power := rfl
@[simp] theorem setFab_pulses {f} : (setFab s f).pulses = s.pulses := rfl
@[simp] theorem setFab_epochs {f} : (setFab s f).epochs = s.epochs := rfl
@[simp] theorem setFab_evtDue {f} : (setFab s f).evtDue = s.evtDue := rfl
@[simp] theorem setFab_peerDue {f} : (setFab s f).peerDue = s.peerDue := rfl
@[simp] theorem setFab_evtHold {f} : (setFab s f).evtHold = s.evtHold := rfl
@[simp] theorem setFab_latch {f} : (setFab s f).latch = s.latch := rfl
@[simp] theorem setFab_fifos {f} : (setFab s f).fifos = s.fifos := rfl
@[simp] theorem setFab_time {f} : (setFab s f).time = s.time := rfl
@[simp] theorem setFab_ring {f} : (setFab s f).ring = s.ring := rfl
@[simp] theorem setFab_tables {f} : (setFab s f).tables = s.tables := rfl
@[simp] theorem setFab_cells {f} : (setFab s f).cells = s.cells := rfl
@[simp] theorem setFab_srcSeq {f} : (setFab s f).srcSeq = s.srcSeq := rfl
@[simp] theorem setFab_parsers {f} : (setFab s f).parsers = s.parsers := rfl
@[simp] theorem setFab_queues {f} : (setFab s f).queues = s.queues := rfl
@[simp] theorem setFab_sweep {f} : (setFab s f).sweep = s.sweep := rfl
@[simp] theorem setFab_slices {f} : (setFab s f).slices = s.slices := rfl
@[simp] theorem setFab_raws {f} : (setFab s f).raws = s.raws := rfl
@[simp] theorem setFab_tiles {f} : (setFab s f).tiles = s.tiles := rfl
@[simp] theorem setFab_lines {f} : (setFab s f).lines = s.lines := rfl
@[simp] theorem setFab_sliceMap {f} : (setFab s f).sliceMap = s.sliceMap := rfl
@[simp] theorem setFab_dl {f} : (setFab s f).dl = s.dl := rfl
@[simp] theorem setFab_dlShutDeb {f} : (setFab s f).dlShutDeb = s.dlShutDeb := rfl
@[simp] theorem setFab_engs {f} : (setFab s f).engs = s.engs := rfl
@[simp] theorem setFab_av {f} : (setFab s f).av = s.av := rfl
@[simp] theorem setFab_upd {f} : (setFab s f).upd = s.upd := rfl
@[simp] theorem setFab_can {f} : (setFab s f).can = s.can := rfl
@[simp] theorem setFab_canGate {f} : (setFab s f).canGate = s.canGate := rfl
@[simp] theorem setFab_recGate {f} : (setFab s f).recGate = s.recGate := rfl
@[simp] theorem setFab_fab {f} : (setFab s f).fab = f s.fab := rfl
@[simp] theorem getReg_setFab {f b} : getReg (setFab s f) b = getReg s b := rfl
@[simp] theorem memByte_setFab {f b} : memByte (setFab s f) b = memByte s b := rfl

/-! ### setPulse -/

@[simp] theorem setPulse_m4 {n p} : (setPulse n p s).m4 = s.m4 := rfl
@[simp] theorem setPulse_duid {n p} : (setPulse n p s).duid = s.duid := rfl
@[simp] theorem setPulse_srev {n p} : (setPulse n p s).srev = s.srev := rfl
@[simp] theorem setPulse_pending {n p} : (setPulse n p s).pending = s.pending := rfl
@[simp] theorem setPulse_now {n p} : (setPulse n p s).now = s.now := rfl
@[simp] theorem setPulse_free {n p} : (setPulse n p s).free = s.free := rfl
@[simp] theorem setPulse_nodeId {n p} : (setPulse n p s).nodeId = s.nodeId := rfl
@[simp] theorem setPulse_csGen {n p} : (setPulse n p s).csGen = s.csGen := rfl
@[simp] theorem setPulse_regs {n p} : (setPulse n p s).regs = s.regs := rfl
@[simp] theorem setPulse_mem {n p} : (setPulse n p s).mem = s.mem := rfl
@[simp] theorem setPulse_ecc {n p} : (setPulse n p s).ecc = s.ecc := rfl
@[simp] theorem setPulse_power {n p} : (setPulse n p s).power = s.power := rfl
@[simp] theorem setPulse_epochs {n p} : (setPulse n p s).epochs = s.epochs := rfl
@[simp] theorem setPulse_evtDue {n p} : (setPulse n p s).evtDue = s.evtDue := rfl
@[simp] theorem setPulse_peerDue {n p} : (setPulse n p s).peerDue = s.peerDue := rfl
@[simp] theorem setPulse_evtHold {n p} : (setPulse n p s).evtHold = s.evtHold := rfl
@[simp] theorem setPulse_latch {n p} : (setPulse n p s).latch = s.latch := rfl
@[simp] theorem setPulse_fifos {n p} : (setPulse n p s).fifos = s.fifos := rfl
@[simp] theorem setPulse_time {n p} : (setPulse n p s).time = s.time := rfl
@[simp] theorem setPulse_ring {n p} : (setPulse n p s).ring = s.ring := rfl
@[simp] theorem setPulse_tables {n p} : (setPulse n p s).tables = s.tables := rfl
@[simp] theorem setPulse_cells {n p} : (setPulse n p s).cells = s.cells := rfl
@[simp] theorem setPulse_srcSeq {n p} : (setPulse n p s).srcSeq = s.srcSeq := rfl
@[simp] theorem setPulse_parsers {n p} : (setPulse n p s).parsers = s.parsers := rfl
@[simp] theorem setPulse_queues {n p} : (setPulse n p s).queues = s.queues := rfl
@[simp] theorem setPulse_sweep {n p} : (setPulse n p s).sweep = s.sweep := rfl
@[simp] theorem setPulse_slices {n p} : (setPulse n p s).slices = s.slices := rfl
@[simp] theorem setPulse_raws {n p} : (setPulse n p s).raws = s.raws := rfl
@[simp] theorem setPulse_tiles {n p} : (setPulse n p s).tiles = s.tiles := rfl
@[simp] theorem setPulse_lines {n p} : (setPulse n p s).lines = s.lines := rfl
@[simp] theorem setPulse_sliceMap {n p} : (setPulse n p s).sliceMap = s.sliceMap := rfl
@[simp] theorem setPulse_dl {n p} : (setPulse n p s).dl = s.dl := rfl
@[simp] theorem setPulse_dlShutDeb {n p} : (setPulse n p s).dlShutDeb = s.dlShutDeb := rfl
@[simp] theorem setPulse_engs {n p} : (setPulse n p s).engs = s.engs := rfl
@[simp] theorem setPulse_av {n p} : (setPulse n p s).av = s.av := rfl
@[simp] theorem setPulse_upd {n p} : (setPulse n p s).upd = s.upd := rfl
@[simp] theorem setPulse_fab {n p} : (setPulse n p s).fab = s.fab := rfl
@[simp] theorem setPulse_can {n p} : (setPulse n p s).can = s.can := rfl
@[simp] theorem setPulse_canGate {n p} : (setPulse n p s).canGate = s.canGate := rfl
@[simp] theorem setPulse_recGate {n p} : (setPulse n p s).recGate = s.recGate := rfl
@[simp] theorem getReg_setPulse {n p b} : getReg (setPulse n p s) b = getReg s b := rfl
@[simp] theorem memByte_setPulse {n p b} : memByte (setPulse n p s) b = memByte s b := rfl

/-! ### Reading an update back -/

@[simp] theorem cellSt_setCellSt {c v j} : cellSt (setCellSt s c v) j = if j = c then v else cellSt s j := tabGet_tabSet _ _ _ _ _
@[simp] theorem fifo_setFifo {f v j} : fifo (setFifo s f v) j = if j = f then v else fifo s j := tabGet_tabSet _ _ _ _ _
@[simp] theorem canSt_setCan {k v j} : canSt (setCan s k v) j = if j = k then v else canSt s j := tabGet_tabSet _ _ _ _ _
@[simp] theorem slice_setSlice {n v j} : slice (setSlice s n v) j = if j = n then v else slice s j := tabGet_tabSet _ _ _ _ _
@[simp] theorem queue_setQueue {n v j} : queue (setQueue s n v) j = if j = n then v else queue s j := tabGet_tabSet _ _ _ _ _
@[simp] theorem parser_setParser {n v j} : parser (setParser s n v) j = if j = n then v else parser s j := tabGet_tabSet _ _ _ _ _
@[simp] theorem raw_setRaw {n v j} : raw (setRaw s n v) j = if j = n then v else raw s j := tabGet_tabSet _ _ _ _ _
@[simp] theorem tile_setTile {k v j} : tile (setTile s k v) j = if j = k then v else tile s j := tabGet_tabSet _ _ _ _ _
@[simp] theorem line_setLine {p v j} : line (setLine s p v) j = if j = p then v else line s j := tabGet_tabSet _ _ _ _ _
@[simp] theorem dlSt_setDl {k v j} : dlSt (setDl s k v) j = if j = k then v else dlSt s j := tabGet_tabSet _ _ _ _ _
@[simp] theorem eng_setEng {l v j} : eng (setEng s l v) j = if j = l then v else eng s j := tabGet_tabSet _ _ _ _ _

@[simp] theorem lnk_setLnk {m v j} : lnk (setLnk m v s) j = if j = m then v else lnk s j := tabGet_tabSet _ _ _ _ _
@[simp] theorem pulseSt_setPulse {n p j} : pulseSt (setPulse n p s) j = if j = n then p else pulseSt s j := tabGet_tabSet _ _ _ _ _
@[simp] theorem fwdQ_setFwd {m v j} : fwdQ (setFwd m v s) j = if j = m then v else fwdQ s j := tabGet_tabSet _ _ _ _ _
@[simp] theorem txOf_setTx {m v j} : txOf (setTx m v s) j = if j = m then v else txOf s j := tabGet_tabSet _ _ _ _ _

@[simp] theorem ctx_setCtx {l c v j d} : ctx (setCtx l c v s) j d = if j = l ∧ d = c then v else ctx s j d := by
  unfold ctx setCtx
  rw [eng_setEng]
  by_cases h : j = l
  · subst h; simp [tabGet_tabSet, eng]
  · simp [h]

end Sys2Proof.Machine
end

