-- ==== Sys2Proof/Laws/Regs.lean ====
section
/-!
SUPPORT. The registers: a read after a write, and what each named register operation writes.
-/
namespace Sys2Proof.Machine

variable {s : State}

/-- A register read after a write of one gives the written value there, and the old value everywhere else. -/
theorem getReg_setReg (a b : Nat) (v : Word) : getReg (setReg s a v) b = if b = a then v else getReg s b :=
  tabGet_tabSet _ _ _ _ _

@[simp] theorem getReg_setReg_same (a : Nat) (v : Word) : getReg (setReg s a v) a = v := by simp [getReg_setReg]

theorem getReg_setReg_ne (a b : Nat) (v : Word) (h : b ≠ a) : getReg (setReg s a v) b = getReg s b := by
  simp [getReg_setReg, h]

/-! ### Each register operation is one write -/

theorem setFld_eq (a hi lo v : Nat) : setFld s a hi lo v = setReg s a (setBits (getReg s a) hi lo v) := rfl
theorem setBit_eq (a i : Nat) : setBit s a i = setReg s a (getReg s a ||| wd (2 ^ i)) := rfl
theorem clrBit_eq (a i : Nat) : clrBit s a i = setReg s a (getReg s a &&& ~~~ wd (2 ^ i)) := rfl
theorem errAdd_eq (a n : Nat) : errAdd s a n = setReg s a (satAdd (getReg s a) n) := rfl
theorem errInc_eq (a : Nat) : errInc s a = setReg s a (satAdd (getReg s a) 1) := rfl
theorem trafInc_eq (a : Nat) : trafInc s a = setReg s a (getReg s a + 1) := rfl
theorem putBit_eq (a i : Nat) (b : Bool) :
    putBit s a i b = setReg s a (if b then getReg s a ||| wd (2 ^ i) else getReg s a &&& ~~~ wd (2 ^ i)) := by
  cases b <;> rfl

/-! ### Single bits -/

theorem getLsbD_wd (n i : Nat) (h : i < 32) : (wd n).getLsbD i = n.testBit i := by
  rw [wd, BitVec.getLsbD_ofNat]; simp [h]

theorem getLsbD_pow (i j : Nat) (h : j < 32) : (wd (2 ^ i)).getLsbD j = decide (i = j) := by
  rw [getLsbD_wd _ _ h, Nat.testBit_two_pow]

/-- Setting bit i sets that bit and no other. -/
theorem flag_setBit (a i b j : Nat) (hj : j < 32) :
    flag (setBit s a i) b j = (flag s b j || decide (b = a ∧ j = i)) := by
  simp only [flag, setBit, getReg_setReg, bit]
  by_cases h : b = a
  · subst h
    rw [if_pos rfl, BitVec.getLsbD_or, getLsbD_pow _ _ hj]
    by_cases h2 : j = i
    · subst h2; simp
    · simp [h2, Ne.symm h2]
  · simp [h]

/-- Clearing bit i clears that bit and no other. -/
theorem flag_clrBit (a i b j : Nat) (hj : j < 32) :
    flag (clrBit s a i) b j = (flag s b j && !decide (b = a ∧ j = i)) := by
  simp only [flag, clrBit, getReg_setReg, bit]
  by_cases h : b = a
  · subst h
    rw [if_pos rfl, BitVec.getLsbD_and, BitVec.getLsbD_not, getLsbD_pow _ _ hj]
    by_cases h2 : j = i
    · subst h2; simp
    · simp [h2, Ne.symm h2, hj]
  · simp [h]

end Sys2Proof.Machine
end

