-- ==== Sys2Proof/Laws/Events.lean ====
section
/-!
SUPPORT. Events: all that the setting of an event can change.
-/
namespace Sys2Proof.Machine

/-- All that the signalling of an event changes. -/
structure EvtFrame (s t : State) : Prop where
  eq : t = withEvents s t
  regs : RegsKeptE s t []

variable {s t u : State}

/-- A change of the parts that the signalling of an event changes at once. -/
theorem evtFrame_of (h : t = { s with regs := t.regs, latch := t.latch, pulses := t.pulses, evtHold := t.evtHold,
                                      ring := { s.ring with txq := t.ring.txq } })
    (hr : RegsKeptE s t []) : EvtFrame s t := by
  refine ⟨?_, hr⟩
  have hd : t.evtDue = s.evtDue := by rw [h]
  rw [withEvents, hd, ite_self]
  exact h

theorem EvtFrame.refl : EvtFrame s s := evtFrame_of rfl fun _ _ _ => rfl

theorem EvtFrame.trans (h : EvtFrame s t) (k : EvtFrame t u) : EvtFrame s u := by
  refine ⟨?_, fun a ha he => (k.regs a ha he).trans (h.regs a ha he)⟩
  have h1 := h.eq
  have h2 := k.eq
  generalize ht : t.regs = r1 at h1; generalize t.latch = r2 at h1; generalize t.pulses = r3 at h1
  generalize t.evtHold = r4 at h1; generalize t.evtDue = r5 at h1
  rw [h2, h1]
  unfold withEvents
  dsimp only
  by_cases hp : s.power.phase = .stabled <;> simp [hp]

theorem evtFrame_setReg (a : Nat) (v : Word) (h : evtReg a = true) : EvtFrame s (setReg s a v) := by
  refine evtFrame_of rfl fun b _ hb => getReg_setReg_ne _ _ _ ?_
  rintro rfl
  rw [h] at hb; cases hb

theorem evtFrame_mono_reg (a : Nat) (v : Word) (ha : evtReg a = true) (h : EvtFrame s t) : EvtFrame s (setReg t a v) :=
  h.trans (evtFrame_setReg a v ha)

theorem evtFrame_queueOn (m : Nat) (f : Frame) (h : EvtFrame s t) : EvtFrame s (queueOn m f t) :=
  h.trans (evtFrame_of rfl fun _ _ _ => rfl)

theorem evtFrame_originate (f : Frame) (h : EvtFrame s t) : EvtFrame s (originate f t) := by
  unfold originate
  extract_lets f' t'
  have ht : EvtFrame s t' := evtFrame_mono_reg _ _ (by decide) h
  clear_value t'
  generalize originLinks t' f' = l
  induction l generalizing t' with
  | nil => exact ht
  | cons m r ih => exact ih _ (evtFrame_queueOn m f' ht)

theorem evtReg_stat (n : Nat) (h : n < 128) : evtReg (aEvtStat n) = true := by
  unfold evtReg aEvtStat aNode
  simp only [Bool.or_eq_true, Bool.and_eq_true, decide_eq_true_eq]
  omega

theorem evtReg_gate (n : Nat) (h : n < 128) : evtReg (aGateStat (128 + n)) = true := by
  unfold evtReg aGateStat aNode
  simp only [Bool.or_eq_true, Bool.and_eq_true, decide_eq_true_eq]
  omega

theorem evtReg_revt (i o : Nat) (h : i < 32) (ho : o < 16) : evtReg (aRing (0x600 + 0x10 * i) + o) = true := by
  unfold evtReg aRing
  simp only [Bool.or_eq_true, Bool.and_eq_true, decide_eq_true_eq]
  omega

theorem evtFrame_gatePulse (n : Nat) (hn : n < 128) (h : EvtFrame s t) : EvtFrame s (gatePulse n t).1 := by
  unfold gatePulse
  split
  · exact h.trans (evtFrame_of rfl fun _ _ _ => rfl)
  · exact evtFrame_mono_reg _ _ (evtReg_gate n hn) h

theorem evtFrame_revtWrite (src n : Nat) (d : DWord) (h : EvtFrame s t) : EvtFrame s (revtWrite src n d t).1 := by
  unfold revtWrite
  extract_lets i k a t1
  split
  · exact evtFrame_mono_reg _ _ (by decide) (evtFrame_mono_reg _ _ (by decide) h)
  · have hi : i % 32 < 32 := Nat.mod_lt _ (by decide)
    exact evtFrame_mono_reg _ _ (by decide) (evtFrame_mono_reg _ _ (by decide)
      (evtFrame_mono_reg _ _ (evtReg_revt _ 12 hi (by decide)) (evtFrame_mono_reg _ _ (evtReg_revt _ 8 hi (by decide))
        (evtFrame_mono_reg _ _ (evtReg_revt _ 4 hi (by decide)) (evtFrame_mono_reg _ _ (evtReg_revt _ 0 hi (by decide)) h)))))

theorem evtFrame_evtSend (merged : State → State) (hm : ∀ t, EvtFrame s t → EvtFrame s (merged t)) (n : Nat) (d : DWord)
    (h : EvtFrame s t) : EvtFrame s (evtSend merged n d t) := by
  unfold evtSend
  extract_lets rn t1
  have h1 : EvtFrame s t1 := evtFrame_mono_reg _ _ (by decide) h
  split
  · exact evtFrame_mono_reg _ _ (by decide) h
  split
  · have h2 := evtFrame_revtWrite rn n d h1
    generalize revtWrite rn n d t1 = p at h2
    obtain ⟨v, new⟩ := p
    dsimp only at h2 ⊢
    split
    · have h3 := evtFrame_gatePulse 52 (by decide) h2
      generalize gatePulse 52 v = q at h3
      obtain ⟨w, ovr⟩ := q
      dsimp only at h3 ⊢
      split
      · exact hm _ h3
      · exact h3
    · exact h2
  · exact evtFrame_originate _ h1

theorem evtFrame_evtRemote (merged : State → State) (hm : ∀ t, EvtFrame s t → EvtFrame s (merged t)) (n : Nat)
    (h : EvtFrame s t) : EvtFrame s (evtRemote merged n t) := by
  unfold evtRemote
  split
  · exact h
  split
  · exact evtFrame_evtSend merged hm n t.time.ft h
  split
  · have h1 := evtFrame_evtSend merged hm n t.time.ft h
    generalize evtSend merged n t.time.ft t = v at h1
    exact h1.trans (evtFrame_of rfl fun _ _ _ => rfl)
  · split
    · exact evtFrame_mono_reg _ _ (by decide) h
    · exact h.trans (evtFrame_of rfl fun _ _ _ => rfl)

theorem not_reserved_lt (n : Nat) (h : evtReserved t n = false) : n < 128 := by
  unfold evtReserved at h
  simp only [Bool.or_eq_false_iff, decide_eq_false_iff_not] at h
  omega

theorem evtFrame_evtSetting (k : Nat) : ∀ (n : Nat) (t : State), EvtFrame s t → EvtFrame s (evtSetting k n t) := by
  induction k with
  | zero => intro n t h; exact h
  | succ k ih =>
    intro n t h
    unfold evtSetting
    split
    · exact h
    · rename_i hr
      have hn := not_reserved_lt n (by simpa using hr)
      extract_lets t1 r t2
      have h1 : EvtFrame s t1 := evtFrame_mono_reg _ _ (evtReg_stat n hn) h
      refine evtFrame_evtRemote _ (fun t h => ih 100 t h) n ?_
      subst t2
      split
      · exact h1.trans (evtFrame_of rfl fun _ _ _ => rfl)
      · exact h1

theorem evtFrame_evtDirectly (n : Nat) (t : State) (h : EvtFrame s t) : EvtFrame s (evtDirectly n t) := by
  unfold evtDirectly
  split
  · rename_i hp
    exact h.trans ⟨by simp [withEvents, hp], fun _ _ _ => rfl⟩
  · exact evtFrame_evtSetting 3 n t h

/-- All that setting an event changes. -/
theorem evtFrame_raise (n : Nat) (h : EvtFrame s t) : EvtFrame s (raise n t) := by
  unfold raise
  split
  · exact h
  rename_i hr
  have hn := not_reserved_lt n (by simpa using hr)
  split
  · exact evtFrame_evtDirectly n t h
  · have h1 := evtFrame_gatePulse n hn h
    generalize gatePulse n t = p at h1
    obtain ⟨u, o⟩ := p
    dsimp only at h1 ⊢
    split
    · exact evtFrame_evtDirectly 100 u h1
    · exact h1

theorem raise_frame (n : Nat) (s : State) : EvtFrame s (raise n s) := evtFrame_raise n .refl

theorem raiseAll_frame (l : List Nat) : ∀ {t : State}, EvtFrame s t → EvtFrame s (raiseAll l t) := by
  induction l with
  | nil => intro t h; exact h
  | cons n r ih => intro t h; exact ih (evtFrame_raise n h)

/-- A register that no event writes, read after the setting of one. -/
theorem getReg_raise (n a : Nat) (h : evtReg a = false) : getReg (raise n s) a = getReg s a :=
  (raise_frame n s).regs a (by simp) h

/-- The events that act at the event unit at once set their status bit (R645). -/
theorem raise_direct (n : Nat) (hr : evtReserved s n = false) (hd : evtDirect n = true) (hp : s.power.phase ≠ .stabled) :
    raise n s = evtSetting 3 n s := by
  simp [raise, evtDirectly, hr, hd, hp]

/-- The other events toggle their gate, unless it is busy (R139, R140). -/
theorem raise_gate (n : Nat) (hr : evtReserved s n = false) (hd : evtDirect n = false) (hg : pulseSt s n = .idle) :
    raise n s = setPulse n .request s := by
  simp [raise, gatePulse, hr, hd, hg]

@[simp] theorem raise_m4 (n : Nat) : (raise n s).m4 = s.m4 := by rw [(raise_frame n s).eq]; rfl
@[simp] theorem raise_duid (n : Nat) : (raise n s).duid = s.duid := by rw [(raise_frame n s).eq]; rfl
@[simp] theorem raise_srev (n : Nat) : (raise n s).srev = s.srev := by rw [(raise_frame n s).eq]; rfl
@[simp] theorem raise_pending (n : Nat) : (raise n s).pending = s.pending := by rw [(raise_frame n s).eq]; rfl
@[simp] theorem raise_now (n : Nat) : (raise n s).now = s.now := by rw [(raise_frame n s).eq]; rfl
@[simp] theorem raise_free (n : Nat) : (raise n s).free = s.free := by rw [(raise_frame n s).eq]; rfl
@[simp] theorem raise_nodeId (n : Nat) : (raise n s).nodeId = s.nodeId := by rw [(raise_frame n s).eq]; rfl
@[simp] theorem raise_csGen (n : Nat) : (raise n s).csGen = s.csGen := by rw [(raise_frame n s).eq]; rfl
@[simp] theorem raise_mem (n : Nat) : (raise n s).mem = s.mem := by rw [(raise_frame n s).eq]; rfl
@[simp] theorem raise_ecc (n : Nat) : (raise n s).ecc = s.ecc := by rw [(raise_frame n s).eq]; rfl
@[simp] theorem raise_power (n : Nat) : (raise n s).power = s.power := by rw [(raise_frame n s).eq]; rfl
@[simp] theorem raise_fifos (n : Nat) : (raise n s).fifos = s.fifos := by rw [(raise_frame n s).eq]; rfl
@[simp] theorem raise_time (n : Nat) : (raise n s).time = s.time := by rw [(raise_frame n s).eq]; rfl
@[simp] theorem raise_tables (n : Nat) : (raise n s).tables = s.tables := by rw [(raise_frame n s).eq]; rfl
@[simp] theorem raise_cells (n : Nat) : (raise n s).cells = s.cells := by rw [(raise_frame n s).eq]; rfl
@[simp] theorem raise_srcSeq (n : Nat) : (raise n s).srcSeq = s.srcSeq := by rw [(raise_frame n s).eq]; rfl
@[simp] theorem raise_parsers (n : Nat) : (raise n s).parsers = s.parsers := by rw [(raise_frame n s).eq]; rfl
@[simp] theorem raise_queues (n : Nat) : (raise n s).queues = s.queues := by rw [(raise_frame n s).eq]; rfl
@[simp] theorem raise_slices (n : Nat) : (raise n s).slices = s.slices := by rw [(raise_frame n s).eq]; rfl
@[simp] theorem raise_raws (n : Nat) : (raise n s).raws = s.raws := by rw [(raise_frame n s).eq]; rfl
@[simp] theorem raise_tiles (n : Nat) : (raise n s).tiles = s.tiles := by rw [(raise_frame n s).eq]; rfl
@[simp] theorem raise_lines (n : Nat) : (raise n s).lines = s.lines := by rw [(raise_frame n s).eq]; rfl
@[simp] theorem raise_sliceMap (n : Nat) : (raise n s).sliceMap = s.sliceMap := by rw [(raise_frame n s).eq]; rfl
@[simp] theorem raise_dl (n : Nat) : (raise n s).dl = s.dl := by rw [(raise_frame n s).eq]; rfl
@[simp] theorem raise_dlShutDeb (n : Nat) : (raise n s).dlShutDeb = s.dlShutDeb := by rw [(raise_frame n s).eq]; rfl
@[simp] theorem raise_engs (n : Nat) : (raise n s).engs = s.engs := by rw [(raise_frame n s).eq]; rfl
@[simp] theorem raise_av (n : Nat) : (raise n s).av = s.av := by rw [(raise_frame n s).eq]; rfl
@[simp] theorem raise_upd (n : Nat) : (raise n s).upd = s.upd := by rw [(raise_frame n s).eq]; rfl
@[simp] theorem raise_fab (n : Nat) : (raise n s).fab = s.fab := by rw [(raise_frame n s).eq]; rfl
@[simp] theorem raise_can (n : Nat) : (raise n s).can = s.can := by rw [(raise_frame n s).eq]; rfl
end Sys2Proof.Machine
end

