-- ==== Sys2Proof/Laws/Memory.lean ====
section
/-!
SUPPORT. Memory: a byte read after a write, and the canonical form that every write keeps.
-/
namespace Sys2Proof.Machine

variable {s : State}

/-- A byte read after a write of one gives the written byte there, and the old byte everywhere else. -/
theorem memByte_memPut (a b : Nat) (v : Byte) : memByte (memPut s a v) b = if b = a then v else memByte s b :=
  tabGet_tabSet _ _ _ _ _

/-- A run of bytes written from `a` on is read there; every other byte stays. -/
theorem memByte_memWrite (l : List Byte) : ∀ (s : State) (a b : Nat),
    memByte (memWrite s a l) b = if a ≤ b ∧ b < a + l.length then l.getD (b - a) 0 else memByte s b := by
  induction l with
  | nil => intro s a b; simp only [memWrite, List.length_nil]; rw [if_neg (by omega)]
  | cons v r ih =>
    intro s a b
    simp only [memWrite, ih, memByte_memPut, List.length_cons]
    by_cases h : a + 1 ≤ b ∧ b < a + 1 + r.length
    · rw [if_pos h, if_pos (by omega), show b - a = b - (a + 1) + 1 by omega]
      simp
    · rw [if_neg h]
      by_cases h2 : b = a
      · subst h2; simp
      · rw [if_neg h2, if_neg (by omega)]

theorem memByte_memWrite_out (a b : Nat) (l : List Byte) (h : b < a ∨ a + l.length ≤ b) :
    memByte (memWrite s a l) b = memByte s b := by rw [memByte_memWrite, if_neg (by omega)]

/-- Reading back what was written. -/
theorem memBytes_memWrite (l : List Byte) : ∀ (s : State) (a : Nat), memBytes (memWrite s a l) a l.length = l := by
  induction l with
  | nil => intro s a; rfl
  | cons v r ih =>
    intro s a
    simp only [List.length_cons, memBytes, memWrite]
    rw [ih, memByte_memWrite_out _ _ _ (by omega), memByte_memPut, if_pos rfl]

/-! ### Only memory and its error-correcting words change -/

theorem memWrite_frame (l : List Byte) : ∀ (s : State) (a : Nat),
    memWrite s a l = { s with mem := (memWrite s a l).mem, ecc := (memWrite s a l).ecc } := by
  induction l with
  | nil => intro s a; rfl
  | cons v r ih => intro s a; simp only [memWrite]; rw [ih (memPut s a v)]; rfl

/-! ### The canonical form -/

theorem memory_wf_memPut (a : Nat) (v : Byte) (h : Memory.wf s.mem = true) : Memory.wf (memPut s a v).mem = true :=
  tabWf_tabSet _ _ _ _ h

theorem memory_wf_memWrite (l : List Byte) : ∀ (s : State) (a : Nat), Memory.wf s.mem = true →
    Memory.wf (memWrite s a l).mem = true := by
  induction l with
  | nil => intro s a h; exact h
  | cons v r ih => intro s a h; exact ih _ _ (memory_wf_memPut a v h)

theorem memory_wf_memPutNat (a n v : Nat) (h : Memory.wf s.mem = true) : Memory.wf (memPutNat s a n v).mem = true :=
  memory_wf_memWrite _ _ _ h

theorem registers_wf_setReg (a : Nat) (v : Word) (h : Registers.wf s.regs = true) : Registers.wf (setReg s a v).regs = true :=
  tabWf_tabSet _ _ _ _ h

theorem memory_wf_reset : Memory.wf State.reset.mem = true := by decide

theorem registers_wf_reset : Registers.wf State.reset.regs = true := by decide

end Sys2Proof.Machine
end

