-- ==== Sys2Proof/Laws/Engine.lean ====
section
/-!
SUPPORT. Engines: how the instructions of a context end.
-/
namespace Sys2Proof.Machine

variable {s : State}

/-! ### Registers of a context -/

theorem gReg_gSet (v : CtxSt) (i j : Nat) (w : Word) : gReg (gSet v i w) j = if j = i ∧ j ≠ 0 then w else gReg v j := by
  unfold gReg gSet
  by_cases hi : i = 0
  · subst hi; by_cases hj : j = 0 <;> simp [hj]
  · by_cases hj : j = 0
    · simp [hj]
    · rw [if_neg hi, if_neg hj, if_neg hj]
      dsimp only
      rw [tabGet_tabSet]
      simp [hj]

/-- gSet changes the general registers only. -/
theorem gSet_eq (v : CtxSt) (i : Nat) (w : Word) : gSet v i w = { v with g := (gSet v i w).g } := by
  unfold gSet; split <;> rfl

/-! ### Setting a context -/

theorem eng_setCtx (l c j : Nat) (v : CtxSt) :
    eng (setCtx l c v s) j = { eng s j with ctxs := (eng (setCtx l c v s) j).ctxs } := by
  unfold setCtx
  rw [eng_setEng]
  split
  · next h => subst h; rfl
  · rfl

theorem setCtx_eq (l c : Nat) (v : CtxSt) : setCtx l c v s = { s with engs := (setCtx l c v s).engs } := rfl

@[simp] theorem getReg_setCtx (l c a : Nat) (v : CtxSt) : getReg (setCtx l c v s) a = getReg s a := rfl

theorem onlyCtx_setCtx (l c : Nat) (v : CtxSt) : OnlyCtx l c 0 s (setCtx l c v s) := by
  refine ⟨fun l' c' h => ?_, fun j => ?_⟩
  · rw [ctx_setCtx, if_neg h]
  · rw [eng_setCtx]; simp only [ite_self, Nat.add_zero]

theorem OnlyCtx.trans {l c m n : Nat} {s t u : State} (h : OnlyCtx l c m s t) (k : OnlyCtx l c n t u) : OnlyCtx l c (m + n) s u := by
  refine ⟨fun l' c' g => (k.1 l' c' g).trans (h.1 l' c' g), fun j => ?_⟩
  have hk := k.2 j
  have hh := h.2 j
  by_cases e : j = l
  · simp only [e, if_true] at hk hh ⊢; rw [hk, hh]; simp [Nat.add_assoc]
  · simp only [e, if_false] at hk hh ⊢; rw [hk, hh]; rfl

theorem OnlyCtx.refl (l c : Nat) (s : State) : OnlyCtx l c 0 s s := ⟨fun _ _ _ => rfl, fun j => by simp⟩

/-- What changes no engine keeps every context. -/
theorem OnlyCtx.of_engs {l c : Nat} {s t : State} (h : t.engs = s.engs) : OnlyCtx l c 0 s t := by
  have he : ∀ j, eng t j = eng s j := fun j => by unfold eng; rw [h]
  exact ⟨fun l' c' _ => by unfold ctx; rw [he], fun j => by rw [he]; simp⟩

/-! ### Boundaries -/

/-- At a boundary LEVEL and DISPMASK take effect, and nothing else changes (R413). -/
theorem atBoundary_eq (l c : Nat) : atBoundary l c s = setCtx l c (bounded s l c (ctx s l c)) s := rfl

theorem ctx_atBoundary (l c : Nat) : ctx (atBoundary l c s) l c = bounded s l c (ctx s l c) := by
  rw [atBoundary_eq, ctx_setCtx, if_pos ⟨rfl, rfl⟩]

/-- A context set and brought to its boundary. -/
theorem atBoundary_setCtx (l c : Nat) (v : CtxSt) :
    ctx (atBoundary l c (setCtx l c v s)) l c = bounded s l c v ∧ OnlyCtx l c 0 s (atBoundary l c (setCtx l c v s)) ∧
    atBoundary l c (setCtx l c v s) = { s with engs := (atBoundary l c (setCtx l c v s)).engs } := by
  refine ⟨?_, ?_, rfl⟩
  · rw [ctx_atBoundary, ctx_setCtx, if_pos ⟨rfl, rfl⟩]; rfl
  · exact (onlyCtx_setCtx l c v).trans (onlyCtx_setCtx l c _)

/-! ### Issue -/

/-- An issued word that is fetched without an error takes its effect. -/
theorem issue_of_fetches {l c : Nat} {w : Word} {f : State → State} (h : Fetches l c w s) : issue l c w f s = .next (f s) := by
  unfold issue
  rw [if_pos h.1, h.2]
  rfl

/-- A word that the context does not issue has no effect. -/
theorem issue_of_not {l c : Nat} {w : Word} {f : State → State} (h : issues l c w s = false) : issue l c w f s = .next s := by
  unfold issue; rw [h]; rfl

/-- A local instruction that writes one register does only that. -/
theorem wrote_wr (l c : Nat) (gd : BitVec 4) (w : Word) (s : State) : Wrote l c gd w s (wr l c gd w s) := by
  have h := atBoundary_setCtx (s := s) l c { gSet (ctx s l c) gd.toNat w with st := .run, pc := (gSet (ctx s l c) gd.toNat w).pc + 4, blk := none }
  have he : wr l c gd w s = atBoundary l c (setCtx l c { gSet (ctx s l c) gd.toNat w with
      st := .run, pc := (gSet (ctx s l c) gd.toNat w).pc + 4, blk := none } s) := rfl
  rw [he]
  refine ⟨⟨⟨fun r => ?_, .inl ?_, ?_⟩, h.2.1⟩, h.2.2⟩
  · rw [h.1]
    exact gReg_gSet (ctx s l c) gd.toNat r w
  · rw [h.1]; rfl
  · rw [h.1]; rw [gSet_eq]; rfl

/-- A local instruction without a result only goes on. -/
theorem went_finish (l c : Nat) (s : State) :
    CtxWent l c .run ((ctx s l c).pc + 4) (gReg (ctx s l c)) s (finish l c {} s) ∧
    finish l c {} s = { s with engs := (finish l c {} s).engs } := by
  have h := atBoundary_setCtx (s := s) l c { ctx s l c with st := .run, pc := (ctx s l c).pc + 4, blk := none }
  have he : finish l c {} s = atBoundary l c (setCtx l c { ctx s l c with st := .run, pc := (ctx s l c).pc + 4, blk := none } s) := rfl
  rw [he]
  refine ⟨⟨⟨fun r => ?_, .inl ?_, ?_⟩, h.2.1⟩, h.2.2⟩
  · rw [h.1]; rfl
  · rw [h.1]; rfl
  · rw [h.1]; rfl

/-- A context that goes on at another pc, with a link. -/
theorem went_jumpTo (l c : Nat) (gd : BitVec 4) (w : Word) (pc : BitVec 16) (s : State) (hs : (ctx s l c).st = .run) :
    CtxWent l c .run pc (setG s l c gd w) s (jumpTo l c gd w pc s) ∧ jumpTo l c gd w pc s = { s with engs := (jumpTo l c gd w pc s).engs } := by
  have h := atBoundary_setCtx (s := s) l c { gSet (ctx s l c) gd.toNat w with pc := pc }
  have he : jumpTo l c gd w pc s = atBoundary l c (setCtx l c { gSet (ctx s l c) gd.toNat w with pc := pc } s) := rfl
  rw [he]
  refine ⟨⟨⟨fun r => ?_, .inr ?_, ?_⟩, h.2.1⟩, h.2.2⟩
  · rw [h.1]
    exact gReg_gSet (ctx s l c) gd.toNat r w
  · rw [h.1, gSet_eq]; rfl
  · rw [h.1, gSet_eq, ← hs]; rfl

theorem run_of_fetches {l c : Nat} {w : Word} (h : Fetches l c w s) : (ctx s l c).st = .run ∧ l < 16 ∧ c < 8 := by
  have := h.1
  simp only [issues, engRuns, Bool.and_eq_true, decide_eq_true_eq] at this
  exact ⟨this.1.2, this.1.1.1.1.1.1.1, this.1.1.2⟩

/-- A request to the switch leaves its context in BLOCK. -/
theorem blockOn_eq (l c : Nat) (res : Option BlkRes) (s : State) :
    ctx (blockOn l c res s) l c = { ctx s l c with st := .block, blk := some { id := (eng s l).nextId, res := res } } ∧
    OnlyCtx l c 1 s (blockOn l c res s) ∧ blockOn l c res s = { s with engs := (blockOn l c res s).engs } := by
  have hc : ctx (setEng s l { eng s l with nextId := (eng s l).nextId + 1 }) l c = ctx s l c := by
    unfold ctx; rw [eng_setEng, if_pos rfl]
  refine ⟨?_, ⟨fun l' c' h => ?_, fun j => ?_⟩, rfl⟩
  · show ctx (setCtx l c _ _) l c = _
    rw [ctx_setCtx, if_pos ⟨rfl, rfl⟩, hc]
  · show ctx (setCtx l c _ _) l' c' = _
    rw [ctx_setCtx, if_neg h]
    unfold ctx; rw [eng_setEng]
    split
    · next e => subst e; rfl
    · rfl
  · show eng (setCtx l c _ _) j = _
    rw [eng_setCtx, eng_setEng]
    split
    · next e => subst e; rfl
    · rfl

end Sys2Proof.Machine
end

