-- ==== Sys2Proof/Laws/Keeps.lean ====
section
/-!
SUPPORT. What every operation keeps: the device, the queue, and the canonical form of memory and registers. The lemmas of the files
Keeps… carry it through each operation, so that an invariant of the step needs no unfolding of them.
-/
namespace Sys2Proof.Machine

/-- From `s` to `t` nothing that manufacture fixed changes, the queue stays, and canonical memory and registers stay so. -/
structure Keeps (s t : State) : Prop where
  dev : SameDevice s t
  pend : t.pending = s.pending
  mem : Memory.wf s.mem = true → Memory.wf t.mem = true
  regs : Registers.wf s.regs = true → Registers.wf t.regs = true

/-- `Keeps` for an operation that may have no result. -/
structure KeepsOpt (s : State) (o : Option State) : Prop where
  out : ∀ t, o = some t → Keeps s t

/-- `Keeps` for an operation that may have no result, beside a value. -/
structure KeepsOptP {α : Type} (s : State) (o : Option (α × State)) : Prop where
  out : ∀ x, o = some x → Keeps s x.2

/-- A meaning goes on, and keeps what `Keeps` says. -/
structure KeepsO (s : State) (o : Host.Outcome State Fault Refusal) : Prop where
  out : ∃ t, o = .next t ∧ Keeps s t


variable {s₀ s t : State}

theorem Keeps.refl (s : State) : Keeps s s := ⟨⟨rfl, rfl, rfl⟩, rfl, id, id⟩

theorem keeps_mk {x4 x5 x6 x7 x10 x11 x12 x13 x14 x15 x16 x17 x18 x19 x20 x21 x22 x23 x24 x25 x26 x27 x28 x29 x30 x31 x32 x33 x34 x35 x36 x37
    x38 x39 x40} (h : Keeps s₀ s) :
    Keeps s₀ (State.mk s.m4 s.duid s.srev s.pending x4 x5 x6 x7 s.regs s.mem x10 x11 x12 x13 x14 x15 x16 x17 x18 x19 x20 x21 x22 x23 x24 x25
      x26 x27 x28 x29 x30 x31 x32 x33 x34 x35 x36 x37 x38 x39 x40) :=
  ⟨h.1, h.2, h.3, h.4⟩

theorem keeps_ite {c : Prop} [Decidable c] {a b : State} (h1 : Keeps s₀ a) (h2 : Keeps s₀ b) : Keeps s₀ (if c then a else b) := by
  split <;> assumption

theorem keeps_use {P : Prop} (x : State) (h1 : Keeps s₀ x) (h2 : Keeps s₀ x → P) : P := h2 h1

theorem keeps_snd {α : Type} {e : α × State} {a : α} (heq : e = (a, t)) (h : Keeps s₀ e.2) : Keeps s₀ t := by
  subst heq; exact h

theorem keeps_thd {α β : Type} {e : α × β × State} {a : α} {b : β} (heq : e = (a, b, t)) (h : Keeps s₀ e.2.2) : Keeps s₀ t := by
  subst heq; exact h

theorem keeps_fst {β : Type} {e : State × β} {b : β} (heq : e = (t, b)) (h : Keeps s₀ e.1) : Keeps s₀ t := by
  subst heq; exact h

theorem keeps_some {o : Option State} (heq : o = some t) (h : KeepsOpt s₀ o) : Keeps s₀ t := h.out t heq

theorem keeps_someP {α : Type} {o : Option (α × State)} {a : α} (heq : o = some (a, t)) (h : KeepsOptP s₀ o) : Keeps s₀ t := h.out _ heq

theorem keeps_next {o : Host.Outcome State Fault Refusal} (heq : o = .next t) (h : KeepsO s₀ o) : Keeps s₀ t := by
  obtain ⟨u, hu, hk⟩ := h.out
  rw [heq] at hu; cases hu; exact hk

theorem keeps_foldl {α : Type} {f : State → α → State} {l : List α} (h : Keeps s₀ s)
    (hf : ∀ s x, Keeps s₀ s → Keeps s₀ (f s x)) : Keeps s₀ (l.foldl f s) := by
  induction l generalizing s with
  | nil => exact h
  | cons a r ih => exact ih (hf _ _ h)

theorem keeps_foldlP {α β : Type} {f : β × State → α → β × State} {l : List α} {x : β × State} (h : Keeps s₀ x.2)
    (hf : ∀ x a, Keeps s₀ x.2 → Keeps s₀ (f x a).2) : Keeps s₀ (l.foldl f x).2 := by
  induction l generalizing x with
  | nil => exact h
  | cons a r ih => exact ih (hf _ _ h)

theorem keepsOpt_none : KeepsOpt s₀ none := ⟨fun _ h => nomatch h⟩
theorem keepsOpt_some (h : Keeps s₀ s) : KeepsOpt s₀ (some s) := ⟨fun _ e => by cases e; exact h⟩
theorem keepsOptP_none {α : Type} : KeepsOptP (α := α) s₀ none := ⟨fun _ h => nomatch h⟩
theorem keepsOptP_some {α : Type} {a : α} (h : Keeps s₀ s) : KeepsOptP s₀ (some (a, s)) := ⟨fun _ e => by cases e; exact h⟩
theorem keepsO_next (h : Keeps s₀ s) : KeepsO s₀ (.next s) := ⟨⟨s, rfl, h⟩⟩

theorem keeps_getD {o : Option State} (h : KeepsOpt s₀ o) (h1 : Keeps s₀ s) : Keeps s₀ (o.getD s) := by
  cases o with
  | none => exact h1
  | some t => exact h.out t rfl

theorem keeps_iter {f : State → State} {n : Nat} (h : Keeps s₀ s) (hf : ∀ s, Keeps s₀ s → Keeps s₀ (f s)) :
    Keeps s₀ (iter f n s) := by
  induction n generalizing s with
  | zero => exact h
  | succ n ih => exact ih (hf _ h)

theorem keeps_setReg {a v} (h : Keeps s₀ s) : Keeps s₀ (setReg s a v) :=
  ⟨h.1, h.2, h.3, fun w => tabWf_tabSet _ _ _ _ (h.4 w)⟩

end Sys2Proof.Machine
end

