-- ==== Sys2Proof/Laws/KeepsStore.lean ====
section
/-!
SUPPORT. What the operations of registers, memory, events, the sentence store, the FIFOs and faults keep (`Keeps`).
-/
namespace Sys2Proof.Machine

variable {s₀ s : State}

/-! ### Ops -/

theorem keeps_setFld {x1 x2 x3 x4} (h : Keeps s₀ s) : Keeps s₀ (setFld s x1 x2 x3 x4) :=
  keeps_setReg h

theorem keeps_setBit {x1 x2} (h : Keeps s₀ s) : Keeps s₀ (setBit s x1 x2) :=
  keeps_setReg h

theorem keeps_clrBit {x1 x2} (h : Keeps s₀ s) : Keeps s₀ (clrBit s x1 x2) :=
  keeps_setReg h

theorem keeps_putBit {x1 x2 x3} (h : Keeps s₀ s) : Keeps s₀ (putBit s x1 x2 x3) := by
  unfold putBit
  repeat' first
    | (with_reducible first | assumption | apply keeps_ite | apply keeps_setBit | apply keeps_clrBit)
    | split

theorem keeps_errAdd {x1 x2} (h : Keeps s₀ s) : Keeps s₀ (errAdd s x1 x2) :=
  keeps_setReg h

theorem keeps_errInc {x1} (h : Keeps s₀ s) : Keeps s₀ (errInc s x1) :=
  keeps_errAdd h

theorem keeps_trafInc {x1} (h : Keeps s₀ s) : Keeps s₀ (trafInc s x1) :=
  keeps_setReg h

theorem keeps_takeFree (h : Keeps s₀ s) : Keeps s₀ (takeFree s).2 := by
  unfold takeFree
  repeat' first
    | (with_reducible first | assumption)
    | with_reducible apply keeps_mk

theorem keeps_memPut {a v} (h : Keeps s₀ s) : Keeps s₀ (memPut s a v) :=
  ⟨h.1, h.2, fun w => tabWf_tabSet _ _ _ _ (h.3 w), h.4⟩

theorem keeps_memWrite {a l} (h : Keeps s₀ s) : Keeps s₀ (memWrite s a l) := by
  induction l generalizing s a with
  | nil => exact h
  | cons b r ih => exact ih (keeps_memPut h)

theorem keeps_memPutNat {x1 x2 x3} (h : Keeps s₀ s) : Keeps s₀ (memPutNat s x1 x2 x3) :=
  keeps_memWrite h


/-! ### Events -/

theorem keeps_setTxQ {x1 x2} (h : Keeps s₀ s) : Keeps s₀ (setTxQ x1 x2 s) := by
  unfold setTxQ
  repeat' first
    | with_reducible assumption | intro _

    | with_reducible apply keeps_mk

theorem keeps_queueOn {x1 x2} (h : Keeps s₀ s) : Keeps s₀ (queueOn x1 x2 s) :=
  keeps_setTxQ h

theorem keeps_originate {x1} (h : Keeps s₀ s) : Keeps s₀ (originate x1 s) := by
  unfold originate
  repeat' first
    | with_reducible assumption | intro _
    | (with_reducible first | apply keeps_setReg | apply keeps_queueOn | apply keeps_foldl)
    | (extract_lets +onlyGivenNames x; first
        | (refine keeps_use (s₀ := s₀) x ?_ (fun hx => ?_); rotate_left; clear_value x; rotate_left; subst x) | clear_value x)
    | with_reducible apply keeps_mk

theorem keeps_originateLocal {x1 x2} (h : Keeps s₀ s) : Keeps s₀ (originateLocal x1 x2 s) := by
  unfold originateLocal
  repeat' first
    | (with_reducible first | assumption | apply keeps_queueOn)
    | with_reducible apply keeps_mk

theorem keeps_setPulse {x1 x2} (h : Keeps s₀ s) : Keeps s₀ (setPulse x1 x2 s) := by
  unfold setPulse
  repeat' first
    | with_reducible assumption | intro _

    | with_reducible apply keeps_mk

theorem keeps_gatePulse {x1} (h : Keeps s₀ s) : Keeps s₀ (gatePulse x1 s).1 := by
  unfold gatePulse
  repeat' first
    | (with_reducible first | assumption | apply keeps_ite | apply keeps_setPulse | apply keeps_setBit)
    | split

theorem keeps_pulseTaken {x1 x2} (h : Keeps s₀ s) : Keeps s₀ (pulseTaken x1 x2 s) := by
  unfold pulseTaken
  repeat' first
    | (with_reducible first | assumption | apply keeps_setPulse)
    | split

theorem keeps_revtWrite {x1 x2 x3} (h : Keeps s₀ s) : Keeps s₀ (revtWrite x1 x2 x3 s).1 := by
  unfold revtWrite
  repeat' first
    | (with_reducible first | assumption | apply keeps_ite | apply keeps_setBit | apply keeps_errInc | apply keeps_setReg)
    | (extract_lets +onlyGivenNames x; first
        | (refine keeps_use (s₀ := s₀) x ?_ (fun hx => ?_); rotate_left; clear_value x; rotate_left; subst x) | clear_value x)
    | split

theorem keeps_evtSend {x1 x2 x3} (h : Keeps s₀ s) (hx1 : ∀ s, Keeps s₀ s → Keeps s₀ (x1 s)) : Keeps s₀ (evtSend x1 x2 x3 s) := by
  unfold evtSend
  repeat' first
    | with_reducible assumption | intro _
    | (with_reducible first | apply keeps_ite | apply keeps_errInc | apply keeps_trafInc | apply keeps_revtWrite | apply keeps_gatePulse
                            | apply keeps_originate | apply hx1)
    | (extract_lets +onlyGivenNames x; first
        | (refine keeps_use (s₀ := s₀) x ?_ (fun hx => ?_); rotate_left; clear_value x; rotate_left; subst x) | clear_value x)
    | split | refine keeps_fst (by with_reducible assumption) ?_

theorem keeps_evtRemote {x1 x2} (h : Keeps s₀ s) (hx1 : ∀ s, Keeps s₀ s → Keeps s₀ (x1 s)) : Keeps s₀ (evtRemote x1 x2 s) := by
  unfold evtRemote
  repeat' first
    | with_reducible assumption | intro _
    | (with_reducible first | apply keeps_ite | apply keeps_evtSend | apply keeps_trafInc | apply hx1)
    | (extract_lets +onlyGivenNames x; first
        | (refine keeps_use (s₀ := s₀) x ?_ (fun hx => ?_); rotate_left; clear_value x; rotate_left; subst x) | clear_value x)
    | split | with_reducible apply keeps_mk

theorem keeps_setLatch {x1 x2} (h : Keeps s₀ s) : Keeps s₀ (setLatch x1 x2 s) := by
  unfold setLatch
  repeat' first
    | with_reducible assumption | intro _

    | with_reducible apply keeps_mk

theorem keeps_evtSetting {k n} (h : Keeps s₀ s) : Keeps s₀ (evtSetting k n s) := by
  induction k generalizing s n with
  | zero => exact h
  | succ k ih =>
    unfold evtSetting
    repeat' first
      | with_reducible assumption | intro _
      | (with_reducible first | apply keeps_ite | apply keeps_setBit | apply keeps_setLatch | apply keeps_evtRemote | apply ih
                              | apply keeps_foldl | apply keeps_getD)
      | (extract_lets +onlyGivenNames x; first
          | (refine keeps_use (s₀ := s₀) x ?_ (fun hx => ?_); rotate_left; clear_value x; rotate_left; subst x) | clear_value x)
      | split | refine keeps_snd (by with_reducible assumption) ?_ | refine keeps_some (by with_reducible assumption) ?_
      | with_reducible apply keeps_mk

theorem keeps_evtDirectly {x1} (h : Keeps s₀ s) : Keeps s₀ (evtDirectly x1 s) := by
  unfold evtDirectly
  repeat' first
    | (with_reducible first | assumption | apply keeps_ite | apply keeps_evtSetting)
    | split | with_reducible apply keeps_mk

theorem keeps_raise {x1} (h : Keeps s₀ s) : Keeps s₀ (raise x1 s) := by
  unfold raise
  repeat' first
    | (with_reducible first | assumption | apply keeps_ite | apply keeps_evtDirectly | apply keeps_gatePulse)
    | (extract_lets +onlyGivenNames x; first
        | (refine keeps_use (s₀ := s₀) x ?_ (fun hx => ?_); rotate_left; clear_value x; rotate_left; subst x) | clear_value x)
    | split | refine keeps_fst (by with_reducible assumption) ?_

theorem keeps_raiseAll {x1} (h : Keeps s₀ s) : Keeps s₀ (raiseAll x1 s) := by
  unfold raiseAll
  repeat' first
    | with_reducible assumption | intro _
    | (with_reducible first | apply keeps_raise | apply keeps_foldl)

theorem keeps_stickyRaise {x1 x2 x3} (h : Keeps s₀ s) : Keeps s₀ (stickyRaise x1 x2 x3 s) := by
  unfold stickyRaise
  repeat' first
    | (with_reducible first | assumption | apply keeps_ite | apply keeps_raise | apply keeps_setBit)
    | split

theorem keeps_stickyEn {x1 x2 x3 x4 x5} (h : Keeps s₀ s) : Keeps s₀ (stickyEn x1 x2 x3 x4 x5 s) := by
  unfold stickyEn
  repeat' first
    | (with_reducible first | assumption | apply keeps_ite | apply keeps_raise | apply keeps_setBit)
    | split

theorem keeps_mgrSet {x1} (h : Keeps s₀ s) : Keeps s₀ (mgrSet x1 s) := by
  unfold mgrSet
  repeat' first
    | (with_reducible first | assumption | apply keeps_stickyRaise | apply keeps_setBit)
    | split

theorem keeps_nodeCfgErr (h : Keeps s₀ s) : Keeps s₀ (nodeCfgErr s) :=
  keeps_setBit h

theorem keeps_csChange (h : Keeps s₀ s) : Keeps s₀ (csChange s) := by
  unfold csChange
  repeat' first
    | (with_reducible first | assumption)
    | with_reducible apply keeps_mk


/-! ### Store -/

theorem keeps_setCellSt {x1 x2} (h : Keeps s₀ s) : Keeps s₀ (setCellSt s x1 x2) := by
  unfold setCellSt
  repeat' first
    | (with_reducible first | assumption)
    | with_reducible apply keeps_mk

theorem keeps_poolNote {x1} (h : Keeps s₀ s) : Keeps s₀ (poolNote x1 s) := by
  unfold poolNote
  repeat' first
    | (with_reducible first | assumption | apply keeps_ite | apply keeps_setReg | apply keeps_raise | apply keeps_setBit)
    | (extract_lets +onlyGivenNames x; first
        | (refine keeps_use (s₀ := s₀) x ?_ (fun hx => ?_); rotate_left; clear_value x; rotate_left; subst x) | clear_value x)
    | split

theorem keeps_poolRefuse (h : Keeps s₀ s) : Keeps s₀ (poolRefuse s) := by
  unfold poolRefuse
  repeat' first
    | (with_reducible first | assumption | apply keeps_raise | apply keeps_errInc | apply keeps_setBit)

theorem keeps_allocFirstBut {x1 x2 x3} (h : Keeps s₀ s) : Keeps s₀ (allocFirstBut x1 x2 x3 s).2 := by
  unfold allocFirstBut
  repeat' first
    | with_reducible assumption | intro _
    | (with_reducible first | apply keeps_ite | apply keeps_setCellSt | apply keeps_poolRefuse | apply keeps_poolNote | apply keeps_foldl
                            | apply keeps_foldlP)
    | (extract_lets +onlyGivenNames x; first
        | (refine keeps_use (s₀ := s₀) x ?_ (fun hx => ?_); rotate_left; clear_value x; rotate_left; subst x) | clear_value x)
    | split

theorem keeps_allocFirst {x1 x2} (h : Keeps s₀ s) : Keeps s₀ (allocFirst x1 x2 s).2 := by
  unfold allocFirst
  repeat' first
    | (with_reducible first | assumption | apply keeps_allocFirstBut)
    | refine keeps_snd (by with_reducible assumption) ?_

theorem keeps_allocPair {x1 x2} (h : Keeps s₀ s) : Keeps s₀ (allocPair x1 x2 s).2 := by
  unfold allocPair
  repeat' first
    | (with_reducible first | assumption | apply keeps_ite | apply keeps_poolRefuse | apply keeps_poolNote | apply keeps_setCellSt)
    | (extract_lets +onlyGivenNames x; first
        | (refine keeps_use (s₀ := s₀) x ?_ (fun hx => ?_); rotate_left; clear_value x; rotate_left; subst x) | clear_value x)
    | split

theorem keeps_freeChain {x1} (h : Keeps s₀ s) : Keeps s₀ (freeChain x1 s) := by
  unfold freeChain
  repeat' first
    | with_reducible assumption | intro _

    | with_reducible apply keeps_mk

theorem keeps_addRef {x1} (h : Keeps s₀ s) : Keeps s₀ (addRef x1 s) := by
  unfold addRef
  repeat' first
    | (with_reducible first | assumption | apply keeps_setCellSt)
    | split

theorem keeps_releaseRef {x1} (h : Keeps s₀ s) : Keeps s₀ (releaseRef x1 s) := by
  unfold releaseRef
  repeat' first
    | (with_reducible first | assumption | apply keeps_ite | apply keeps_setCellSt | apply keeps_freeChain)
    | split

theorem keeps_writeText {x1 x2 x3 x4} (h : Keeps s₀ s) : Keeps s₀ (writeText x1 x2 x3 x4 s) := by
  unfold writeText
  repeat' first
    | with_reducible assumption | intro _
    | (with_reducible first | apply keeps_ite | apply keeps_memPut | apply keeps_foldl)
    | split

theorem keeps_writeHdr {x1 x2} (h : Keeps s₀ s) : Keeps s₀ (writeHdr x1 x2 s) :=
  keeps_memWrite h

theorem keeps_writeStamp {x1 x2} (h : Keeps s₀ s) : Keeps s₀ (writeStamp x1 x2 s) :=
  keeps_memPutNat h

theorem keeps_writeHdrRest {x1 x2 x3} (h : Keeps s₀ s) : Keeps s₀ (writeHdrRest x1 x2 x3 s) := by
  unfold writeHdrRest
  repeat' first
    | (with_reducible first | assumption | apply keeps_ite | apply keeps_memWrite)
    | (extract_lets +onlyGivenNames x; first
        | (refine keeps_use (s₀ := s₀) x ?_ (fun hx => ?_); rotate_left; clear_value x; rotate_left; subst x) | clear_value x)
    | split

theorem keeps_takeSeq {x1} (h : Keeps s₀ s) : Keeps s₀ (takeSeq x1 s).2 := by
  unfold takeSeq
  repeat' first
    | with_reducible assumption | intro _

    | (extract_lets +onlyGivenNames x; first
        | (refine keeps_use (s₀ := s₀) x ?_ (fun hx => ?_); rotate_left; clear_value x; rotate_left; subst x) | clear_value x)
    | with_reducible apply keeps_mk

theorem keeps_allocChain {x1 x2} (h : Keeps s₀ s) : Keeps s₀ (allocChain x1 x2 s).2 := by
  unfold allocChain
  repeat' first
    | (with_reducible first | assumption | apply keeps_ite | apply keeps_allocFirst | apply keeps_allocPair | apply keeps_freeChain
                            | apply keeps_setCellSt)
    | split | refine keeps_snd (by with_reducible assumption) ?_


/-! ### Fifo -/

theorem keeps_setFifo {x1 x2} (h : Keeps s₀ s) : Keeps s₀ (setFifo s x1 x2) := by
  unfold setFifo
  repeat' first
    | with_reducible assumption | intro _

    | with_reducible apply keeps_mk

theorem keeps_fifoEvent {x1} (h : Keeps s₀ s) : Keeps s₀ (fifoEvent x1 s) := by
  unfold fifoEvent
  repeat' first
    | (with_reducible first | assumption | apply keeps_ite | apply keeps_raise | apply keeps_stickyEn)
    | split

theorem keeps_fifoRise {x1 x2 x3} (h : Keeps s₀ s) : Keeps s₀ (fifoRise x1 x2 x3 s) := by
  unfold fifoRise
  repeat' first
    | (with_reducible first | assumption | apply keeps_ite | apply keeps_fifoEvent | apply keeps_setBit)
    | (extract_lets +onlyGivenNames x; first
        | (refine keeps_use (s₀ := s₀) x ?_ (fun hx => ?_); rotate_left; clear_value x; rotate_left; subst x) | clear_value x)
    | split

theorem keeps_fifoAppend {x1 x2 x3} (h : Keeps s₀ s) : Keeps s₀ (fifoAppend x1 x2 x3 s) := by
  unfold fifoAppend
  repeat' first
    | (with_reducible first | assumption | apply keeps_fifoRise | apply keeps_setFifo)
    | (extract_lets +onlyGivenNames x; first
        | (refine keeps_use (s₀ := s₀) x ?_ (fun hx => ?_); rotate_left; clear_value x; rotate_left; subst x) | clear_value x)
    | split | with_reducible apply keeps_mk

theorem keeps_fifoItem {x1 x2 x3 x4 x5} (h : Keeps s₀ s) : Keeps s₀ (fifoItem x1 x2 x3 x4 x5 s).2 := by
  unfold fifoItem
  repeat' first
    | (with_reducible first | assumption | apply keeps_ite | apply keeps_setBit | apply keeps_errInc | apply keeps_fifoAppend
                            | apply keeps_trafInc)
    | split

theorem keeps_hmbOut {x1 x2 x3 x4 x5} (h : Keeps s₀ s) : Keeps s₀ (hmbOut x1 x2 x3 x4 x5 s).2 := by
  unfold hmbOut
  repeat' first
    | (with_reducible first | assumption | apply keeps_fifoItem)
    | refine keeps_snd (by with_reducible assumption) ?_

theorem keeps_emqPut {x1 x2 x3 x4} (h : Keeps s₀ s) : Keeps s₀ (emqPut x1 x2 x3 x4 s).2 := by
  unfold emqPut
  repeat' first
    | (with_reducible first | assumption | apply keeps_fifoItem)
    | refine keeps_snd (by with_reducible assumption) ?_

theorem keeps_dropHolds {x1} (h : Keeps s₀ s) : Keeps s₀ (dropHolds x1 s) := by
  unfold dropHolds
  repeat' first
    | with_reducible assumption | intro _
    | (with_reducible first | apply keeps_ite | apply keeps_releaseRef | apply keeps_foldl | apply keeps_foldlP)
    | split

theorem keeps_fifoRead {x1} (h : Keeps s₀ s) : Keeps s₀ (fifoRead x1 s).2 := by
  unfold fifoRead
  repeat' first
    | with_reducible assumption | intro _
    | (with_reducible first | apply keeps_ite | apply keeps_setBit | apply keeps_dropHolds | apply keeps_setFifo)
    | (extract_lets +onlyGivenNames x; first
        | (refine keeps_use (s₀ := s₀) x ?_ (fun hx => ?_); rotate_left; clear_value x; rotate_left; subst x) | clear_value x)
    | split | with_reducible apply keeps_mk

theorem keeps_fifoDropWords {x1 x2} (h : Keeps s₀ s) : Keeps s₀ (fifoDropWords x1 x2 s) := by
  unfold fifoDropWords
  repeat' first
    | (with_reducible first | assumption | apply keeps_setFifo)
    | (extract_lets +onlyGivenNames x; first
        | (refine keeps_use (s₀ := s₀) x ?_ (fun hx => ?_); rotate_left; clear_value x; rotate_left; subst x) | clear_value x)
    | with_reducible apply keeps_mk

theorem keeps_fifoFlush {x1} (h : Keeps s₀ s) : Keeps s₀ (fifoFlush x1 s) := by
  unfold fifoFlush
  repeat' first
    | with_reducible assumption | intro _
    | (with_reducible first | apply keeps_ite | apply keeps_errInc | apply keeps_releaseRef | apply keeps_setFifo | apply keeps_foldl)
    | (extract_lets +onlyGivenNames x; first
        | (refine keeps_use (s₀ := s₀) x ?_ (fun hx => ?_); rotate_left; clear_value x; rotate_left; subst x) | clear_value x)
    | split

theorem keeps_canFlags {x1 x2} (h : Keeps s₀ s) : Keeps s₀ (canFlags x1 x2 s) := by
  unfold canFlags
  repeat' first
    | with_reducible assumption | intro _
    | (with_reducible first | apply keeps_ite | apply keeps_setBit | apply keeps_raise | apply keeps_foldl)
    | (extract_lets +onlyGivenNames x; first
        | (refine keeps_use (s₀ := s₀) x ?_ (fun hx => ?_); rotate_left; clear_value x; rotate_left; subst x) | clear_value x)
    | split

theorem keeps_canFlag {x1 x2} (h : Keeps s₀ s) : Keeps s₀ (canFlag x1 x2 s) :=
  keeps_canFlags h

theorem keeps_setCan {x1 x2} (h : Keeps s₀ s) : Keeps s₀ (setCan s x1 x2) := by
  unfold setCan
  repeat' first
    | with_reducible assumption | intro _

    | with_reducible apply keeps_mk

theorem keeps_canRecPut {x1 x2 x3} (h : Keeps s₀ s) : Keeps s₀ (canRecPut x1 x2 x3 s) := by
  unfold canRecPut
  repeat' first
    | (with_reducible first | assumption)
    | with_reducible apply keeps_mk

theorem keeps_canSentAdmit {x1 x2} (h : Keeps s₀ s) : Keeps s₀ (canSentAdmit x1 x2 s) := by
  unfold canSentAdmit
  repeat' first
    | (with_reducible first | assumption | apply keeps_ite | apply keeps_canFlag | apply keeps_errInc | apply keeps_addRef
                            | apply keeps_setCan)
    | (extract_lets +onlyGivenNames x; first
        | (refine keeps_use (s₀ := s₀) x ?_ (fun hx => ?_); rotate_left; clear_value x; rotate_left; subst x) | clear_value x)
    | split | with_reducible apply keeps_mk


/-! ### Fault -/

theorem keeps_canStatusWith {x1 x2 x3} (h : Keeps s₀ s) : Keeps s₀ (canStatusWith x1 x2 x3 s) := by
  unfold canStatusWith
  repeat' first
    | (with_reducible first | assumption | apply keeps_ite | apply keeps_canFlags | apply keeps_putBit | apply keeps_setFld)
    | (extract_lets +onlyGivenNames x; first
        | (refine keeps_use (s₀ := s₀) x ?_ (fun hx => ?_); rotate_left; clear_value x; rotate_left; subst x) | clear_value x)
    | split

theorem keeps_canStatus {x1 x2} (h : Keeps s₀ s) : Keeps s₀ (canStatus x1 x2 s) :=
  keeps_canStatusWith h

theorem keeps_canEnterInit {x1} (h : Keeps s₀ s) : Keeps s₀ (canEnterInit x1 s) := by
  unfold canEnterInit
  repeat' first
    | (with_reducible first | assumption | apply keeps_setCan | apply keeps_canStatus | apply keeps_setReg)
    | (extract_lets +onlyGivenNames x; first
        | (refine keeps_use (s₀ := s₀) x ?_ (fun hx => ?_); rotate_left; clear_value x; rotate_left; subst x) | clear_value x)
    | with_reducible apply keeps_mk

theorem keeps_logPut {x1 x2 x3} (h : Keeps s₀ s) : Keeps s₀ (logPut x1 x2 x3 s) := by
  unfold logPut
  repeat' first
    | (with_reducible first | assumption | apply keeps_ite | apply keeps_setBit | apply keeps_errInc)
    | split | with_reducible apply keeps_mk

theorem keeps_sendHello {x1} (h : Keeps s₀ s) : Keeps s₀ (sendHello x1 s) := by
  unfold sendHello
  repeat' first
    | (with_reducible first | assumption | apply keeps_ite | apply keeps_originateLocal)
    | (extract_lets +onlyGivenNames x; first
        | (refine keeps_use (s₀ := s₀) x ?_ (fun hx => ?_); rotate_left; clear_value x; rotate_left; subst x) | clear_value x)
    | split

theorem keeps_helloAll (h : Keeps s₀ s) : Keeps s₀ (helloAll s) := by
  unfold helloAll
  repeat' first
    | with_reducible assumption | intro _
    | (with_reducible first | apply keeps_sendHello | apply keeps_foldl)

theorem keeps_nodeChanged (h : Keeps s₀ s) : Keeps s₀ (nodeChanged s) := by
  unfold nodeChanged
  repeat' first
    | (with_reducible first | assumption | apply keeps_helloAll | apply keeps_raise | apply keeps_csChange)

theorem keeps_setDl {x1 x2} (h : Keeps s₀ s) : Keeps s₀ (setDl s x1 x2) := by
  unfold setDl
  repeat' first
    | with_reducible assumption | intro _

    | with_reducible apply keeps_mk

theorem keeps_dlAgree {x1} (h : Keeps s₀ s) : Keeps s₀ (dlAgree x1 s) := by
  unfold dlAgree
  repeat' first
    | (with_reducible first | assumption | apply keeps_ite | apply keeps_setDl)
    | split | with_reducible apply keeps_mk

theorem keeps_dlAgreeAll (h : Keeps s₀ s) : Keeps s₀ (dlAgreeAll s) := by
  unfold dlAgreeAll
  repeat' first
    | with_reducible assumption | intro _
    | (with_reducible first | apply keeps_dlAgree | apply keeps_foldl)

theorem keeps_faultEnter {x1} (h : Keeps s₀ s) : Keeps s₀ (faultEnter x1 s) := by
  unfold faultEnter
  repeat' first
    | with_reducible assumption | intro _
    | (with_reducible first | apply keeps_ite | apply keeps_setBit | apply keeps_canEnterInit | apply keeps_setReg | apply keeps_logPut
                            | apply keeps_dlAgreeAll | apply keeps_helloAll | apply keeps_csChange | apply keeps_nodeChanged
                            | apply keeps_foldl)
    | (extract_lets +onlyGivenNames x; first
        | (refine keeps_use (s₀ := s₀) x ?_ (fun hx => ?_); rotate_left; clear_value x; rotate_left; subst x) | clear_value x)
    | split | with_reducible apply keeps_mk

theorem keeps_eccFix {x1} (h : Keeps s₀ s) : Keeps s₀ (eccFix x1 s) := by
  unfold eccFix
  repeat' first
    | (with_reducible first | assumption | apply keeps_stickyRaise | apply keeps_errInc)
    | with_reducible apply keeps_mk

theorem keeps_eccOffset {x1} (h : Keeps s₀ s) : Keeps s₀ (eccOffset x1 s).2 := by
  unfold eccOffset
  repeat' first
    | (with_reducible first | assumption | apply keeps_ite | apply keeps_takeFree)
    | split | refine keeps_snd (by with_reducible assumption) ?_

theorem keeps_eccBad {x1} (h : Keeps s₀ s) : Keeps s₀ (eccBad x1 s) := by
  unfold eccBad
  repeat' first
    | (with_reducible first | assumption | apply keeps_ite | apply keeps_stickyRaise | apply keeps_errInc | apply keeps_eccOffset
                            | apply keeps_setReg | apply keeps_takeFree | apply keeps_logPut | apply keeps_faultEnter)
    | (extract_lets +onlyGivenNames x; first
        | (refine keeps_use (s₀ := s₀) x ?_ (fun hx => ?_); rotate_left; clear_value x; rotate_left; subst x) | clear_value x)
    | split | refine keeps_snd (by with_reducible assumption) ?_

theorem keeps_eccWords {l} (h : Keeps s₀ s) : Keeps s₀ (eccWords l s).2 := by
  induction l generalizing s with
  | nil => exact h
  | cons w r ih =>
    unfold eccWords
    repeat' first
      | with_reducible assumption | intro _
      | (with_reducible first | apply keeps_ite | apply keeps_eccFix | apply keeps_eccBad | apply ih | apply keeps_foldl
                              | apply keeps_getD)
      | (extract_lets +onlyGivenNames x; first
          | (refine keeps_use (s₀ := s₀) x ?_ (fun hx => ?_); rotate_left; clear_value x; rotate_left; subst x) | clear_value x)
      | split | refine keeps_snd (by with_reducible assumption) ?_ | refine keeps_some (by with_reducible assumption) ?_
      | with_reducible apply keeps_mk

theorem keeps_eccRead {x1 x2} (h : Keeps s₀ s) : Keeps s₀ (eccRead x1 x2 s).2 := by
  unfold eccRead
  repeat' first
    | with_reducible assumption | intro _
    | (with_reducible first | apply keeps_ite | apply keeps_eccWords)
    | split | refine keeps_snd (by with_reducible assumption) ?_

theorem keeps_eccClean {x1 x2} (h : Keeps s₀ s) : Keeps s₀ (eccClean x1 x2 s) := by
  unfold eccClean
  repeat' first
    | with_reducible assumption | intro _
    | (with_reducible first | apply keeps_ite)
    | split | with_reducible apply keeps_mk

theorem keeps_fifoEcc {x1 x2} (h : Keeps s₀ s) : Keeps s₀ (fifoEcc x1 x2 s).2 := by
  unfold fifoEcc
  repeat' first
    | with_reducible assumption | intro _
    | (with_reducible first | apply keeps_ite | apply keeps_eccFix | apply keeps_setFifo | apply keeps_eccBad | apply keeps_foldl
                            | apply keeps_foldlP)
    | split | with_reducible apply keeps_mk

theorem keeps_eccChain {x1} (h : Keeps s₀ s) : Keeps s₀ (eccChain x1 s).2 := by
  unfold eccChain
  repeat' first
    | (with_reducible first | assumption | apply keeps_ite | apply keeps_eccRead)
    | (extract_lets +onlyGivenNames x; first
        | (refine keeps_use (s₀ := s₀) x ?_ (fun hx => ?_); rotate_left; clear_value x; rotate_left; subst x) | clear_value x)
    | split | refine keeps_snd (by with_reducible assumption) ?_

theorem keeps_gateEnter {x1} (h : Keeps s₀ s) : Keeps s₀ (gateEnter x1 s).2 := by
  unfold gateEnter
  repeat' first
    | (with_reducible first | assumption | apply keeps_eccChain | apply keeps_releaseRef)
    | (extract_lets +onlyGivenNames x; first
        | (refine keeps_use (s₀ := s₀) x ?_ (fun hx => ?_); rotate_left; clear_value x; rotate_left; subst x) | clear_value x)
    | split | refine keeps_snd (by with_reducible assumption) ?_ | with_reducible apply keeps_mk

theorem keeps_gateFill {m k} (h : Keeps s₀ s) : Keeps s₀ (gateFill m k s) := by
  induction k generalizing s with
  | zero => exact h
  | succ k ih =>
    unfold gateFill
    repeat' first
      | with_reducible assumption | intro _
      | (with_reducible first | apply keeps_ite | apply keeps_setTxQ | apply keeps_gateEnter | apply ih | apply keeps_foldl
                              | apply keeps_getD)
      | (extract_lets +onlyGivenNames x; first
          | (refine keeps_use (s₀ := s₀) x ?_ (fun hx => ?_); rotate_left; clear_value x; rotate_left; subst x) | clear_value x)
      | split | refine keeps_snd (by with_reducible assumption) ?_ | refine keeps_some (by with_reducible assumption) ?_
      | with_reducible apply keeps_mk

theorem keeps_gatesFill (h : Keeps s₀ s) : Keeps s₀ (gatesFill s) := by
  unfold gatesFill
  repeat' first
    | with_reducible assumption | intro _
    | (with_reducible first | apply keeps_gateFill | apply keeps_foldl)

end Sys2Proof.Machine
end

