-- ==== Sys2Proof/Laws/KeepsSwitch.lean ====
section
/-!
SUPPORT. What the operations of the switch, the ports and the CAN controllers keep (`Keeps`).
-/
namespace Sys2Proof.Machine

variable {s₀ s : State}

/-! ### Listener -/

theorem keeps_setSlice {x1 x2} (h : Keeps s₀ s) : Keeps s₀ (setSlice s x1 x2) := by
  unfold setSlice
  repeat' first
    | with_reducible assumption | intro _

    | with_reducible apply keeps_mk

theorem keeps_setQueue {x1 x2} (h : Keeps s₀ s) : Keeps s₀ (setQueue s x1 x2) := by
  unfold setQueue
  repeat' first
    | with_reducible assumption | intro _

    | with_reducible apply keeps_mk

theorem keeps_setParser {x1 x2} (h : Keeps s₀ s) : Keeps s₀ (setParser s x1 x2) := by
  unfold setParser
  repeat' first
    | with_reducible assumption | intro _

    | with_reducible apply keeps_mk

theorem keeps_qFlags {x1 x2 x3} (h : Keeps s₀ s) : Keeps s₀ (qFlags x1 x2 x3 s) := by
  unfold qFlags
  repeat' first
    | with_reducible assumption | intro _
    | (with_reducible first | apply keeps_ite | apply keeps_setBit | apply keeps_raise | apply keeps_foldl)
    | (extract_lets +onlyGivenNames x; first
        | (refine keeps_use (s₀ := s₀) x ?_ (fun hx => ?_); rotate_left; clear_value x; rotate_left; subst x) | clear_value x)
    | split

theorem keeps_qFlag {x1 x2} (h : Keeps s₀ s) : Keeps s₀ (qFlag x1 x2 s) := by
  unfold qFlag
  repeat' first
    | (with_reducible first | assumption | apply keeps_stickyEn)
    | split

theorem keeps_qNote {ps u} (h : Keeps s₀ s) : Keeps s₀ (qNote ps u s) := by
  unfold qNote
  repeat' first
    | with_reducible assumption | intro _
    | (with_reducible first | apply keeps_ite | apply keeps_raise | apply keeps_foldl | apply keeps_getD)
    | (extract_lets +onlyGivenNames x; first
        | (refine keeps_use (s₀ := s₀) x ?_ (fun hx => ?_); rotate_left; clear_value x; rotate_left; subst x) | clear_value x)
    | split | refine keeps_snd (by with_reducible assumption) ?_ | refine keeps_some (by with_reducible assumption) ?_
    | with_reducible apply keeps_mk

theorem keeps_bumpStale {x1} (h : Keeps s₀ s) : Keeps s₀ (bumpStale x1 s) := by
  unfold bumpStale
  repeat' first
    | (with_reducible first | assumption | apply keeps_setBit | apply keeps_errInc)

theorem keeps_bumpTailDrop {x1} (h : Keeps s₀ s) : Keeps s₀ (bumpTailDrop x1 s) := by
  unfold bumpTailDrop
  repeat' first
    | (with_reducible first | assumption | apply keeps_setBit | apply keeps_errInc)

theorem keeps_bumpPushout {x1} (h : Keeps s₀ s) : Keeps s₀ (bumpPushout x1 s) := by
  unfold bumpPushout
  repeat' first
    | (with_reducible first | assumption | apply keeps_setBit | apply keeps_errInc)

theorem keeps_countStale {x1} (h : Keeps s₀ s) : Keeps s₀ (countStale x1 s) := by
  unfold countStale
  repeat' first
    | (with_reducible first | assumption | apply keeps_qNote | apply keeps_bumpStale)

theorem keeps_countTailDrop {x1} (h : Keeps s₀ s) : Keeps s₀ (countTailDrop x1 s) := by
  unfold countTailDrop
  repeat' first
    | (with_reducible first | assumption | apply keeps_qNote | apply keeps_bumpTailDrop)

theorem keeps_sweepForget {x1 x2} (h : Keeps s₀ s) : Keeps s₀ (sweepForget x1 x2 s) := by
  unfold sweepForget
  repeat' first
    | (with_reducible first | assumption | apply keeps_ite)
    | split | with_reducible apply keeps_mk

theorem keeps_qRemove {x1 x2} (h : Keeps s₀ s) : Keeps s₀ (qRemove x1 x2 s) := by
  unfold qRemove
  repeat' first
    | with_reducible assumption | intro _
    | (with_reducible first | apply keeps_sweepForget | apply keeps_releaseRef | apply keeps_setQueue)
    | (extract_lets +onlyGivenNames x; first
        | (refine keeps_use (s₀ := s₀) x ?_ (fun hx => ?_); rotate_left; clear_value x; rotate_left; subst x) | clear_value x)
    | with_reducible apply keeps_mk

theorem keeps_queueAdmit {x1 x2 x3} (h : Keeps s₀ s) : Keeps s₀ (queueAdmit x1 x2 x3 s) := by
  unfold queueAdmit
  repeat' first
    | with_reducible assumption | intro _
    | (with_reducible first | apply keeps_ite | apply keeps_bumpStale | apply keeps_bumpTailDrop | apply keeps_bumpPushout
                            | apply keeps_qRemove | apply keeps_addRef | apply keeps_sweepForget | apply keeps_releaseRef
                            | apply keeps_trafInc | apply keeps_setQueue | apply keeps_foldl)
    | (extract_lets +onlyGivenNames x; first
        | (refine keeps_use (s₀ := s₀) x ?_ (fun hx => ?_); rotate_left; clear_value x; rotate_left; subst x) | clear_value x)
    | split | with_reducible apply keeps_mk

theorem keeps_selectFresh {n k} (h : Keeps s₀ s) : Keeps s₀ (selectFresh n k s).2 := by
  induction k generalizing s with
  | zero => exact h
  | succ k ih =>
    unfold selectFresh
    repeat' first
      | with_reducible assumption | intro _
      | (with_reducible first | apply keeps_ite | apply keeps_countStale | apply keeps_qRemove | apply keeps_eccChain
                              | apply keeps_countTailDrop | apply ih | apply keeps_foldl | apply keeps_getD)
      | (extract_lets +onlyGivenNames x; first
          | (refine keeps_use (s₀ := s₀) x ?_ (fun hx => ?_); rotate_left; clear_value x; rotate_left; subst x) | clear_value x)
      | split | refine keeps_snd (by with_reducible assumption) ?_ | refine keeps_some (by with_reducible assumption) ?_
      | with_reducible apply keeps_mk

theorem keeps_flushUnstarted {x1} (h : Keeps s₀ s) : Keeps s₀ (flushUnstarted x1 s) := by
  unfold flushUnstarted
  repeat' first
    | with_reducible assumption | intro _
    | (with_reducible first | apply keeps_countTailDrop | apply keeps_qRemove | apply keeps_foldl)

theorem keeps_cutForget {x1 x2} (h : Keeps s₀ s) : Keeps s₀ (cutForget x1 x2 s) := by
  unfold cutForget
  repeat' first
    | (with_reducible first | assumption | apply keeps_setParser)
    | split | with_reducible apply keeps_mk

theorem keeps_dropStarted {x1} (h : Keeps s₀ s) : Keeps s₀ (dropStarted x1 s) := by
  unfold dropStarted
  repeat' first
    | with_reducible assumption | intro _
    | (with_reducible first | apply keeps_cutForget | apply keeps_countTailDrop | apply keeps_releaseRef | apply keeps_setQueue
                            | apply keeps_foldl)
    | (extract_lets +onlyGivenNames x; first
        | (refine keeps_use (s₀ := s₀) x ?_ (fun hx => ?_); rotate_left; clear_value x; rotate_left; subst x) | clear_value x)
    | split | with_reducible apply keeps_mk

theorem keeps_flushQueue {x1} (h : Keeps s₀ s) : Keeps s₀ (flushQueue x1 s) := by
  unfold flushQueue
  repeat' first
    | (with_reducible first | assumption | apply keeps_flushUnstarted | apply keeps_dropStarted)

theorem keeps_sweepTests {k w} (h : Keeps s₀ s) : Keeps s₀ (sweepTests k w s).2 := by
  induction k generalizing s w with
  | zero => exact h
  | succ k ih =>
    unfold sweepTests
    repeat' first
      | with_reducible assumption | intro _
      | (with_reducible first | apply keeps_ite | apply keeps_countStale | apply keeps_qRemove | apply ih | apply keeps_foldl
                              | apply keeps_getD)
      | (extract_lets +onlyGivenNames x; first
          | (refine keeps_use (s₀ := s₀) x ?_ (fun hx => ?_); rotate_left; clear_value x; rotate_left; subst x) | clear_value x)
      | split | refine keeps_snd (by with_reducible assumption) ?_ | refine keeps_some (by with_reducible assumption) ?_
      | with_reducible apply keeps_mk

theorem keeps_dirBegin {x1} (h : Keeps s₀ s) : Keeps s₀ (dirBegin x1 s) := by
  unfold dirBegin
  repeat' first
    | (with_reducible first | assumption | apply keeps_ite | apply keeps_setSlice | apply keeps_setBit)
    | split | with_reducible apply keeps_mk

theorem keeps_fog {x1 x2} (h : Keeps s₀ s) : Keeps s₀ (fog x1 x2 s) := by
  unfold fog
  repeat' first
    | (with_reducible first | assumption | apply keeps_setQueue | apply keeps_errInc | apply keeps_setBit)
    | (extract_lets +onlyGivenNames x; first
        | (refine keeps_use (s₀ := s₀) x ?_ (fun hx => ?_); rotate_left; clear_value x; rotate_left; subst x) | clear_value x)
    | split | with_reducible apply keeps_mk

theorem keeps_rechargeCut {x1 x2 x3} (h : Keeps s₀ s) : Keeps s₀ (rechargeCut x1 x2 x3 s) := by
  unfold rechargeCut
  repeat' first
    | with_reducible assumption | intro _
    | (with_reducible first | apply keeps_ite | apply keeps_setQueue)
    | (extract_lets +onlyGivenNames x; first
        | (refine keeps_use (s₀ := s₀) x ?_ (fun hx => ?_); rotate_left; clear_value x; rotate_left; subst x) | clear_value x)
    | split | with_reducible apply keeps_mk

theorem keeps_engAdmit {x1 x2 x3} (h : Keeps s₀ s) : Keeps s₀ (engAdmit x1 x2 x3 s) := by
  unfold engAdmit
  repeat' first
    | with_reducible assumption | intro _
    | (with_reducible first | apply keeps_ite | apply keeps_stickyEn | apply keeps_errInc | apply keeps_addRef)
    | (extract_lets +onlyGivenNames x; first
        | (refine keeps_use (s₀ := s₀) x ?_ (fun hx => ?_); rotate_left; clear_value x; rotate_left; subst x) | clear_value x)
    | split | with_reducible apply keeps_mk


/-! ### Routing -/

theorem keeps_tblPut {x1 x2 x3 x4} (h : Keeps s₀ s) : Keeps s₀ (tblPut s x1 x2 x3 x4) := by
  unfold tblPut
  repeat' first
    | with_reducible assumption | intro _
    | (with_reducible first | apply keeps_ite)
    | (extract_lets +onlyGivenNames x; first
        | (refine keeps_use (s₀ := s₀) x ?_ (fun hx => ?_); rotate_left; clear_value x; rotate_left; subst x) | clear_value x)
    | split | with_reducible apply keeps_mk

theorem keeps_tblReplace {x1 x2 x3 x4 x5} (h : Keeps s₀ s) : Keeps s₀ (tblReplace x1 x2 x3 x4 x5 s) := by
  unfold tblReplace
  repeat' first
    | with_reducible assumption | intro _
    | (with_reducible first | apply keeps_ite | apply keeps_tblPut | apply keeps_foldl)
    | (extract_lets +onlyGivenNames x; first
        | (refine keeps_use (s₀ := s₀) x ?_ (fun hx => ?_); rotate_left; clear_value x; rotate_left; subst x) | clear_value x)
    | split

theorem keeps_copyBanks (h : Keeps s₀ s) : Keeps s₀ (copyBanks s) := by
  unfold copyBanks
  repeat' first
    | with_reducible assumption | intro _
    | (with_reducible first | apply keeps_ite)
    | (extract_lets +onlyGivenNames x; first
        | (refine keeps_use (s₀ := s₀) x ?_ (fun hx => ?_); rotate_left; clear_value x; rotate_left; subst x) | clear_value x)
    | split | with_reducible apply keeps_mk

theorem keeps_parRead {x1 x2 x3} (h : Keeps s₀ s) : Keeps s₀ (parRead x1 x2 x3 s) := by
  unfold parRead
  repeat' first
    | with_reducible assumption | intro _
    | (with_reducible first | apply keeps_ite | apply keeps_stickyRaise | apply keeps_errInc | apply keeps_setReg | apply keeps_foldl)
    | (extract_lets +onlyGivenNames x; first
        | (refine keeps_use (s₀ := s₀) x ?_ (fun hx => ?_); rotate_left; clear_value x; rotate_left; subst x) | clear_value x)
    | split | with_reducible apply keeps_mk

theorem keeps_rtdRead {x1} (h : Keeps s₀ s) : Keeps s₀ (rtdRead x1 s).2 := by
  unfold rtdRead
  repeat' first
    | (with_reducible first | assumption | apply keeps_ite | apply keeps_eccRead | apply keeps_takeFree)
    | (extract_lets +onlyGivenNames x; first
        | (refine keeps_use (s₀ := s₀) x ?_ (fun hx => ?_); rotate_left; clear_value x; rotate_left; subst x) | clear_value x)
    | split | refine keeps_snd (by with_reducible assumption) ?_

theorem keeps_rtdPut {x1 x2} (h : Keeps s₀ s) : Keeps s₀ (rtdPut x1 x2 s) := by
  unfold rtdPut
  repeat' first
    | (with_reducible first | assumption | apply keeps_setReg | apply keeps_eccClean)

theorem keeps_decimate {x1 x2} (h : Keeps s₀ s) : Keeps s₀ (decimate x1 x2 s).2 := by
  unfold decimate
  dsimp only
  repeat' first
    | with_reducible assumption | intro _
    | (with_reducible first | apply keeps_ite | apply keeps_rtdRead | apply keeps_rtdPut)
    | (extract_lets +onlyGivenNames x; first
        | (refine keeps_use (s₀ := s₀) x ?_ (fun hx => ?_); rotate_left; clear_value x; rotate_left; subst x) | clear_value x)
    | split | refine keeps_snd (by with_reducible assumption) ?_

theorem keeps_decimateAll {x l} (h : Keeps s₀ s) : Keeps s₀ (decimateAll x l s).2 := by
  induction l generalizing s with
  | nil => exact h
  | cons a r ih =>
    unfold decimateAll
    repeat' first
      | with_reducible assumption | intro _
      | (with_reducible first | apply keeps_ite | apply keeps_decimate | apply keeps_trafInc | apply ih | apply keeps_foldl
                              | apply keeps_getD)
      | (extract_lets +onlyGivenNames x; first
          | (refine keeps_use (s₀ := s₀) x ?_ (fun hx => ?_); rotate_left; clear_value x; rotate_left; subst x) | clear_value x)
      | split | refine keeps_snd (by with_reducible assumption) ?_ | refine keeps_some (by with_reducible assumption) ?_
      | with_reducible apply keeps_mk

theorem keeps_originateSent {c d b e} (h : Keeps s₀ s) : Keeps s₀ (originateSent c d b e s) := by
  unfold originateSent
  split
  · exact h
  · exact keeps_originate (keeps_iter h fun _ h => keeps_addRef h)

theorem keeps_toListeners {x1 x2 x3 x4} (h : Keeps s₀ s) : Keeps s₀ (toListeners x1 x2 x3 x4 s) := by
  unfold toListeners
  repeat' first
    | with_reducible assumption | intro _
    | (with_reducible first | apply keeps_ite | apply keeps_qNote | apply keeps_errInc | apply keeps_queueAdmit | apply keeps_foldl)
    | (extract_lets +onlyGivenNames x; first
        | (refine keeps_use (s₀ := s₀) x ?_ (fun hx => ?_); rotate_left; clear_value x; rotate_left; subst x) | clear_value x)
    | split

theorem keeps_toConsumers {x1 x2 x3 x4} (h : Keeps s₀ s) : Keeps s₀ (toConsumers x1 x2 x3 x4 s) := by
  unfold toConsumers
  repeat' first
    | with_reducible assumption | intro _
    | (with_reducible first | apply keeps_ite | apply keeps_toListeners | apply keeps_originateSent | apply keeps_engAdmit
                            | apply keeps_eccChain | apply keeps_hmbOut | apply keeps_addRef | apply keeps_canSentAdmit
                            | apply keeps_gatesFill | apply keeps_foldl)
    | (extract_lets +onlyGivenNames x; first
        | (refine keeps_use (s₀ := s₀) x ?_ (fun hx => ?_); rotate_left; clear_value x; rotate_left; subst x) | clear_value x)
    | split | refine keeps_snd (by with_reducible assumption) ?_

theorem keeps_settle {x1} (h : Keeps s₀ s) : Keeps s₀ (settle x1 s) := by
  unfold settle
  repeat' first
    | (with_reducible first | assumption | apply keeps_freeChain)
    | split

theorem keeps_countUnmatched {x1 x2} (h : Keeps s₀ s) : Keeps s₀ (countUnmatched x1 x2 s) := by
  unfold countUnmatched
  repeat' first
    | (with_reducible first | assumption | apply keeps_ite | apply keeps_trafInc | apply keeps_raise)
    | (extract_lets +onlyGivenNames x; first
        | (refine keeps_use (s₀ := s₀) x ?_ (fun hx => ?_); rotate_left; clear_value x; rotate_left; subst x) | clear_value x)
    | split

theorem keeps_countHits {x1} (h : Keeps s₀ s) : Keeps s₀ (countHits x1 s) := by
  unfold countHits
  repeat' first
    | with_reducible assumption | intro _
    | (with_reducible first | apply keeps_tblPut | apply keeps_foldl)

theorem keeps_routeDecide {x1 x2} (h : Keeps s₀ s) : Keeps s₀ (routeDecide x1 x2 s).2.2 := by
  unfold routeDecide
  repeat' first
    | with_reducible assumption | intro _
    | (with_reducible first | apply keeps_ite | apply keeps_parRead | apply keeps_countHits | apply keeps_decimateAll
                            | apply keeps_trafInc | apply keeps_foldl | apply keeps_foldlP)
    | (extract_lets +onlyGivenNames x; first
        | (refine keeps_use (s₀ := s₀) x ?_ (fun hx => ?_); rotate_left; clear_value x; rotate_left; subst x) | clear_value x)
    | split | refine keeps_snd (by with_reducible assumption) ?_


/-! ### Parser -/

theorem keeps_rejCount {x1 x2} (h : Keeps s₀ s) : Keeps s₀ (rejCount x1 x2 s) := by
  unfold rejCount
  repeat' first
    | (with_reducible first | assumption | apply keeps_ite | apply keeps_setBit | apply keeps_errInc)
    | split

theorem keeps_rejNote {n u} (h : Keeps s₀ s) : Keeps s₀ (rejNote n u s) := by
  unfold rejNote
  repeat' first
    | with_reducible assumption | intro _
    | (with_reducible first | apply keeps_ite | apply keeps_raise | apply keeps_foldl | apply keeps_getD)
    | (extract_lets +onlyGivenNames x; first
        | (refine keeps_use (s₀ := s₀) x ?_ (fun hx => ?_); rotate_left; clear_value x; rotate_left; subst x) | clear_value x)
    | split | refine keeps_snd (by with_reducible assumption) ?_ | refine keeps_some (by with_reducible assumption) ?_
    | with_reducible apply keeps_mk

theorem keeps_dropUnit {x1} (h : Keeps s₀ s) : Keeps s₀ (dropUnit x1 s) := by
  unfold dropUnit
  repeat' first
    | with_reducible assumption | intro _
    | (with_reducible first | apply keeps_freeChain | apply keeps_setCellSt | apply keeps_qNote | apply keeps_fog | apply keeps_foldl)
    | (extract_lets +onlyGivenNames x; first
        | (refine keeps_use (s₀ := s₀) x ?_ (fun hx => ?_); rotate_left; clear_value x; rotate_left; subst x) | clear_value x)
    | split

theorem keeps_rejectUnit {x1 x2 x3} (h : Keeps s₀ s) : Keeps s₀ (rejectUnit x1 x2 x3 s) := by
  unfold rejectUnit
  repeat' first
    | (with_reducible first | assumption | apply keeps_dropUnit | apply keeps_rejCount | apply keeps_setParser)
    | (extract_lets +onlyGivenNames x; first
        | (refine keeps_use (s₀ := s₀) x ?_ (fun hx => ?_); rotate_left; clear_value x; rotate_left; subst x) | clear_value x)
    | split | with_reducible apply keeps_mk

theorem keeps_openUnit {x1 x2 x3 x4} (h : Keeps s₀ s) : Keeps s₀ (openUnit x1 x2 x3 x4 s).2 := by
  unfold openUnit
  repeat' first
    | (with_reducible first | assumption | apply keeps_ite | apply keeps_rejCount | apply keeps_setParser | apply keeps_allocFirstBut
                            | apply keeps_memPut | apply keeps_memPutNat)
    | (extract_lets +onlyGivenNames x; first
        | (refine keeps_use (s₀ := s₀) x ?_ (fun hx => ?_); rotate_left; clear_value x; rotate_left; subst x) | clear_value x)
    | split | refine keeps_snd (by with_reducible assumption) ?_ | with_reducible apply keeps_mk

theorem keeps_cutStart {x1 x2 x3 x4 x5} (h : Keeps s₀ s) : Keeps s₀ (cutStart x1 x2 x3 x4 x5 s) := by
  unfold cutStart
  repeat' first
    | (with_reducible first | assumption | apply keeps_ite | apply keeps_setQueue | apply keeps_dirBegin | apply keeps_trafInc
                            | apply keeps_addRef)
    | (extract_lets +onlyGivenNames x; first
        | (refine keeps_use (s₀ := s₀) x ?_ (fun hx => ?_); rotate_left; clear_value x; rotate_left; subst x) | clear_value x)
    | split | with_reducible apply keeps_mk

theorem keeps_cutMoment {n cap p} {us : UnitSt × State} (h : Keeps s₀ us.2) : Keeps s₀ (cutMoment n cap p us).2 := by
  obtain ⟨u, s⟩ := us
  unfold cutMoment
  dsimp only at h ⊢
  split
  · exact h
  split
  · exact keeps_cutStart h
  · exact h

theorem keeps_cutScan {n u0 u} (h : Keeps s₀ s) : Keeps s₀ (cutScan n u0 u s).2 := by
  unfold cutScan
  split
  · exact h
  · refine keeps_foldlP h fun x p hx => ?_
    dsimp only
    split
    · exact keeps_cutMoment hx
    · exact hx

theorem keeps_cutRethresh {p old n} (h : Keeps s₀ s) : Keeps s₀ (cutRethresh p old n s) := by
  unfold cutRethresh
  split
  · exact h
  split
  · exact h
  split
  · exact h
  split
  rename_i v t heq
  refine keeps_setParser (keeps_snd heq ?_)
  split
  · exact keeps_foldlP h fun x e hx => keeps_cutMoment hx
  · exact h

theorem keeps_cutRescan {x1 x2} (h : Keeps s₀ s) : Keeps s₀ (cutRescan x1 x2 s) := by
  unfold cutRescan
  repeat' first
    | with_reducible assumption | intro _
    | (with_reducible first | apply keeps_cutRethresh | apply keeps_foldl)

theorem keeps_storeChar {x1 x2 x3} (h : Keeps s₀ s) : Keeps s₀ (storeChar x1 x2 x3 s).2 := by
  unfold storeChar
  repeat' first
    | with_reducible assumption | intro _
    | (with_reducible first | apply keeps_ite | apply keeps_allocPair | apply keeps_rechargeCut | apply keeps_memPut | apply keeps_foldl
                            | apply keeps_foldlP)
    | (extract_lets +onlyGivenNames x; first
        | (refine keeps_use (s₀ := s₀) x ?_ (fun hx => ?_); rotate_left; clear_value x; rotate_left; subst x) | clear_value x)
    | split | refine keeps_snd (by with_reducible assumption) ?_ | with_reducible apply keeps_mk

theorem keeps_markCommitted {x1} (h : Keeps s₀ s) : Keeps s₀ (markCommitted x1 s) := by
  unfold markCommitted
  repeat' first
    | (with_reducible first | assumption | apply keeps_setCellSt)
    | split

theorem keeps_cutCommit {x1 x2} (h : Keeps s₀ s) : Keeps s₀ (cutCommit x1 x2 s) := by
  unfold cutCommit
  repeat' first
    | with_reducible assumption | intro _
    | (with_reducible first | apply keeps_setQueue | apply keeps_rechargeCut | apply keeps_foldl)
    | (extract_lets +onlyGivenNames x; first
        | (refine keeps_use (s₀ := s₀) x ?_ (fun hx => ?_); rotate_left; clear_value x; rotate_left; subst x) | clear_value x)
    | split | with_reducible apply keeps_mk

theorem keeps_commitRouted {x1 x2 x3 x4 x5 x6 x7 x8} (h : Keeps s₀ s) : Keeps s₀ (commitRouted x1 x2 x3 x4 x5 x6 x7 x8 s) := by
  unfold commitRouted
  repeat' first
    | (with_reducible first | assumption | apply keeps_routeDecide | apply keeps_writeHdrRest | apply keeps_markCommitted
                            | apply keeps_countUnmatched | apply keeps_settle | apply keeps_toConsumers)
    | (extract_lets +onlyGivenNames x; first
        | (refine keeps_use (s₀ := s₀) x ?_ (fun hx => ?_); rotate_left; clear_value x; rotate_left; subst x) | clear_value x)
    | split | refine keeps_thd (by with_reducible assumption) ?_ | with_reducible apply keeps_mk

theorem keeps_commitUnit {x1 x2 x3 x4} (h : Keeps s₀ s) : Keeps s₀ (commitUnit x1 x2 x3 x4 s) := by
  unfold commitUnit
  repeat' first
    | with_reducible assumption | intro _
    | (with_reducible first | apply keeps_ite | apply keeps_setCellSt | apply keeps_cutCommit | apply keeps_takeSeq | apply keeps_memPut
                            | apply keeps_trafInc | apply keeps_commitRouted | apply keeps_foldl)
    | (extract_lets +onlyGivenNames x; first
        | (refine keeps_use (s₀ := s₀) x ?_ (fun hx => ?_); rotate_left; clear_value x; rotate_left; subst x) | clear_value x)
    | split | refine keeps_snd (by with_reducible assumption) ?_

theorem keeps_idleChar {x1 x2 x3 x4} (h : Keeps s₀ s) : Keeps s₀ (idleChar x1 x2 x3 x4 s).2 := by
  unfold idleChar
  repeat' first
    | (with_reducible first | assumption | apply keeps_ite | apply keeps_setParser | apply keeps_openUnit)
    | (extract_lets +onlyGivenNames x; first
        | (refine keeps_use (s₀ := s₀) x ?_ (fun hx => ?_); rotate_left; clear_value x; rotate_left; subst x) | clear_value x)
    | split | refine keeps_snd (by with_reducible assumption) ?_ | with_reducible apply keeps_mk

theorem keeps_unitGoesOn {x1 x2 x3} (h : Keeps s₀ s) : Keeps s₀ (unitGoesOn x1 x2 x3 s) := by
  unfold unitGoesOn
  repeat' first
    | (with_reducible first | assumption | apply keeps_ite | apply keeps_cutScan | apply keeps_setParser)
    | (extract_lets +onlyGivenNames x; first
        | (refine keeps_use (s₀ := s₀) x ?_ (fun hx => ?_); rotate_left; clear_value x; rotate_left; subst x) | clear_value x)
    | split | refine keeps_snd (by with_reducible assumption) ?_ | with_reducible apply keeps_mk

theorem keeps_parseChar {x1 x2 x3 x4} (h : Keeps s₀ s) : Keeps s₀ (parseChar x1 x2 x3 x4 s).2 := by
  unfold parseChar
  dsimp only
  repeat' first
    | with_reducible assumption | intro _
    | (with_reducible first | apply keeps_ite | apply keeps_idleChar | apply keeps_rejectUnit | apply keeps_storeChar
                            | apply keeps_unitGoesOn | apply keeps_commitUnit | apply keeps_setParser)
    | (extract_lets +onlyGivenNames x; first
        | (refine keeps_use (s₀ := s₀) x ?_ (fun hx => ?_); rotate_left; clear_value x; rotate_left; subst x) | clear_value x)
    | split | refine keeps_snd (by with_reducible assumption) ?_ | with_reducible apply keeps_mk

theorem keeps_parseItem {x1 x2 x3} (h : Keeps s₀ s) : Keeps s₀ (parseItem x1 x2 x3 s) := by
  unfold parseItem
  repeat' first
    | (with_reducible first | assumption | apply keeps_ite | apply keeps_rejectUnit | apply keeps_rejNote | apply keeps_parseChar)
    | (extract_lets +onlyGivenNames x; first
        | (refine keeps_use (s₀ := s₀) x ?_ (fun hx => ?_); rotate_left; clear_value x; rotate_left; subst x) | clear_value x)
    | split | refine keeps_snd (by with_reducible assumption) ?_

theorem keeps_parserStop {x1} (h : Keeps s₀ s) : Keeps s₀ (parserStop x1 s) := by
  unfold parserStop
  repeat' first
    | (with_reducible first | assumption | apply keeps_rejNote | apply keeps_rejectUnit | apply keeps_setParser)
    | split | with_reducible apply keeps_mk


/-! ### Tunnel -/

theorem keeps_tunToPort {x1 x2 x3 x4 x5 x6} (h : Keeps s₀ s) : Keeps s₀ (tunToPort x1 x2 x3 x4 x5 x6 s) := by
  unfold tunToPort
  repeat' first
    | (with_reducible first | assumption | apply keeps_ite | apply keeps_errInc | apply keeps_allocChain | apply keeps_writeText
                            | apply keeps_writeHdr | apply keeps_markCommitted | apply keeps_settle | apply keeps_qNote
                            | apply keeps_queueAdmit)
    | (extract_lets +onlyGivenNames x; first
        | (refine keeps_use (s₀ := s₀) x ?_ (fun hx => ?_); rotate_left; clear_value x; rotate_left; subst x) | clear_value x)
    | split | refine keeps_snd (by with_reducible assumption) ?_

theorem keeps_tunDeliver {x1 x2 x3 x4 x5 x6 x7} (h : Keeps s₀ s) : Keeps s₀ (tunDeliver x1 x2 x3 x4 x5 x6 x7 s) := by
  unfold tunDeliver
  repeat' first
    | (with_reducible first | assumption | apply keeps_ite | apply keeps_tunToPort | apply keeps_hmbOut | apply keeps_emqPut
                            | apply keeps_canRecPut)
    | split | refine keeps_snd (by with_reducible assumption) ?_

theorem keeps_tunSend {x1 x2 x3 x4 x5 x6 x7 x8} (h : Keeps s₀ s) : Keeps s₀ (tunSend x1 x2 x3 x4 x5 x6 x7 x8 s) := by
  unfold tunSend
  repeat' first
    | (with_reducible first | assumption | apply keeps_ite | apply keeps_tunDeliver | apply keeps_originate)
    | split


/-! ### Raw -/

theorem keeps_setRaw {x1 x2} (h : Keeps s₀ s) : Keeps s₀ (setRaw s x1 x2) := by
  unfold setRaw
  repeat' first
    | with_reducible assumption | intro _

    | with_reducible apply keeps_mk

theorem keeps_rawFlag {x1 x2} (h : Keeps s₀ s) : Keeps s₀ (rawFlag x1 x2 s) := by
  unfold rawFlag
  repeat' first
    | (with_reducible first | assumption | apply keeps_ite | apply keeps_setBit | apply keeps_raise)
    | (extract_lets +onlyGivenNames x; first
        | (refine keeps_use (s₀ := s₀) x ?_ (fun hx => ?_); rotate_left; clear_value x; rotate_left; subst x) | clear_value x)
    | split

theorem keeps_rawNext {x1} (h : Keeps s₀ s) : Keeps s₀ (rawNext x1 s) := by
  unfold rawNext
  repeat' first
    | (with_reducible first | assumption | apply keeps_setReg)
    | (extract_lets +onlyGivenNames x; first
        | (refine keeps_use (s₀ := s₀) x ?_ (fun hx => ?_); rotate_left; clear_value x; rotate_left; subst x) | clear_value x)

theorem keeps_rawClose {x1 x2 x3 x4} (h : Keeps s₀ s) : Keeps s₀ (rawClose x1 x2 x3 x4 s) := by
  unfold rawClose
  repeat' first
    | (with_reducible first | assumption | apply keeps_ite | apply keeps_trafInc | apply keeps_setReg | apply keeps_setRaw
                            | apply keeps_tunSend | apply keeps_memPutNat | apply keeps_rawNext | apply keeps_rawFlag)
    | (extract_lets +onlyGivenNames x; first
        | (refine keeps_use (s₀ := s₀) x ?_ (fun hx => ?_); rotate_left; clear_value x; rotate_left; subst x) | clear_value x)
    | split

theorem keeps_rawTake {n k} (h : Keeps s₀ s) : Keeps s₀ (rawTake n k s).2 := by
  induction k generalizing s with
  | zero => exact h
  | succ k ih =>
    unfold rawTake
    repeat' first
      | with_reducible assumption | intro _
      | (with_reducible first | apply keeps_ite | apply keeps_eccRead | apply keeps_memPutNat | apply keeps_rawFlag | apply keeps_rawNext
                              | apply ih | apply keeps_foldl | apply keeps_getD)
      | (extract_lets +onlyGivenNames x; first
          | (refine keeps_use (s₀ := s₀) x ?_ (fun hx => ?_); rotate_left; clear_value x; rotate_left; subst x) | clear_value x)
      | split | refine keeps_snd (by with_reducible assumption) ?_ | refine keeps_some (by with_reducible assumption) ?_
      | with_reducible apply keeps_mk

theorem keeps_rawPlace {x1 x2 x3 x4} (h : Keeps s₀ s) : Keeps s₀ (rawPlace x1 x2 x3 x4 s) := by
  unfold rawPlace
  repeat' first
    | (with_reducible first | assumption | apply keeps_ite | apply keeps_memWrite | apply keeps_setFld | apply keeps_setRaw
                            | apply keeps_rawClose)
    | (extract_lets +onlyGivenNames x; first
        | (refine keeps_use (s₀ := s₀) x ?_ (fun hx => ?_); rotate_left; clear_value x; rotate_left; subst x) | clear_value x)
    | split | with_reducible apply keeps_mk

theorem keeps_rawDrop {x1} (h : Keeps s₀ s) : Keeps s₀ (rawDrop x1 s) := by
  unfold rawDrop
  repeat' first
    | (with_reducible first | assumption | apply keeps_setRaw | apply keeps_rawFlag | apply keeps_errInc)
    | with_reducible apply keeps_mk

theorem keeps_rawChar {x1 x2 x3 x4} (h : Keeps s₀ s) : Keeps s₀ (rawChar x1 x2 x3 x4 s) := by
  unfold rawChar
  repeat' first
    | (with_reducible first | assumption | apply keeps_ite | apply keeps_rawPlace | apply keeps_rawTake | apply keeps_rawDrop
                            | apply keeps_eccRead)
    | (extract_lets +onlyGivenNames x; first
        | (refine keeps_use (s₀ := s₀) x ?_ (fun hx => ?_); rotate_left; clear_value x; rotate_left; subst x) | clear_value x)
    | split | refine keeps_snd (by with_reducible assumption) ?_

theorem keeps_swModeSet {x1 x2} (h : Keeps s₀ s) : Keeps s₀ (swModeSet x1 x2 s) := by
  unfold swModeSet
  repeat' first
    | (with_reducible first | assumption | apply keeps_ite | apply keeps_parserStop | apply keeps_rawClose | apply keeps_setRaw
                            | apply keeps_setReg | apply keeps_setParser | apply keeps_setSlice)
    | (extract_lets +onlyGivenNames x; first
        | (refine keeps_use (s₀ := s₀) x ?_ (fun hx => ?_); rotate_left; clear_value x; rotate_left; subst x) | clear_value x)
    | split | with_reducible apply keeps_mk

theorem keeps_swModes {n k} (h : Keeps s₀ s) : Keeps s₀ (swModes n k s) := by
  induction k generalizing s with
  | zero => exact h
  | succ k ih =>
    unfold swModes
    split
    · exact ih (keeps_swModeSet (keeps_setSlice h))
    · exact h

theorem keeps_takeItem {x1 x2} (h : Keeps s₀ s) (hx2 : ∀ s, Keeps s₀ s → Keeps s₀ (x2 s)) : Keeps s₀ (takeItem x1 x2 s) := by
  unfold takeItem
  repeat' first
    | with_reducible assumption | intro _
    | (with_reducible first | apply keeps_swModes | apply keeps_setSlice | apply hx2)
    | (extract_lets +onlyGivenNames x; first
        | (refine keeps_use (s₀ := s₀) x ?_ (fun hx => ?_); rotate_left; clear_value x; rotate_left; subst x) | clear_value x)
    | with_reducible apply keeps_mk

theorem keeps_execRawTimeoutExpiry {x1} (h : Keeps s₀ s) : KeepsO s₀ (execRawTimeoutExpiry x1 s) := by
  unfold execRawTimeoutExpiry
  repeat' first
    | (with_reducible first | assumption | apply keeps_ite | apply keeps_setSlice | apply keeps_rawClose | apply keepsO_next)
    | (extract_lets +onlyGivenNames x; first
        | (refine keeps_use (s₀ := s₀) x ?_ (fun hx => ?_); rotate_left; clear_value x; rotate_left; subst x) | clear_value x)
    | split | with_reducible apply keeps_mk


/-! ### Tile -/

theorem keeps_setTile {x1 x2} (h : Keeps s₀ s) : Keeps s₀ (setTile s x1 x2) := by
  unfold setTile
  repeat' first
    | with_reducible assumption | intro _

    | with_reducible apply keeps_mk

theorem keeps_setLine {x1 x2} (h : Keeps s₀ s) : Keeps s₀ (setLine s x1 x2) := by
  unfold setLine
  repeat' first
    | with_reducible assumption | intro _

    | with_reducible apply keeps_mk

theorem keeps_tileFlag {x1 x2} (h : Keeps s₀ s) : Keeps s₀ (tileFlag x1 x2 s) :=
  keeps_stickyEn h

theorem keeps_lineFlags {x1 x2} (h : Keeps s₀ s) : Keeps s₀ (lineFlags x1 x2 s) := by
  unfold lineFlags
  repeat' first
    | with_reducible assumption | intro _
    | (with_reducible first | apply keeps_ite | apply keeps_setBit | apply keeps_raise | apply keeps_foldl)
    | (extract_lets +onlyGivenNames x; first
        | (refine keeps_use (s₀ := s₀) x ?_ (fun hx => ?_); rotate_left; clear_value x; rotate_left; subst x) | clear_value x)
    | split

theorem keeps_lineFlag {x1 x2} (h : Keeps s₀ s) : Keeps s₀ (lineFlag x1 x2 s) :=
  keeps_lineFlags h

theorem keeps_tileDown {x1} (h : Keeps s₀ s) : Keeps s₀ (tileDown x1 s) := by
  unfold tileDown
  repeat' first
    | (with_reducible first | assumption | apply keeps_setTile | apply keeps_clrBit)
    | with_reducible apply keeps_mk

theorem keeps_tileFall {x1} (h : Keeps s₀ s) : Keeps s₀ (tileFall x1 s) := by
  unfold tileFall
  repeat' first
    | (with_reducible first | assumption | apply keeps_tileFlag | apply keeps_errInc | apply keeps_tileDown)

theorem keeps_tileFault {x1} (h : Keeps s₀ s) : Keeps s₀ (tileFault x1 s) := by
  unfold tileFault
  repeat' first
    | (with_reducible first | assumption | apply keeps_raise | apply keeps_tileFall)

theorem keeps_tilesSleep (h : Keeps s₀ s) : Keeps s₀ (tilesSleep s) := by
  unfold tilesSleep
  repeat' first
    | with_reducible assumption | intro _
    | (with_reducible first | apply keeps_ite | apply keeps_tileFall | apply keeps_tileDown | apply keeps_raise | apply keeps_foldl)
    | (extract_lets +onlyGivenNames x; first
        | (refine keeps_use (s₀ := s₀) x ?_ (fun hx => ?_); rotate_left; clear_value x; rotate_left; subst x) | clear_value x)
    | split

theorem keeps_execTilePwrEn {x1 x2} (h : Keeps s₀ s) : KeepsO s₀ (execTilePwrEn x1 x2 s) := by
  unfold execTilePwrEn
  repeat' first
    | (with_reducible first | assumption | apply keeps_ite | apply keeps_setReg | apply keeps_setTile | apply keeps_tileDown
                            | apply keepsO_next)
    | (extract_lets +onlyGivenNames x; first
        | (refine keeps_use (s₀ := s₀) x ?_ (fun hx => ?_); rotate_left; clear_value x; rotate_left; subst x) | clear_value x)
    | split | with_reducible apply keeps_mk

theorem keeps_lineReceipt {x1 x2 x3} (h : Keeps s₀ s) : Keeps s₀ (lineReceipt x1 x2 x3 s) := by
  unfold lineReceipt
  repeat' first
    | (with_reducible first | assumption | apply keeps_ite | apply keeps_setFld | apply keeps_errInc | apply keeps_lineFlags)
    | (extract_lets +onlyGivenNames x; first
        | (refine keeps_use (s₀ := s₀) x ?_ (fun hx => ?_); rotate_left; clear_value x; rotate_left; subst x) | clear_value x)
    | split

theorem keeps_lineSent {x1 x2} (h : Keeps s₀ s) : Keeps s₀ (lineSent x1 x2 s) := by
  unfold lineSent
  repeat' first
    | (with_reducible first | assumption | apply keeps_ite | apply keeps_errInc | apply keeps_setReg | apply keeps_setLine
                            | apply keeps_lineFlag | apply keeps_setBit | apply keeps_clrBit)
    | (extract_lets +onlyGivenNames x; first
        | (refine keeps_use (s₀ := s₀) x ?_ (fun hx => ?_); rotate_left; clear_value x; rotate_left; subst x) | clear_value x)
    | split | with_reducible apply keeps_mk


/-! ### Slice -/

theorem keeps_portFlag {x1 x2} (h : Keeps s₀ s) : Keeps s₀ (portFlag x1 x2 s) := by
  unfold portFlag
  repeat' first
    | (with_reducible first | assumption | apply keeps_ite | apply keeps_setBit | apply keeps_raise)
    | (extract_lets +onlyGivenNames x; first
        | (refine keeps_use (s₀ := s₀) x ?_ (fun hx => ?_); rotate_left; clear_value x; rotate_left; subst x) | clear_value x)
    | split

theorem keeps_setRxMode {x1 x2} (h : Keeps s₀ s) : Keeps s₀ (setRxMode x1 x2 s) := by
  unfold setRxMode
  repeat' first
    | (with_reducible first | assumption | apply keeps_ite | apply keeps_setSlice | apply keeps_clrBit | apply keeps_swModeSet)
    | (extract_lets +onlyGivenNames x; first
        | (refine keeps_use (s₀ := s₀) x ?_ (fun hx => ?_); rotate_left; clear_value x; rotate_left; subst x) | clear_value x)
    | split | with_reducible apply keeps_mk

theorem keeps_setTxMode {x1 x2} (h : Keeps s₀ s) : Keeps s₀ (setTxMode x1 x2 s) := by
  unfold setTxMode
  repeat' first
    | (with_reducible first | assumption | apply keeps_ite | apply keeps_flushQueue | apply keeps_clrBit | apply keeps_setSlice)
    | (extract_lets +onlyGivenNames x; first
        | (refine keeps_use (s₀ := s₀) x ?_ (fun hx => ?_); rotate_left; clear_value x; rotate_left; subst x) | clear_value x)
    | split | with_reducible apply keeps_mk

theorem keeps_rxBoundary {x1} (h : Keeps s₀ s) : Keeps s₀ (rxBoundary x1 s) :=
  keeps_setRxMode h

theorem keeps_txBoundary {x1} (h : Keeps s₀ s) : Keeps s₀ (txBoundary x1 s) :=
  keeps_setTxMode h

theorem keeps_execPortModeWrite {x1 x2} (h : Keeps s₀ s) : KeepsO s₀ (execPortModeWrite x1 x2 s) := by
  unfold execPortModeWrite
  repeat' first
    | (with_reducible first | assumption | apply keeps_ite | apply keeps_portFlag | apply keeps_setReg | apply keeps_rxBoundary
                            | apply keeps_txBoundary | apply keepsO_next)
    | (extract_lets +onlyGivenNames x; first
        | (refine keeps_use (s₀ := s₀) x ?_ (fun hx => ?_); rotate_left; clear_value x; rotate_left; subst x) | clear_value x)
    | split

theorem keeps_ratePend {x1} (h : Keeps s₀ s) : Keeps s₀ (ratePend x1 s) := by
  unfold ratePend
  repeat' first
    | (with_reducible first | assumption | apply keeps_setBit)

theorem keeps_rxRate {x1} (h : Keeps s₀ s) : Keeps s₀ (rxRate x1 s) := by
  unfold rxRate
  repeat' first
    | (with_reducible first | assumption | apply keeps_ite | apply keeps_setSlice | apply keeps_clrBit)
    | split | with_reducible apply keeps_mk

theorem keeps_txRate {x1} (h : Keeps s₀ s) : Keeps s₀ (txRate x1 s) := by
  unfold txRate
  repeat' first
    | (with_reducible first | assumption | apply keeps_ite | apply keeps_setSlice | apply keeps_clrBit)
    | split | with_reducible apply keeps_mk

theorem keeps_falseStart {x1} (h : Keeps s₀ s) : Keeps s₀ (falseStart x1 s) := by
  unfold falseStart
  repeat' first
    | (with_reducible first | assumption | apply keeps_portFlag | apply keeps_errInc)

theorem keeps_rxPush {x1 x2} (h : Keeps s₀ s) : Keeps s₀ (rxPush x1 x2 s) := by
  unfold rxPush
  repeat' first
    | with_reducible assumption | intro _
    | (with_reducible first | apply keeps_ite | apply keeps_portFlag | apply keeps_errInc | apply keeps_setSlice)
    | (extract_lets +onlyGivenNames x; first
        | (refine keeps_use (s₀ := s₀) x ?_ (fun hx => ?_); rotate_left; clear_value x; rotate_left; subst x) | clear_value x)
    | split | with_reducible apply keeps_mk

theorem keeps_txCharEnd {x1 x2} (h : Keeps s₀ s) : Keeps s₀ (txCharEnd x1 x2 s) := by
  unfold txCharEnd
  repeat' first
    | (with_reducible first | assumption | apply keeps_ite | apply keeps_trafInc | apply keeps_lineSent | apply keeps_setSlice
                            | apply keeps_clrBit)
    | (extract_lets +onlyGivenNames x; first
        | (refine keeps_use (s₀ := s₀) x ?_ (fun hx => ?_); rotate_left; clear_value x; rotate_left; subst x) | clear_value x)
    | split | with_reducible apply keeps_mk

theorem keeps_txSentEnd {x1 x2} (h : Keeps s₀ s) : Keeps s₀ (txSentEnd x1 x2 s) := by
  unfold txSentEnd
  repeat' first
    | (with_reducible first | assumption | apply keeps_ite | apply keeps_txCharEnd | apply keeps_releaseRef | apply keeps_setQueue
                            | apply keeps_trafInc | apply keeps_setSlice | apply keeps_txBoundary)
    | (extract_lets +onlyGivenNames x; first
        | (refine keeps_use (s₀ := s₀) x ?_ (fun hx => ?_); rotate_left; clear_value x; rotate_left; subst x) | clear_value x)
    | split | with_reducible apply keeps_mk

theorem keeps_txEcc {x1} (h : Keeps s₀ s) : Keeps s₀ (txEcc x1 s) := by
  unfold txEcc
  repeat' first
    | (with_reducible first | assumption | apply keeps_ite | apply keeps_eccRead | apply keeps_fog)
    | (extract_lets +onlyGivenNames x; first
        | (refine keeps_use (s₀ := s₀) x ?_ (fun hx => ?_); rotate_left; clear_value x; rotate_left; subst x) | clear_value x)
    | split | refine keeps_snd (by with_reducible assumption) ?_

theorem keeps_txLoad {x1 x2} (h : Keeps s₀ s) : Keeps s₀ (txLoad x1 x2 s) := by
  unfold txLoad
  repeat' first
    | (with_reducible first | assumption | apply keeps_ite | apply keeps_txSentEnd | apply keeps_txBoundary | apply keeps_txCharEnd
                            | apply keeps_txEcc | apply keeps_dirBegin | apply keeps_setQueue | apply keeps_txRate | apply keeps_setSlice
                            | apply keeps_setBit)
    | (extract_lets +onlyGivenNames x; first
        | (refine keeps_use (s₀ := s₀) x ?_ (fun hx => ?_); rotate_left; clear_value x; rotate_left; subst x) | clear_value x)
    | split | with_reducible apply keeps_mk

theorem keeps_measWrite {x1 x2} (h : Keeps s₀ s) : Keeps s₀ (measWrite x1 x2 s) := by
  unfold measWrite
  repeat' first
    | (with_reducible first | assumption | apply keeps_ite | apply keeps_portFlag | apply keeps_putBit | apply keeps_setReg)
    | (extract_lets +onlyGivenNames x; first
        | (refine keeps_use (s₀ := s₀) x ?_ (fun hx => ?_); rotate_left; clear_value x; rotate_left; subst x) | clear_value x)
    | split

theorem keeps_setSliceMap {x1 x2} (h : Keeps s₀ s) : Keeps s₀ (setSliceMap s x1 x2) := by
  unfold setSliceMap
  repeat' first
    | (with_reducible first | assumption)
    | with_reducible apply keeps_mk

theorem keeps_swapEnd {x1 x2} (h : Keeps s₀ s) : Keeps s₀ (swapEnd x1 x2 s) := by
  unfold swapEnd
  repeat' first
    | (with_reducible first | assumption | apply keeps_setFld | apply keeps_clrBit | apply keeps_portFlag | apply keeps_setSlice)
    | (extract_lets +onlyGivenNames x; first
        | (refine keeps_use (s₀ := s₀) x ?_ (fun hx => ?_); rotate_left; clear_value x; rotate_left; subst x) | clear_value x)
    | with_reducible apply keeps_mk

theorem keeps_doSwap {x1 x2} (h : Keeps s₀ s) : Keeps s₀ (doSwap x1 x2 s) := by
  unfold doSwap
  repeat' first
    | (with_reducible first | assumption | apply keeps_ite | apply keeps_swapEnd | apply keeps_setSliceMap | apply keeps_csChange
                            | apply keeps_raise | apply keeps_setFld)
    | (extract_lets +onlyGivenNames x; first
        | (refine keeps_use (s₀ := s₀) x ?_ (fun hx => ?_); rotate_left; clear_value x; rotate_left; subst x) | clear_value x)
    | split

theorem keeps_forceSwap {x1} (h : Keeps s₀ s) : Keeps s₀ (forceSwap x1 s) := by
  unfold forceSwap
  repeat' first
    | (with_reducible first | assumption | apply keeps_rxBoundary | apply keeps_errInc | apply keeps_clrBit | apply keeps_setSlice
                            | apply keeps_doSwap)
    | (extract_lets +onlyGivenNames x; first
        | (refine keeps_use (s₀ := s₀) x ?_ (fun hx => ?_); rotate_left; clear_value x; rotate_left; subst x) | clear_value x)
    | split | with_reducible apply keeps_mk

theorem keeps_execSwapRequest {x1 x2} (h : Keeps s₀ s) : KeepsO s₀ (execSwapRequest x1 x2 s) := by
  unfold execSwapRequest
  repeat' first
    | (with_reducible first | assumption | apply keeps_ite | apply keeps_portFlag | apply keeps_setFld | apply keeps_putBit
                            | apply keeps_setSlice | apply keeps_setBit | apply keepsO_next)
    | (extract_lets +onlyGivenNames x; first
        | (refine keeps_use (s₀ := s₀) x ?_ (fun hx => ?_); rotate_left; clear_value x; rotate_left; subst x) | clear_value x)
    | split | with_reducible apply keeps_mk


/-! ### Can -/

theorem keeps_setTxb {x1 x2 x3} (h : Keeps s₀ s) : Keeps s₀ (setTxb x1 x2 x3 s) := by
  unfold setTxb
  repeat' first
    | (with_reducible first | assumption | apply keeps_putBit | apply keeps_setFld)

theorem keeps_setResult {x1 x2 x3} (h : Keeps s₀ s) : Keeps s₀ (setResult x1 x2 x3 s) :=
  keeps_setFld h

theorem keeps_canSusp {x1} (h : Keeps s₀ s) : Keeps s₀ (canSusp x1 s) :=
  keeps_putBit h

theorem keeps_canBusOff {x1} (h : Keeps s₀ s) : Keeps s₀ (canBusOff x1 s) := by
  unfold canBusOff
  repeat' first
    | with_reducible assumption | intro _
    | (with_reducible first | apply keeps_setTxb | apply keeps_canStatusWith | apply keeps_errInc | apply keeps_foldl)
    | (extract_lets +onlyGivenNames x; first
        | (refine keeps_use (s₀ := s₀) x ?_ (fun hx => ?_); rotate_left; clear_value x; rotate_left; subst x) | clear_value x)
    | split

theorem keeps_canErrs {x1 x2 x3} (h : Keeps s₀ s) : Keeps s₀ (canErrs x1 x2 x3 s) := by
  unfold canErrs
  repeat' first
    | (with_reducible first | assumption | apply keeps_ite | apply keeps_setFld | apply keeps_canBusOff | apply keeps_canStatus)
    | (extract_lets +onlyGivenNames x; first
        | (refine keeps_use (s₀ := s₀) x ?_ (fun hx => ?_); rotate_left; clear_value x; rotate_left; subst x) | clear_value x)
    | split

theorem keeps_canFrameEnd {x1} (h : Keeps s₀ s) : Keeps s₀ (canFrameEnd x1 s) := by
  unfold canFrameEnd
  repeat' first
    | (with_reducible first | assumption | apply keeps_ite | apply keeps_canEnterInit)
    | split

theorem keeps_canCfgErr {x1} (h : Keeps s₀ s) : Keeps s₀ (canCfgErr x1 s) :=
  keeps_canFlag h

theorem keeps_canCtlWrite {x1 x2 x3} (h : Keeps s₀ s) : Keeps s₀ (canCtlWrite x1 x2 x3 s) := by
  unfold canCtlWrite
  repeat' first
    | (with_reducible first | assumption | apply keeps_ite | apply keeps_canCfgErr | apply keeps_setReg | apply keeps_setCan
                            | apply keeps_canEnterInit | apply keeps_canStatus)
    | (extract_lets +onlyGivenNames x; first
        | (refine keeps_use (s₀ := s₀) x ?_ (fun hx => ?_); rotate_left; clear_value x; rotate_left; subst x) | clear_value x)
    | split | with_reducible apply keeps_mk

theorem keeps_txbPend {x1 x2} (h : Keeps s₀ s) : Keeps s₀ (txbPend x1 x2 s) := by
  unfold txbPend
  repeat' first
    | (with_reducible first | assumption | apply keeps_ite | apply keeps_setReg | apply keeps_setResult | apply keeps_setTxb)
    | (extract_lets +onlyGivenNames x; first
        | (refine keeps_use (s₀ := s₀) x ?_ (fun hx => ?_); rotate_left; clear_value x; rotate_left; subst x) | clear_value x)
    | split

theorem keeps_txbLoad {x1 x2 x3} (h : Keeps s₀ s) : Keeps s₀ (txbLoad x1 x2 x3 s) := by
  unfold txbLoad
  repeat' first
    | with_reducible assumption | intro _
    | (with_reducible first | apply keeps_txbPend | apply keeps_setReg | apply keeps_foldl)
    | (extract_lets +onlyGivenNames x; first
        | (refine keeps_use (s₀ := s₀) x ?_ (fun hx => ?_); rotate_left; clear_value x; rotate_left; subst x) | clear_value x)

theorem keeps_seriesEnd {x1 x2} (h : Keeps s₀ s) : Keeps s₀ (seriesEnd x1 x2 s) := by
  unfold seriesEnd
  repeat' first
    | (with_reducible first | assumption | apply keeps_ite | apply keeps_releaseRef | apply keeps_setCan | apply keeps_setFld
                            | apply keeps_canFlag | apply keeps_errInc)
    | (extract_lets +onlyGivenNames x; first
        | (refine keeps_use (s₀ := s₀) x ?_ (fun hx => ?_); rotate_left; clear_value x; rotate_left; subst x) | clear_value x)
    | split | with_reducible apply keeps_mk

theorem keeps_seriesNext {x1 x2 x3} (h : Keeps s₀ s) : Keeps s₀ (seriesNext x1 x2 x3 s) := by
  unfold seriesNext
  repeat' first
    | (with_reducible first | assumption | apply keeps_ite | apply keeps_eccChain | apply keeps_seriesEnd | apply keeps_txbLoad
                            | apply keeps_setCan)
    | (extract_lets +onlyGivenNames x; first
        | (refine keeps_use (s₀ := s₀) x ?_ (fun hx => ?_); rotate_left; clear_value x; rotate_left; subst x) | clear_value x)
    | split | refine keeps_snd (by with_reducible assumption) ?_ | with_reducible apply keeps_mk

theorem keeps_txbFree {x1 x2 x3} (h : Keeps s₀ s) : Keeps s₀ (txbFree x1 x2 x3 s) := by
  unfold txbFree
  repeat' first
    | (with_reducible first | assumption | apply keeps_setResult | apply keeps_setTxb | apply keeps_setCan | apply keeps_canSusp
                            | apply keeps_seriesNext)
    | (extract_lets +onlyGivenNames x; first
        | (refine keeps_use (s₀ := s₀) x ?_ (fun hx => ?_); rotate_left; clear_value x; rotate_left; subst x) | clear_value x)
    | with_reducible apply keeps_mk

theorem keeps_txbReplace {x1 x2} (h : Keeps s₀ s) : Keeps s₀ (txbReplace x1 x2 s) := by
  unfold txbReplace
  repeat' first
    | with_reducible assumption | intro _
    | (with_reducible first | apply keeps_txbLoad | apply keeps_setCan)
    | (extract_lets +onlyGivenNames x; first
        | (refine keeps_use (s₀ := s₀) x ?_ (fun hx => ?_); rotate_left; clear_value x; rotate_left; subst x) | clear_value x)
    | split | with_reducible apply keeps_mk

theorem keeps_canSentStart {k n} (h : Keeps s₀ s) : Keeps s₀ (canSentStart k n s) := by
  induction n generalizing s with
  | zero => exact h
  | succ n ih =>
    unfold canSentStart
    repeat' first
      | with_reducible assumption | intro _
      | (with_reducible first | apply keeps_ite | apply keeps_eccChain | apply keeps_setCan | apply keeps_canFlag | apply keeps_errInc
                              | apply keeps_releaseRef | apply keeps_txbLoad | apply ih | apply keeps_foldl | apply keeps_getD)
      | (extract_lets +onlyGivenNames x; first
          | (refine keeps_use (s₀ := s₀) x ?_ (fun hx => ?_); rotate_left; clear_value x; rotate_left; subst x) | clear_value x)
      | split | refine keeps_snd (by with_reducible assumption) ?_ | refine keeps_some (by with_reducible assumption) ?_
      | with_reducible apply keeps_mk

theorem keeps_canUnsuspend {x1} (h : Keeps s₀ s) : Keeps s₀ (canUnsuspend x1 s) := by
  unfold canUnsuspend
  repeat' first
    | with_reducible assumption | intro _
    | (with_reducible first | apply keeps_setTxb | apply keeps_canSusp | apply keeps_setCan | apply keeps_foldl)
    | (extract_lets +onlyGivenNames x; first
        | (refine keeps_use (s₀ := s₀) x ?_ (fun hx => ?_); rotate_left; clear_value x; rotate_left; subst x) | clear_value x)
    | with_reducible apply keeps_mk

theorem keeps_canRecDown {x1} (h : Keeps s₀ s) : Keeps s₀ (canRecDown x1 s) := by
  unfold canRecDown
  repeat' first
    | (with_reducible first | assumption | apply keeps_ite | apply keeps_takeFree | apply keeps_canErrs)
    | (extract_lets +onlyGivenNames x; first
        | (refine keeps_use (s₀ := s₀) x ?_ (fun hx => ?_); rotate_left; clear_value x; rotate_left; subst x) | clear_value x)
    | split | refine keeps_snd (by with_reducible assumption) ?_

theorem keeps_canRxErr {x1 x2 x3} (h : Keeps s₀ s) : Keeps s₀ (canRxErr x1 x2 x3 s) := by
  unfold canRxErr
  repeat' first
    | (with_reducible first | assumption | apply keeps_canFrameEnd | apply keeps_canErrs | apply keeps_errInc)
    | split

theorem keeps_canStageMove {k n} (h : Keeps s₀ s) : Keeps s₀ (canStageMove k n s) := by
  induction n generalizing s with
  | zero => exact h
  | succ n ih =>
    unfold canStageMove
    repeat' first
      | with_reducible assumption | intro _
      | (with_reducible first | apply keeps_ite | apply keeps_setCan | apply ih | apply keeps_foldl | apply keeps_getD)
      | (extract_lets +onlyGivenNames x; first
          | (refine keeps_use (s₀ := s₀) x ?_ (fun hx => ?_); rotate_left; clear_value x; rotate_left; subst x) | clear_value x)
      | split | refine keeps_snd (by with_reducible assumption) ?_ | refine keeps_some (by with_reducible assumption) ?_
      | with_reducible apply keeps_mk

theorem keeps_canStages (h : Keeps s₀ s) : Keeps s₀ (canStages s) := by
  unfold canStages
  repeat' first
    | (with_reducible first | assumption | apply keeps_canStageMove)

theorem keeps_canRxFrame {x1 x2 x3 x4 x5 x6} (h : Keeps s₀ s) : Keeps s₀ (canRxFrame x1 x2 x3 x4 x5 x6 s) := by
  unfold canRxFrame
  repeat' first
    | (with_reducible first | assumption | apply keeps_ite | apply keeps_canUnsuspend | apply keeps_canRecDown | apply keeps_trafInc
                            | apply keeps_canFlag | apply keeps_errInc | apply keeps_setCan | apply keeps_canStages)
    | (extract_lets +onlyGivenNames x; first
        | (refine keeps_use (s₀ := s₀) x ?_ (fun hx => ?_); rotate_left; clear_value x; rotate_left; subst x) | clear_value x)
    | split | with_reducible apply keeps_mk

theorem keeps_canRxRise {x1 x2} (h : Keeps s₀ s) : Keeps s₀ (canRxRise x1 x2 s) := by
  unfold canRxRise
  repeat' first
    | (with_reducible first | assumption | apply keeps_ite | apply keeps_stickyRaise)
    | (extract_lets +onlyGivenNames x; first
        | (refine keeps_use (s₀ := s₀) x ?_ (fun hx => ?_); rotate_left; clear_value x; rotate_left; subst x) | clear_value x)
    | split

theorem keeps_canFifoPut {x1 x2 x3} (h : Keeps s₀ s) : Keeps s₀ (canFifoPut x1 x2 x3 s) := by
  unfold canFifoPut
  repeat' first
    | with_reducible assumption | intro _
    | (with_reducible first | apply keeps_ite | apply keeps_setBit | apply keeps_errInc | apply keeps_setCan | apply keeps_allocChain
                            | apply keeps_takeSeq | apply keeps_setCellSt | apply keeps_writeText | apply keeps_writeHdr
                            | apply keeps_canRxRise)
    | (extract_lets +onlyGivenNames x; first
        | (refine keeps_use (s₀ := s₀) x ?_ (fun hx => ?_); rotate_left; clear_value x; rotate_left; subst x) | clear_value x)
    | split | refine keeps_snd (by with_reducible assumption) ?_ | with_reducible apply keeps_mk

theorem keeps_canDeliver {x1 x2 x3} (h : Keeps s₀ s) : Keeps s₀ (canDeliver x1 x2 x3 s) := by
  unfold canDeliver
  repeat' first
    | with_reducible assumption | intro _
    | (with_reducible first | apply keeps_ite | apply keeps_setCan | apply keeps_canFifoPut | apply keeps_emqPut | apply keeps_hmbOut
                            | apply keeps_tunSend | apply keeps_foldl)
    | (extract_lets +onlyGivenNames x; first
        | (refine keeps_use (s₀ := s₀) x ?_ (fun hx => ?_); rotate_left; clear_value x; rotate_left; subst x) | clear_value x)
    | split | refine keeps_snd (by with_reducible assumption) ?_ | with_reducible apply keeps_mk

theorem keeps_canRxGood {k n} (h : Keeps s₀ s) : Keeps s₀ (canRxGood k n s) := by
  induction n generalizing s with
  | zero => exact h
  | succ n ih =>
    unfold canRxGood
    repeat' first
      | with_reducible assumption | intro _
      | (with_reducible first | apply keeps_ite | apply keeps_eccChain | apply keeps_setCan | apply keeps_releaseRef | apply ih
                              | apply keeps_foldl | apply keeps_getD)
      | (extract_lets +onlyGivenNames x; first
          | (refine keeps_use (s₀ := s₀) x ?_ (fun hx => ?_); rotate_left; clear_value x; rotate_left; subst x) | clear_value x)
      | split | refine keeps_snd (by with_reducible assumption) ?_ | refine keeps_some (by with_reducible assumption) ?_
      | with_reducible apply keeps_mk

theorem keeps_canRxTake {x1} (h : Keeps s₀ s) : Keeps s₀ (canRxTake x1 s).2 := by
  unfold canRxTake
  repeat' first
    | (with_reducible first | assumption | apply keeps_ite | apply keeps_canRxGood | apply keeps_setBit | apply keeps_releaseRef
                            | apply keeps_setCan)
    | (extract_lets +onlyGivenNames x; first
        | (refine keeps_use (s₀ := s₀) x ?_ (fun hx => ?_); rotate_left; clear_value x; rotate_left; subst x) | clear_value x)
    | split | with_reducible apply keeps_mk

theorem keeps_execCanRxRead {x1} (h : Keeps s₀ s) : KeepsO s₀ (execCanRxRead x1 s) := by
  unfold execCanRxRead
  repeat' first
    | (with_reducible first | assumption | apply keeps_canRxTake | apply keepsO_next)
    | split | refine keeps_snd (by with_reducible assumption) ?_

theorem keeps_canRxFlush {x1} (h : Keeps s₀ s) : Keeps s₀ (canRxFlush x1 s) := by
  unfold canRxFlush
  repeat' first
    | with_reducible assumption | intro _
    | (with_reducible first | apply keeps_releaseRef | apply keeps_setCan | apply keeps_foldl)
    | (extract_lets +onlyGivenNames x; first
        | (refine keeps_use (s₀ := s₀) x ?_ (fun hx => ?_); rotate_left; clear_value x; rotate_left; subst x) | clear_value x)
    | with_reducible apply keeps_mk

theorem keeps_execCanTxRequest {x1 x2 x3} (h : Keeps s₀ s) : KeepsO s₀ (execCanTxRequest x1 x2 x3 s) := by
  unfold execCanTxRequest
  repeat' first
    | (with_reducible first | assumption | apply keeps_ite | apply keeps_canCfgErr | apply keeps_putBit | apply keeps_setResult
                            | apply keeps_txbPend | apply keepsO_next)
    | (extract_lets +onlyGivenNames x; first
        | (refine keeps_use (s₀ := s₀) x ?_ (fun hx => ?_); rotate_left; clear_value x; rotate_left; subst x) | clear_value x)
    | split

theorem keeps_execCanTxAbort {x1 x2 x3} (h : Keeps s₀ s) : KeepsO s₀ (execCanTxAbort x1 x2 x3 s) := by
  unfold execCanTxAbort
  repeat' first
    | (with_reducible first | assumption | apply keeps_ite | apply keeps_canCfgErr | apply keeps_putBit | apply keeps_txbFree
                            | apply keeps_setCan | apply keepsO_next)
    | (extract_lets +onlyGivenNames x; first
        | (refine keeps_use (s₀ := s₀) x ?_ (fun hx => ?_); rotate_left; clear_value x; rotate_left; subst x) | clear_value x)
    | split | with_reducible apply keeps_mk

theorem keeps_recDrop {x1} (h : Keeps s₀ s) : Keeps s₀ (recDrop x1 s) := by
  unfold recDrop
  repeat' first
    | (with_reducible first | assumption | apply keeps_canFlag | apply keeps_errInc)

theorem keeps_recPlace {x1 x2 x3} (h : Keeps s₀ s) : Keeps s₀ (recPlace x1 x2 x3 s) := by
  unfold recPlace
  repeat' first
    | with_reducible assumption | intro _
    | (with_reducible first | apply keeps_ite | apply keeps_recDrop | apply keeps_setCan | apply keeps_txbLoad)
    | (extract_lets +onlyGivenNames x; first
        | (refine keeps_use (s₀ := s₀) x ?_ (fun hx => ?_); rotate_left; clear_value x; rotate_left; subst x) | clear_value x)
    | split | with_reducible apply keeps_mk

theorem keeps_arbitrate {k n} (h : Keeps s₀ s) : Keeps s₀ (arbitrate k n s) := by
  induction n generalizing s with
  | zero => exact h
  | succ n ih =>
    unfold arbitrate
    repeat' first
      | with_reducible assumption | intro _
      | (with_reducible first | apply keeps_ite | apply keeps_setCan | apply keeps_canFlag | apply keeps_errInc | apply keeps_txbFree
                              | apply keeps_canSusp | apply keeps_setTxb | apply ih | apply keeps_foldl | apply keeps_getD)
      | (extract_lets +onlyGivenNames x; first
          | (refine keeps_use (s₀ := s₀) x ?_ (fun hx => ?_); rotate_left; clear_value x; rotate_left; subst x) | clear_value x)
      | split | refine keeps_snd (by with_reducible assumption) ?_ | refine keeps_some (by with_reducible assumption) ?_
      | with_reducible apply keeps_mk

theorem keeps_txFailBuffer {x1 x2} (h : Keeps s₀ s) : Keeps s₀ (txFailBuffer x1 x2 s) := by
  unfold txFailBuffer
  repeat' first
    | with_reducible assumption | intro _
    | (with_reducible first | apply keeps_ite | apply keeps_setCan | apply keeps_txbReplace | apply keeps_txbFree | apply keeps_canSusp
                            | apply keeps_setTxb | apply keeps_canFlag | apply keeps_errInc)
    | (extract_lets +onlyGivenNames x; first
        | (refine keeps_use (s₀ := s₀) x ?_ (fun hx => ?_); rotate_left; clear_value x; rotate_left; subst x) | clear_value x)
    | split | with_reducible apply keeps_mk

theorem keeps_ackCount {x1 x2 x3} (h : Keeps s₀ s) : Keeps s₀ (ackCount x1 x2 x3 s) := by
  unfold ackCount
  repeat' first
    | with_reducible assumption | intro _
    | (with_reducible first | apply keeps_setCan)
    | (extract_lets +onlyGivenNames x; first
        | (refine keeps_use (s₀ := s₀) x ?_ (fun hx => ?_); rotate_left; clear_value x; rotate_left; subst x) | clear_value x)
    | split | with_reducible apply keeps_mk

theorem keeps_txError {x1 x2 x3 x4} (h : Keeps s₀ s) : Keeps s₀ (txError x1 x2 x3 x4 s) := by
  unfold txError
  repeat' first
    | (with_reducible first | assumption | apply keeps_ackCount | apply keeps_errInc | apply keeps_canErrs | apply keeps_canFrameEnd
                            | apply keeps_txFailBuffer | apply keeps_setCan | apply keeps_txbReplace | apply keeps_txbFree)
    | (extract_lets +onlyGivenNames x; first
        | (refine keeps_use (s₀ := s₀) x ?_ (fun hx => ?_); rotate_left; clear_value x; rotate_left; subst x) | clear_value x)
    | split | with_reducible apply keeps_mk


/-! ### Gates -/

theorem keeps_gateDiscard {g} (h : Keeps s₀ s) : Keeps s₀ (gateDiscard g s) := by
  unfold gateDiscard
  repeat' first
    | exact h
    | with_reducible apply keeps_ite
    | exact keeps_setTxQ h
    | exact keeps_setPulse h
    | exact keeps_setFifo (keeps_foldl h fun _ _ h => keeps_releaseRef h)
    | exact keeps_setFifo (keeps_iter h fun _ h => keeps_fifoRead h)
    | exact ⟨h.1, h.2, h.3, h.4⟩

theorem keeps_peerRst {x1 x2 x3} (h : Keeps s₀ s) : Keeps s₀ (peerRst x1 x2 x3 s) := by
  unfold peerRst
  repeat' first
    | (with_reducible first | assumption | apply keeps_ite | apply keeps_putBit | apply keeps_setBit | apply keeps_stickyRaise)
    | (extract_lets +onlyGivenNames x; first
        | (refine keeps_use (s₀ := s₀) x ?_ (fun hx => ?_); rotate_left; clear_value x; rotate_left; subst x) | clear_value x)
    | split

theorem keeps_epochFlip {x1 x2} (h : Keeps s₀ s) : Keeps s₀ (epochFlip x1 x2 s) := by
  unfold epochFlip
  repeat' first
    | with_reducible assumption | intro _

    | (extract_lets +onlyGivenNames x; first
        | (refine keeps_use (s₀ := s₀) x ?_ (fun hx => ?_); rotate_left; clear_value x; rotate_left; subst x) | clear_value x)
    | with_reducible apply keeps_mk

theorem keeps_peerNote {x1} (h : Keeps s₀ s) : Keeps s₀ (peerNote x1 s) := by
  unfold peerNote
  repeat' first
    | (with_reducible first | assumption | apply keeps_peerRst | apply keeps_errAdd)

theorem keeps_peerTold {x1} (h : Keeps s₀ s) : Keeps s₀ (peerTold x1 s) := by
  unfold peerTold
  repeat' first
    | (with_reducible first | assumption | apply keeps_ite | apply keeps_peerNote)
    | split | with_reducible apply keeps_mk

theorem keeps_gateReset {x1 x2 x3 x4 x5} (h : Keeps s₀ s) : Keeps s₀ (gateReset x1 x2 x3 x4 x5 s) := by
  unfold gateReset
  repeat' first
    | (with_reducible first | assumption | apply keeps_ite | apply keeps_epochFlip | apply keeps_peerTold | apply keeps_gateDiscard)
    | (extract_lets +onlyGivenNames x; first
        | (refine keeps_use (s₀ := s₀) x ?_ (fun hx => ?_); rotate_left; clear_value x; rotate_left; subst x) | clear_value x)
    | split

theorem keeps_paddockReset {x1} (h : Keeps s₀ s) : Keeps s₀ (paddockReset x1 s) := by
  unfold paddockReset
  repeat' first
    | with_reducible assumption | intro _
    | (with_reducible first | apply keeps_takeFree | apply keeps_gateReset | apply keeps_foldl)
    | (extract_lets +onlyGivenNames x; first
        | (refine keeps_use (s₀ := s₀) x ?_ (fun hx => ?_); rotate_left; clear_value x; rotate_left; subst x) | clear_value x)
    | split | refine keeps_snd (by with_reducible assumption) ?_


/-! ### Switch -/

theorem keeps_swCfgErr (h : Keeps s₀ s) : Keeps s₀ (swCfgErr s) :=
  keeps_setBit h

theorem keeps_fifoTake {x1} (h : Keeps s₀ s) : Keeps s₀ (fifoTake x1 s) := by
  unfold fifoTake
  repeat' first
    | (with_reducible first | assumption | apply keeps_ite | apply keeps_fifoEcc | apply keeps_fifoRead)
    | (extract_lets +onlyGivenNames x; first
        | (refine keeps_use (s₀ := s₀) x ?_ (fun hx => ?_); rotate_left; clear_value x; rotate_left; subst x) | clear_value x)
    | split | refine keeps_snd (by with_reducible assumption) ?_

theorem keeps_fifoCtlWrite {x1 x2 x3} (h : Keeps s₀ s) (hx3 : ∀ s, Keeps s₀ s → Keeps s₀ (x3 s)) : Keeps s₀ (fifoCtlWrite x1 x2 x3 s) := by
  unfold fifoCtlWrite
  repeat' first
    | with_reducible assumption | intro _
    | (with_reducible first | apply keeps_ite | apply keeps_setReg | apply keeps_fifoFlush | apply hx3)
    | (extract_lets +onlyGivenNames x; first
        | (refine keeps_use (s₀ := s₀) x ?_ (fun hx => ?_); rotate_left; clear_value x; rotate_left; subst x) | clear_value x)
    | split

theorem keeps_canRxCtlWrite {x1 x2} (h : Keeps s₀ s) : Keeps s₀ (canRxCtlWrite x1 x2 s) := by
  unfold canRxCtlWrite
  repeat' first
    | (with_reducible first | assumption | apply keeps_ite | apply keeps_canCfgErr | apply keeps_setReg | apply keeps_canRxFlush)
    | (extract_lets +onlyGivenNames x; first
        | (refine keeps_use (s₀ := s₀) x ?_ (fun hx => ?_); rotate_left; clear_value x; rotate_left; subst x) | clear_value x)
    | split

theorem keeps_parseBody {src x l p} (h : Keeps s₀ s) : Keeps s₀ (parseBody src x l p s).2 := by
  induction l generalizing s p with
  | nil => exact h
  | cons b r ih =>
    unfold parseBody
    repeat' first
      | with_reducible assumption | intro _
      | (with_reducible first | apply keeps_ite | apply keeps_parseChar | apply ih | apply keeps_foldl | apply keeps_getD)
      | (extract_lets +onlyGivenNames x; first
          | (refine keeps_use (s₀ := s₀) x ?_ (fun hx => ?_); rotate_left; clear_value x; rotate_left; subst x) | clear_value x)
      | split | refine keeps_snd (by with_reducible assumption) ?_ | refine keeps_some (by with_reducible assumption) ?_
      | with_reducible apply keeps_mk

theorem keeps_mailboxSentence {x1 x2 x3} (h : Keeps s₀ s) : Keeps s₀ (mailboxSentence x1 x2 x3 s).2 := by
  unfold mailboxSentence
  repeat' first
    | (with_reducible first | assumption | apply keeps_parseBody | apply keeps_setParser)
    | (extract_lets +onlyGivenNames x; first
        | (refine keeps_use (s₀ := s₀) x ?_ (fun hx => ?_); rotate_left; clear_value x; rotate_left; subst x) | clear_value x)
    | split | refine keeps_snd (by with_reducible assumption) ?_

theorem keeps_execPoolRsvWrite {x1} (h : Keeps s₀ s) : KeepsO s₀ (execPoolRsvWrite x1 s) := by
  unfold execPoolRsvWrite
  repeat' first
    | with_reducible assumption | intro _
    | (with_reducible first | apply keeps_ite | apply keeps_swCfgErr | apply keeps_poolNote | apply keeps_setReg | apply keepsO_next)
    | (extract_lets +onlyGivenNames x; first
        | (refine keeps_use (s₀ := s₀) x ?_ (fun hx => ?_); rotate_left; clear_value x; rotate_left; subst x) | clear_value x)
    | split

theorem keeps_swapBanks (h : Keeps s₀ s) : Keeps s₀ (swapBanks s) := by
  unfold swapBanks
  repeat' first
    | (with_reducible first | assumption | apply keeps_raise | apply keeps_trafInc | apply keeps_putBit)
    | (extract_lets +onlyGivenNames x; first
        | (refine keeps_use (s₀ := s₀) x ?_ (fun hx => ?_); rotate_left; clear_value x; rotate_left; subst x) | clear_value x)
    | with_reducible apply keeps_mk

theorem keeps_tblCtlWrite {x1} (h : Keeps s₀ s) : Keeps s₀ (tblCtlWrite x1 s) := by
  unfold tblCtlWrite
  repeat' first
    | (with_reducible first | assumption | apply keeps_ite | apply keeps_swCfgErr | apply keeps_putBit | apply keeps_swapBanks
                            | apply keeps_setBit)
    | (extract_lets +onlyGivenNames x; first
        | (refine keeps_use (s₀ := s₀) x ?_ (fun hx => ?_); rotate_left; clear_value x; rotate_left; subst x) | clear_value x)
    | split | with_reducible apply keeps_mk

theorem keeps_stageEntry {x1 x2 x3 x4 x5} (h : Keeps s₀ s) : KeepsOpt s₀ (stageEntry x1 x2 x3 x4 x5 s) := by
  unfold stageEntry
  repeat' first
    | (with_reducible first | assumption | apply keeps_ite | apply keeps_tblReplace | apply keeps_rtdPut | apply keepsOpt_some)
    | (extract_lets +onlyGivenNames x; first
        | (refine keeps_use (s₀ := s₀) x ?_ (fun hx => ?_); rotate_left; clear_value x; rotate_left; subst x) | clear_value x)
    | split | exact keepsOpt_none

theorem keeps_stgCmdWrite {x1} (h : Keeps s₀ s) : Keeps s₀ (stgCmdWrite x1 s) := by
  unfold stgCmdWrite
  repeat' first
    | with_reducible assumption | intro _
    | (with_reducible first | apply keeps_ite | apply keeps_setReg | apply keeps_swCfgErr | apply keeps_stageEntry | apply keeps_clrBit
                            | apply keeps_setBit | apply keepsOpt_some)
    | (extract_lets +onlyGivenNames x; first
        | (refine keeps_use (s₀ := s₀) x ?_ (fun hx => ?_); rotate_left; clear_value x; rotate_left; subst x) | clear_value x)
    | split | refine keeps_some (by with_reducible assumption) ?_

theorem keeps_hitMeets {x1 x2} (h : Keeps s₀ s) : Keeps s₀ (hitMeets x1 x2 s) := by
  unfold hitMeets
  repeat' first
    | (with_reducible first | assumption | apply keeps_tblPut)
    | split

end Sys2Proof.Machine
end

