-- ==== Sys2Proof/Laws/KeepsTime.lean ====
section
/-!
SUPPORT. What the operations of the time unit and the discrete lines keep (`Keeps`).
-/
namespace Sys2Proof.Machine

variable {s₀ s : State}

/-! ### Time -/

theorem keeps_timeCfgErr (h : Keeps s₀ s) : Keeps s₀ (timeCfgErr s) :=
  keeps_setBit h

theorem keeps_setTime {x1} (h : Keeps s₀ s) : Keeps s₀ (setTime s x1) := by
  unfold setTime
  repeat' first
    | (with_reducible first | assumption)
    | with_reducible apply keeps_mk

theorem keeps_timeTick (h : Keeps s₀ s) : Keeps s₀ (timeTick s) := by
  unfold timeTick
  repeat' first
    | with_reducible assumption | intro _
    | (with_reducible first | apply keeps_setTime)
    | (extract_lets +onlyGivenNames x; first
        | (refine keeps_use (s₀ := s₀) x ?_ (fun hx => ?_); rotate_left; clear_value x; rotate_left; subst x) | clear_value x)
    | with_reducible apply keeps_mk

theorem keeps_setLoop {x1} (h : Keeps s₀ s) : Keeps s₀ (setLoop s x1) :=
  keeps_setFld h

theorem keeps_enterAcq (h : Keeps s₀ s) : Keeps s₀ (enterAcq s) := by
  unfold enterAcq
  repeat' first
    | with_reducible assumption | intro _
    | (with_reducible first | apply keeps_setTime | apply keeps_clrBit | apply keeps_setLoop)
    | with_reducible apply keeps_mk

theorem keeps_timeMiss (h : Keeps s₀ s) : Keeps s₀ (timeMiss s) := by
  unfold timeMiss
  repeat' first
    | with_reducible assumption | intro _
    | (with_reducible first | apply keeps_ite | apply keeps_raise | apply keeps_setBit | apply keeps_errInc | apply keeps_setTime
                            | apply keeps_enterAcq)
    | (extract_lets +onlyGivenNames x; first
        | (refine keeps_use (s₀ := s₀) x ?_ (fun hx => ?_); rotate_left; clear_value x; rotate_left; subst x) | clear_value x)
    | split | with_reducible apply keeps_mk

theorem keeps_setOffset {x1} (h : Keeps s₀ s) : Keeps s₀ (setOffset x1 s) := by
  unfold setOffset
  repeat' first
    | (with_reducible first | assumption | apply keeps_ite | apply keeps_setReg | apply keeps_takeFree)
    | (extract_lets +onlyGivenNames x; first
        | (refine keeps_use (s₀ := s₀) x ?_ (fun hx => ?_); rotate_left; clear_value x; rotate_left; subst x) | clear_value x)
    | split | refine keeps_snd (by with_reducible assumption) ?_

theorem keeps_stepRule {x1} (h : Keeps s₀ s) : Keeps s₀ (stepRule x1 s).2 := by
  unfold stepRule
  repeat' first
    | with_reducible assumption | intro _
    | (with_reducible first | apply keeps_ite | apply keeps_setTime | apply keeps_clrBit | apply keeps_setLoop | apply keeps_raise
                            | apply keeps_setBit | apply keeps_errInc)
    | (extract_lets +onlyGivenNames x; first
        | (refine keeps_use (s₀ := s₀) x ?_ (fun hx => ?_); rotate_left; clear_value x; rotate_left; subst x) | clear_value x)
    | split | with_reducible apply keeps_mk

theorem keeps_slew {x1} (h : Keeps s₀ s) : Keeps s₀ (slew x1 s) := by
  unfold slew
  repeat' first
    | with_reducible assumption | intro _
    | (with_reducible first | apply keeps_setLoop | apply keeps_setTime)
    | (extract_lets +onlyGivenNames x; first
        | (refine keeps_use (s₀ := s₀) x ?_ (fun hx => ?_); rotate_left; clear_value x; rotate_left; subst x) | clear_value x)
    | with_reducible apply keeps_mk

theorem keeps_sampleTaken {x1} (h : Keeps s₀ s) : Keeps s₀ (sampleTaken x1 s) := by
  unfold sampleTaken
  repeat' first
    | with_reducible assumption | intro _
    | (with_reducible first | apply keeps_setTime | apply keeps_raise | apply keeps_setOffset | apply keeps_trafInc)
    | with_reducible apply keeps_mk

theorem keeps_loopSample {x1} (h : Keeps s₀ s) : Keeps s₀ (loopSample x1 s) := by
  unfold loopSample
  repeat' first
    | (with_reducible first | assumption | apply keeps_ite | apply keeps_stepRule | apply keeps_sampleTaken | apply keeps_slew)
    | (extract_lets +onlyGivenNames x; first
        | (refine keeps_use (s₀ := s₀) x ?_ (fun hx => ?_); rotate_left; clear_value x; rotate_left; subst x) | clear_value x)
    | split | refine keeps_snd (by with_reducible assumption) ?_

theorem keeps_shutPut {x1 x2} (h : Keeps s₀ s) : Keeps s₀ (shutPut x1 x2 s) := by
  unfold shutPut
  repeat' first
    | with_reducible assumption | intro _
    | (with_reducible first | apply keeps_ite | apply keeps_setTime | apply keeps_raise | apply keeps_errInc | apply keeps_setBit)
    | (extract_lets +onlyGivenNames x; first
        | (refine keeps_use (s₀ := s₀) x ?_ (fun hx => ?_); rotate_left; clear_value x; rotate_left; subst x) | clear_value x)
    | split | with_reducible apply keeps_mk

theorem keeps_shutPutCount {x1 x2} (h : Keeps s₀ s) : Keeps s₀ (shutPutCount x1 x2 s) := by
  unfold shutPutCount
  repeat' first
    | with_reducible assumption | intro _
    | (with_reducible first | apply keeps_shutPut | apply keeps_setTime)
    | split | with_reducible apply keeps_mk

theorem keeps_shutCtlWrite {x1} (h : Keeps s₀ s) : Keeps s₀ (shutCtlWrite x1 s) := by
  unfold shutCtlWrite
  repeat' first
    | with_reducible assumption | intro _
    | (with_reducible first | apply keeps_ite | apply keeps_timeCfgErr | apply keeps_setReg | apply keeps_setTime)
    | (extract_lets +onlyGivenNames x; first
        | (refine keeps_use (s₀ := s₀) x ?_ (fun hx => ?_); rotate_left; clear_value x; rotate_left; subst x) | clear_value x)
    | split | with_reducible apply keeps_mk

theorem keeps_shutRead (h : Keeps s₀ s) : Keeps s₀ (shutRead s).2 := by
  unfold shutRead
  repeat' first
    | with_reducible assumption | intro _
    | (with_reducible first | apply keeps_setTime | apply keeps_setBit)
    | split | with_reducible apply keeps_mk

theorem keeps_ftShift {x1} (h : Keeps s₀ s) : Keeps s₀ (ftShift x1 s) := by
  unfold ftShift
  repeat' first
    | with_reducible assumption | intro _
    | (with_reducible first | apply keeps_setTime)
    | with_reducible apply keeps_mk

theorem keeps_launchLoad (h : Keeps s₀ s) : Keeps s₀ (launchLoad s) := by
  unfold launchLoad
  repeat' first
    | (with_reducible first | assumption | apply keeps_ftShift)
    | (extract_lets +onlyGivenNames x; first
        | (refine keeps_use (s₀ := s₀) x ?_ (fun hx => ?_); rotate_left; clear_value x; rotate_left; subst x) | clear_value x)
    | split

theorem keeps_launchLeap (h : Keeps s₀ s) : Keeps s₀ (launchLeap s).2 := by
  unfold launchLeap
  repeat' first
    | (with_reducible first | assumption | apply keeps_ite | apply keeps_ftShift | apply keeps_raise | apply keeps_setBit
                            | apply keeps_clrBit)
    | (extract_lets +onlyGivenNames x; first
        | (refine keeps_use (s₀ := s₀) x ?_ (fun hx => ?_); rotate_left; clear_value x; rotate_left; subst x) | clear_value x)
    | split

theorem keeps_refreshPulse {x1 x2} (h : Keeps s₀ s) : Keeps s₀ (refreshPulse x1 x2 s) := by
  unfold refreshPulse
  repeat' first
    | with_reducible assumption | intro _
    | (with_reducible first | apply keeps_ite | apply keeps_gatePulse | apply keeps_setTime | apply keeps_raise)
    | (extract_lets +onlyGivenNames x; first
        | (refine keeps_use (s₀ := s₀) x ?_ (fun hx => ?_); rotate_left; clear_value x; rotate_left; subst x) | clear_value x)
    | split | refine keeps_fst (by with_reducible assumption) ?_ | with_reducible apply keeps_mk

theorem keeps_pairTake {x1 x2 x3} (h : Keeps s₀ s) : Keeps s₀ (pairTake x1 x2 x3 s) := by
  unfold pairTake
  repeat' first
    | with_reducible assumption | intro _
    | (with_reducible first | apply keeps_ite | apply keeps_setTime | apply keeps_shutPutCount | apply keeps_foldl)
    | (extract_lets +onlyGivenNames x; first
        | (refine keeps_use (s₀ := s₀) x ?_ (fun hx => ?_); rotate_left; clear_value x; rotate_left; subst x) | clear_value x)
    | split | with_reducible apply keeps_mk

theorem keeps_setCmdWrite {x1} (h : Keeps s₀ s) : Keeps s₀ (setCmdWrite x1 s) := by
  unfold setCmdWrite
  repeat' first
    | with_reducible assumption | intro _
    | (with_reducible first | apply keeps_ite | apply keeps_setFld | apply keeps_timeCfgErr | apply keeps_setBit | apply keeps_setReg
                            | apply keeps_setTime)
    | (extract_lets +onlyGivenNames x; first
        | (refine keeps_use (s₀ := s₀) x ?_ (fun hx => ?_); rotate_left; clear_value x; rotate_left; subst x) | clear_value x)
    | split | with_reducible apply keeps_mk

theorem keeps_nowLoRead (h : Keeps s₀ s) : Keeps s₀ (nowLoRead s).2 := by
  unfold nowLoRead
  repeat' first
    | (with_reducible first | assumption | apply keeps_setReg)

theorem keeps_timeCtlWrite {x1} (h : Keeps s₀ s) : Keeps s₀ (timeCtlWrite x1 s) := by
  unfold timeCtlWrite
  repeat' first
    | with_reducible assumption | intro _
    | (with_reducible first | apply keeps_ite | apply keeps_timeCfgErr | apply keeps_setReg | apply keeps_putBit | apply keeps_clrBit
                            | apply keeps_enterAcq | apply keeps_setTime | apply keeps_setLoop)
    | (extract_lets +onlyGivenNames x; first
        | (refine keeps_use (s₀ := s₀) x ?_ (fun hx => ?_); rotate_left; clear_value x; rotate_left; subst x) | clear_value x)
    | split | with_reducible apply keeps_mk

theorem keeps_timeRateWrite {x1} (h : Keeps s₀ s) : Keeps s₀ (timeRateWrite x1 s) := by
  unfold timeRateWrite
  repeat' first
    | with_reducible assumption | intro _
    | (with_reducible first | apply keeps_ite | apply keeps_timeCfgErr | apply keeps_setTime)
    | split | with_reducible apply keeps_mk

theorem keeps_leapCtlWrite {x1} (h : Keeps s₀ s) : Keeps s₀ (leapCtlWrite x1 s) := by
  unfold leapCtlWrite
  repeat' first
    | with_reducible assumption | intro _
    | (with_reducible first | apply keeps_setReg | apply keeps_setTime)
    | (extract_lets +onlyGivenNames x; first
        | (refine keeps_use (s₀ := s₀) x ?_ (fun hx => ?_); rotate_left; clear_value x; rotate_left; subst x) | clear_value x)
    | with_reducible apply keeps_mk

theorem keeps_takeAtSample {x1} (h : Keeps s₀ s) : Keeps s₀ (takeAtSample x1 s) := by
  unfold takeAtSample
  repeat' first
    | with_reducible assumption | intro _
    | (with_reducible first | apply keeps_setTime)
    | split | with_reducible apply keeps_mk

theorem keeps_acqEdge {x1 x2 x3 x4} (h : Keeps s₀ s) : Keeps s₀ (acqEdge x1 x2 x3 x4 s).2 := by
  unfold acqEdge
  repeat' first
    | with_reducible assumption | intro _
    | (with_reducible first | apply keeps_ite | apply keeps_setTime | apply keeps_loopSample | apply keeps_takeAtSample
                            | apply keeps_stepRule | apply keeps_sampleTaken | apply keeps_setLoop | apply keepsOpt_some)
    | (extract_lets +onlyGivenNames x; first
        | (refine keeps_use (s₀ := s₀) x ?_ (fun hx => ?_); rotate_left; clear_value x; rotate_left; subst x) | clear_value x)
    | split | refine keeps_snd (by with_reducible assumption) ?_ | with_reducible apply keeps_mk

theorem keeps_lockEdge {x1 x2} (h : Keeps s₀ s) : Keeps s₀ (lockEdge x1 x2 s).2 := by
  unfold lockEdge
  repeat' first
    | with_reducible assumption | intro _
    | (with_reducible first | apply keeps_ite | apply keeps_raise | apply keeps_setBit | apply keeps_errInc | apply keeps_loopSample
                            | apply keeps_takeAtSample | apply keeps_setTime | apply keepsOpt_some)
    | split | with_reducible apply keeps_mk

theorem keeps_ringTake {x1 x2} (h : Keeps s₀ s) : Keeps s₀ (ringTake x1 x2 s).2 := by
  unfold ringTake
  repeat' first
    | with_reducible assumption | intro _

    | split | with_reducible apply keeps_mk

theorem keeps_setPd {x1 x2} (h : Keeps s₀ s) : Keeps s₀ (setPd x1 x2 s) := by
  unfold setPd
  repeat' first
    | with_reducible assumption | intro _
    | (with_reducible first | apply keeps_setTime)
    | with_reducible apply keeps_mk


/-! ### Discrete -/

theorem keeps_dlNote {u} (h : Keeps s₀ s) : Keeps s₀ (dlNote u s) := by
  unfold dlNote
  repeat' first
    | with_reducible assumption | intro _
    | (with_reducible first | apply keeps_ite | apply keeps_raise | apply keeps_foldl | apply keeps_getD)
    | (extract_lets +onlyGivenNames x; first
        | (refine keeps_use (s₀ := s₀) x ?_ (fun hx => ?_); rotate_left; clear_value x; rotate_left; subst x) | clear_value x)
    | split | refine keeps_snd (by with_reducible assumption) ?_ | refine keeps_some (by with_reducible assumption) ?_
    | with_reducible apply keeps_mk

theorem keeps_dlCfgErr {x1} (h : Keeps s₀ s) : Keeps s₀ (dlCfgErr x1 s) := by
  unfold dlCfgErr
  repeat' first
    | (with_reducible first | assumption | apply keeps_timeCfgErr | apply keeps_setBit)

theorem keeps_dlShutApply (h : Keeps s₀ s) : Keeps s₀ (dlShutApply s) := by
  unfold dlShutApply
  repeat' first
    | (with_reducible first | assumption | apply keeps_ite)
    | split | with_reducible apply keeps_mk

theorem keeps_dlCount {x1} (h : Keeps s₀ s) : Keeps s₀ (dlCount x1 s) := by
  unfold dlCount
  repeat' first
    | (with_reducible first | assumption | apply keeps_ite | apply keeps_trafInc | apply keeps_setBit | apply keeps_setReg)
    | (extract_lets +onlyGivenNames x; first
        | (refine keeps_use (s₀ := s₀) x ?_ (fun hx => ?_); rotate_left; clear_value x; rotate_left; subst x) | clear_value x)
    | split

theorem keeps_dlResult {x1 x2} (h : Keeps s₀ s) : Keeps s₀ (dlResult x1 x2 s) := by
  unfold dlResult
  repeat' first
    | (with_reducible first | assumption | apply keeps_setReg | apply keeps_trafInc)

theorem keeps_dlPeriod {x1 x2} (h : Keeps s₀ s) : Keeps s₀ (dlPeriod x1 x2 s) := by
  unfold dlPeriod
  repeat' first
    | (with_reducible first | assumption | apply keeps_ite | apply keeps_setDl | apply keeps_dlResult)
    | (extract_lets +onlyGivenNames x; first
        | (refine keeps_use (s₀ := s₀) x ?_ (fun hx => ?_); rotate_left; clear_value x; rotate_left; subst x) | clear_value x)
    | split | with_reducible apply keeps_mk

theorem keeps_dlAccept {x1} (h : Keeps s₀ s) : Keeps s₀ (dlAccept x1 s) := by
  unfold dlAccept
  repeat' first
    | (with_reducible first | assumption | apply keeps_ite | apply keeps_setDl | apply keeps_shutPutCount | apply keeps_dlCount
                            | apply keeps_dlPeriod | apply keeps_dlShutApply)
    | (extract_lets +onlyGivenNames x; first
        | (refine keeps_use (s₀ := s₀) x ?_ (fun hx => ?_); rotate_left; clear_value x; rotate_left; subst x) | clear_value x)
    | split | with_reducible apply keeps_mk

theorem keeps_dlRawEdge {x1 x2} (h : Keeps s₀ s) : Keeps s₀ (dlRawEdge x1 x2 s) := by
  unfold dlRawEdge
  repeat' first
    | (with_reducible first | assumption | apply keeps_ite | apply keeps_dlShutApply | apply keeps_setDl | apply keeps_dlAgree
                            | apply keeps_dlAccept)
    | (extract_lets +onlyGivenNames x; first
        | (refine keeps_use (s₀ := s₀) x ?_ (fun hx => ?_); rotate_left; clear_value x; rotate_left; subst x) | clear_value x)
    | split | with_reducible apply keeps_mk

theorem keeps_dlTimes {x1} (h : Keeps s₀ s) : Keeps s₀ (dlTimes x1 s) := by
  unfold dlTimes
  repeat' first
    | (with_reducible first | assumption | apply keeps_setDl)
    | with_reducible apply keeps_mk

theorem keeps_dlPwmStart {x1} (h : Keeps s₀ s) : Keeps s₀ (dlPwmStart x1 s) := by
  unfold dlPwmStart
  repeat' first
    | (with_reducible first | assumption | apply keeps_dlTimes | apply keeps_dlAgree | apply keeps_setDl)
    | (extract_lets +onlyGivenNames x; first
        | (refine keeps_use (s₀ := s₀) x ?_ (fun hx => ?_); rotate_left; clear_value x; rotate_left; subst x) | clear_value x)
    | with_reducible apply keeps_mk

theorem keeps_dlToggle {x1} (h : Keeps s₀ s) : Keeps s₀ (dlToggle x1 s) := by
  unfold dlToggle
  repeat' first
    | (with_reducible first | assumption | apply keeps_dlTimes | apply keeps_dlAgree | apply keeps_setDl)
    | (extract_lets +onlyGivenNames x; first
        | (refine keeps_use (s₀ := s₀) x ?_ (fun hx => ?_); rotate_left; clear_value x; rotate_left; subst x) | clear_value x)
    | with_reducible apply keeps_mk

theorem keeps_dlFeed {x1} (h : Keeps s₀ s) : Keeps s₀ (dlFeed x1 s) := by
  unfold dlFeed
  repeat' first
    | (with_reducible first | assumption | apply keeps_ite | apply keeps_dlToggle | apply keeps_setDl | apply keeps_setBit)
    | split | with_reducible apply keeps_mk

theorem keeps_dlModeChange {x1} (h : Keeps s₀ s) : Keeps s₀ (dlModeChange x1 s) := by
  unfold dlModeChange
  repeat' first
    | (with_reducible first | assumption | apply keeps_ite | apply keeps_dlTimes | apply keeps_clrBit | apply keeps_dlPwmStart
                            | apply keeps_dlAgree)
    | (extract_lets +onlyGivenNames x; first
        | (refine keeps_use (s₀ := s₀) x ?_ (fun hx => ?_); rotate_left; clear_value x; rotate_left; subst x) | clear_value x)
    | split

theorem keeps_dlCfgWrite {x1 x2} (h : Keeps s₀ s) : Keeps s₀ (dlCfgWrite x1 x2 s) := by
  unfold dlCfgWrite
  repeat' first
    | (with_reducible first | assumption | apply keeps_ite | apply keeps_dlCfgErr | apply keeps_setReg | apply keeps_setDl
                            | apply keeps_dlModeChange | apply keeps_dlAgree | apply keeps_dlShutApply)
    | (extract_lets +onlyGivenNames x; first
        | (refine keeps_use (s₀ := s₀) x ?_ (fun hx => ?_); rotate_left; clear_value x; rotate_left; subst x) | clear_value x)
    | split | with_reducible apply keeps_mk

theorem keeps_dlShutDebWrite {x1} (h : Keeps s₀ s) : Keeps s₀ (dlShutDebWrite x1 s) := by
  unfold dlShutDebWrite
  repeat' first
    | (with_reducible first | assumption | apply keeps_dlShutApply | apply keeps_setReg)

theorem keeps_dlOutWrite {x1} (h : Keeps s₀ s) : Keeps s₀ (dlOutWrite x1 s) := by
  unfold dlOutWrite
  repeat' first
    | (with_reducible first | assumption | apply keeps_dlAgreeAll | apply keeps_setReg)

theorem keeps_dlOp {x1 x2} (h : Keeps s₀ s) : Keeps s₀ (dlOp x1 x2 s) := by
  unfold dlOp
  repeat' first
    | with_reducible assumption | intro _
    | (with_reducible first | apply keeps_ite | apply keeps_dlOutWrite | apply keeps_dlFeed | apply keeps_foldl)
    | (extract_lets +onlyGivenNames x; first
        | (refine keeps_use (s₀ := s₀) x ?_ (fun hx => ?_); rotate_left; clear_value x; rotate_left; subst x) | clear_value x)
    | split

theorem keeps_dlStarve {x1} (h : Keeps s₀ s) : Keeps s₀ (dlStarve s x1) := by
  unfold dlStarve
  repeat' first
    | (with_reducible first | assumption | apply keeps_ite | apply keeps_dlAgree | apply keeps_setBit | apply keeps_clrBit)
    | split

theorem keeps_dlFault {x1} (h : Keeps s₀ s) : Keeps s₀ (dlFault s x1) := by
  unfold dlFault
  repeat' first
    | (with_reducible first | assumption | apply keeps_ite | apply keeps_setBit | apply keeps_setDl)
    | (extract_lets +onlyGivenNames x; first
        | (refine keeps_use (s₀ := s₀) x ?_ (fun hx => ?_); rotate_left; clear_value x; rotate_left; subst x) | clear_value x)
    | split | with_reducible apply keeps_mk

theorem keeps_dlWrite {x1 x2} (h : Keeps s₀ s) : KeepsOpt s₀ (dlWrite x1 x2 s) := by
  unfold dlWrite
  repeat' first
    | (with_reducible first | assumption | apply keeps_ite | apply keeps_dlOutWrite | apply keeps_dlOp | apply keeps_dlShutDebWrite
                            | apply keeps_dlCfgWrite | apply keeps_dlCfgErr | apply keepsOpt_some)
    | (extract_lets +onlyGivenNames x; first
        | (refine keeps_use (s₀ := s₀) x ?_ (fun hx => ?_); rotate_left; clear_value x; rotate_left; subst x) | clear_value x)
    | split | exact keepsOpt_none

end Sys2Proof.Machine
end

