-- ==== Sys2Proof/Laws/KeepsRing.lean ====
section
/-!
SUPPORT. What the operations of the engine contexts and the ring keep (`Keeps`).
-/
namespace Sys2Proof.Machine

variable {s₀ s : State}

/-! ### Engine -/

theorem keeps_setEng {x1 x2} (h : Keeps s₀ s) : Keeps s₀ (setEng s x1 x2) := by
  unfold setEng
  repeat' first
    | with_reducible assumption | intro _

    | with_reducible apply keeps_mk

theorem keeps_setCtx {x1 x2 x3} (h : Keeps s₀ s) : Keeps s₀ (setCtx x1 x2 x3 s) := by
  unfold setCtx
  repeat' first
    | with_reducible assumption | intro _
    | (with_reducible first | apply keeps_setEng)
    | with_reducible apply keeps_mk

theorem keeps_engFlag {x1 x2} (h : Keeps s₀ s) : Keeps s₀ (engFlag x1 x2 s) :=
  keeps_stickyEn h

theorem keeps_budgetTick (h : Keeps s₀ s) : Keeps s₀ (budgetTick s) := by
  unfold budgetTick
  repeat' first
    | with_reducible assumption | intro _
    | (with_reducible first | apply keeps_ite)
    | split | with_reducible apply keeps_mk

theorem keeps_atBoundary {x1 x2} (h : Keeps s₀ s) : Keeps s₀ (atBoundary x1 x2 s) := by
  unfold atBoundary
  repeat' first
    | (with_reducible first | assumption | apply keeps_setCtx)
    | (extract_lets +onlyGivenNames x; first
        | (refine keeps_use (s₀ := s₀) x ?_ (fun hx => ?_); rotate_left; clear_value x; rotate_left; subst x) | clear_value x)
    | with_reducible apply keeps_mk

theorem keeps_endHandler {x1 x2} (h : Keeps s₀ s) : Keeps s₀ (endHandler x1 x2 s) := by
  unfold endHandler
  repeat' first
    | (with_reducible first | assumption | apply keeps_releaseRef | apply keeps_setCtx)
    | split | with_reducible apply keeps_mk

theorem keeps_dropAbort {x1 x2} (h : Keeps s₀ s) : Keeps s₀ (dropAbort x1 x2 s) := by
  unfold dropAbort
  repeat' first
    | (with_reducible first | assumption | apply keeps_ite | apply keeps_endHandler | apply keeps_errInc)
    | split

theorem keeps_takeExc {x1 x2 x3 x4 x5} (h : Keeps s₀ s) : Keeps s₀ (takeExc x1 x2 x3 x4 x5 s) := by
  unfold takeExc
  repeat' first
    | (with_reducible first | assumption | apply keeps_ite | apply keeps_setCtx | apply keeps_errInc | apply keeps_engFlag
                            | apply keeps_dropAbort | apply keeps_atBoundary)
    | (extract_lets +onlyGivenNames x; first
        | (refine keeps_use (s₀ := s₀) x ?_ (fun hx => ?_); rotate_left; clear_value x; rotate_left; subst x) | clear_value x)
    | split | with_reducible apply keeps_mk

theorem keeps_engCfgErr {x1} (h : Keeps s₀ s) : Keeps s₀ (engCfgErr x1 s) :=
  keeps_engFlag h

theorem keeps_ctxStart {x1 x2} (h : Keeps s₀ s) : Keeps s₀ (ctxStart x1 x2 s) := by
  unfold ctxStart
  repeat' first
    | (with_reducible first | assumption | apply keeps_atBoundary | apply keeps_setCtx)
    | with_reducible apply keeps_mk

theorem keeps_ctxStop {x1 x2} (h : Keeps s₀ s) : Keeps s₀ (ctxStop x1 x2 s) := by
  unfold ctxStop
  repeat' first
    | (with_reducible first | assumption | apply keeps_setCtx | apply keeps_atBoundary | apply keeps_dropAbort)
    | (extract_lets +onlyGivenNames x; first
        | (refine keeps_use (s₀ := s₀) x ?_ (fun hx => ?_); rotate_left; clear_value x; rotate_left; subst x) | clear_value x)
    | with_reducible apply keeps_mk

theorem keeps_ctxCtlWrite {x1 x2 x3} (h : Keeps s₀ s) : Keeps s₀ (ctxCtlWrite x1 x2 x3 s) := by
  unfold ctxCtlWrite
  repeat' first
    | (with_reducible first | assumption | apply keeps_ite | apply keeps_engCfgErr | apply keeps_setReg | apply keeps_atBoundary
                            | apply keeps_ctxStart | apply keeps_ctxStop)
    | (extract_lets +onlyGivenNames x; first
        | (refine keeps_use (s₀ := s₀) x ?_ (fun hx => ?_); rotate_left; clear_value x; rotate_left; subst x) | clear_value x)
    | split

theorem keeps_engCtlWrite {x1 x2} (h : Keeps s₀ s) : Keeps s₀ (engCtlWrite x1 x2 s) := by
  unfold engCtlWrite
  repeat' first
    | with_reducible assumption | intro _
    | (with_reducible first | apply keeps_ite | apply keeps_engCfgErr | apply keeps_setReg | apply keeps_setCtx | apply keeps_foldl)
    | (extract_lets +onlyGivenNames x; first
        | (refine keeps_use (s₀ := s₀) x ?_ (fun hx => ?_); rotate_left; clear_value x; rotate_left; subst x) | clear_value x)
    | split | with_reducible apply keeps_mk

theorem keeps_engWrite {x1 x2 x3} (h : Keeps s₀ s) : KeepsOpt s₀ (engWrite x1 x2 x3 s) := by
  unfold engWrite
  repeat' first
    | (with_reducible first | assumption | apply keeps_ite | apply keeps_engCtlWrite | apply keeps_engCfgErr | apply keeps_ctxCtlWrite
                            | apply keeps_setCtx | apply keepsOpt_some)
    | (extract_lets +onlyGivenNames x; first
        | (refine keeps_use (s₀ := s₀) x ?_ (fun hx => ?_); rotate_left; clear_value x; rotate_left; subst x) | clear_value x)
    | split | exact keepsOpt_none | with_reducible apply keeps_mk

theorem keeps_selectCtx {x1 x2 x3} (h : Keeps s₀ s) : Keeps s₀ (selectCtx x1 x2 x3 s) := by
  unfold selectCtx
  repeat' first
    | (with_reducible first | assumption | apply keeps_setCtx | apply keeps_setEng)
    | (extract_lets +onlyGivenNames x; first
        | (refine keeps_use (s₀ := s₀) x ?_ (fun hx => ?_); rotate_left; clear_value x; rotate_left; subst x) | clear_value x)
    | split | with_reducible apply keeps_mk

theorem keeps_schedule {x1} (h : Keeps s₀ s) : Keeps s₀ (schedule x1 s) := by
  unfold schedule
  repeat' first
    | (with_reducible first | assumption | apply keeps_selectCtx)
    | split

theorem keeps_completeWait {x1 x2 x3} (h : Keeps s₀ s) : Keeps s₀ (completeWait x1 x2 x3 s) := by
  unfold completeWait
  repeat' first
    | (with_reducible first | assumption | apply keeps_atBoundary | apply keeps_setCtx)
    | (extract_lets +onlyGivenNames x; first
        | (refine keeps_use (s₀ := s₀) x ?_ (fun hx => ?_); rotate_left; clear_value x; rotate_left; subst x) | clear_value x)
    | with_reducible apply keeps_mk

theorem keeps_wakeCond {x1 x2 x3} (h : Keeps s₀ s) : KeepsOptP s₀ (wakeCond x1 x2 x3 s) := by
  unfold wakeCond
  repeat' first
    | with_reducible assumption | intro _
    | (with_reducible first | apply keeps_ite | apply keepsOptP_some)
    | split | exact keepsOptP_none | with_reducible apply keeps_mk

theorem keeps_waitEnds {x1 x2 x3} (h : Keeps s₀ s) : Keeps s₀ (waitEnds x1 x2 x3 s) := by
  unfold waitEnds
  repeat' first
    | (with_reducible first | assumption | apply keeps_ite | apply keeps_wakeCond | apply keeps_completeWait)
    | split | refine keeps_someP (by with_reducible assumption) ?_

theorem keeps_stallEnd {x1} (h : Keeps s₀ s) : Keeps s₀ (stallEnd x1 s) := by
  unfold stallEnd
  repeat' first
    | with_reducible assumption | intro _
    | (with_reducible first | apply keeps_ite | apply keeps_waitEnds | apply keeps_foldl)
    | split

theorem keeps_iqPop {x1 x2} (h : Keeps s₀ s) : Keeps s₀ (iqPop x1 x2 s) := by
  unfold iqPop
  repeat' first
    | (with_reducible first | assumption | apply keeps_setEng)
    | split | with_reducible apply keeps_mk

theorem keeps_dispatchTo {x1 x2 x3 x4} (h : Keeps s₀ s) : Keeps s₀ (dispatchTo x1 x2 x3 x4 s) := by
  unfold dispatchTo
  repeat' first
    | (with_reducible first | assumption | apply keeps_setCtx | apply keeps_eccClean | apply keeps_trafInc | apply keeps_completeWait)
    | (extract_lets +onlyGivenNames x; first
        | (refine keeps_use (s₀ := s₀) x ?_ (fun hx => ?_); rotate_left; clear_value x; rotate_left; subst x) | clear_value x)
    | with_reducible apply keeps_mk

theorem keeps_dispatch {l n} (h : Keeps s₀ s) : Keeps s₀ (dispatch l n s) := by
  induction n generalizing s with
  | zero => exact h
  | succ n ih =>
    unfold dispatch
    repeat' first
      | with_reducible assumption | intro _
      | (with_reducible first | apply keeps_ite | apply keeps_iqPop | apply keeps_engFlag | apply keeps_errInc | apply keeps_releaseRef
                              | apply keeps_eccRead | apply keeps_dispatchTo | apply ih | apply keeps_foldl | apply keeps_getD)
      | (extract_lets +onlyGivenNames x; first
          | (refine keeps_use (s₀ := s₀) x ?_ (fun hx => ?_); rotate_left; clear_value x; rotate_left; subst x) | clear_value x)
      | split | refine keeps_snd (by with_reducible assumption) ?_ | refine keeps_some (by with_reducible assumption) ?_
      | with_reducible apply keeps_mk

theorem keeps_blockOn {x1 x2 x3} (h : Keeps s₀ s) : Keeps s₀ (blockOn x1 x2 x3 s) := by
  unfold blockOn
  repeat' first
    | (with_reducible first | assumption | apply keeps_setEng | apply keeps_setCtx)
    | (extract_lets +onlyGivenNames x; first
        | (refine keeps_use (s₀ := s₀) x ?_ (fun hx => ?_); rotate_left; clear_value x; rotate_left; subst x) | clear_value x)
    | with_reducible apply keeps_mk

theorem keeps_respond {x1 x2 x3 x4} (h : Keeps s₀ s) : Keeps s₀ (respond x1 x2 x3 x4 s) := by
  unfold respond
  repeat' first
    | (with_reducible first | assumption | apply keeps_ite | apply keeps_setCtx)
    | split | with_reducible apply keeps_mk

theorem keeps_applyRes {x1 x2 x3 x4} (h : Keeps s₀ s) : Keeps s₀ (applyRes x1 x2 x3 x4 s) := by
  unfold applyRes
  repeat' first
    | with_reducible assumption | intro _
    | (with_reducible first | apply keeps_takeExc | apply keeps_memWrite | apply keeps_eccClean | apply keeps_atBoundary
                            | apply keeps_setCtx | apply keeps_foldl)
    | (extract_lets +onlyGivenNames x; first
        | (refine keeps_use (s₀ := s₀) x ?_ (fun hx => ?_); rotate_left; clear_value x; rotate_left; subst x) | clear_value x)
    | split | with_reducible apply keeps_mk


/-! ### Ring -/

theorem keeps_setRing {x1} (h : Keeps s₀ s) : Keeps s₀ (setRing s x1) := by
  unfold setRing
  repeat' first
    | with_reducible assumption | intro _

    | with_reducible apply keeps_mk

theorem keeps_setLnk {x1 x2} (h : Keeps s₀ s) : Keeps s₀ (setLnk x1 x2 s) := by
  unfold setLnk
  repeat' first
    | with_reducible assumption | intro _
    | (with_reducible first | apply keeps_setRing)
    | with_reducible apply keeps_mk

theorem keeps_setTx {x1 x2} (h : Keeps s₀ s) : Keeps s₀ (setTx x1 x2 s) := by
  unfold setTx
  repeat' first
    | with_reducible assumption | intro _
    | (with_reducible first | apply keeps_setRing)
    | with_reducible apply keeps_mk

theorem keeps_setFwd {x1 x2} (h : Keeps s₀ s) : Keeps s₀ (setFwd x1 x2 s) := by
  unfold setFwd
  repeat' first
    | with_reducible assumption | intro _
    | (with_reducible first | apply keeps_setRing)
    | with_reducible apply keeps_mk

theorem keeps_nbrClear {x1} (h : Keeps s₀ s) : Keeps s₀ (nbrClear x1 s) := by
  unfold nbrClear
  repeat' first
    | (with_reducible first | assumption | apply keeps_ite | apply keeps_mgrSet | apply keeps_clrBit)
    | (extract_lets +onlyGivenNames x; first
        | (refine keeps_use (s₀ := s₀) x ?_ (fun hx => ?_); rotate_left; clear_value x; rotate_left; subst x) | clear_value x)
    | split

theorem keeps_ownDone {x1} (h : Keeps s₀ s) : Keeps s₀ (ownDone x1 s) := by
  unfold ownDone
  repeat' first
    | (with_reducible first | assumption | apply keeps_releaseRef)
    | split

theorem keeps_sentEof {x1 x2} (h : Keeps s₀ s) : Keeps s₀ (sentEof x1 x2 s) := by
  unfold sentEof
  repeat' first
    | with_reducible assumption | intro _
    | (with_reducible first | apply keeps_setRing | apply keeps_trafInc)
    | with_reducible apply keeps_mk

theorem keeps_onwardEnd {x1 x2 x3} (h : Keeps s₀ s) : Keeps s₀ (onwardEnd x1 x2 x3 s) := by
  unfold onwardEnd
  repeat' first
    | (with_reducible first | assumption | apply keeps_ite | apply keeps_trafInc | apply keeps_sentEof | apply keeps_errInc)
    | split

theorem keeps_abortCopy {x1 x2} (h : Keeps s₀ s) : Keeps s₀ (abortCopy x1 x2 s) := by
  unfold abortCopy
  repeat' first
    | (with_reducible first | assumption | apply keeps_errInc | apply keeps_ownDone)
    | split

theorem keeps_linkErr {x1 x2} (h : Keeps s₀ s) : Keeps s₀ (linkErr x1 x2 s) := by
  unfold linkErr
  repeat' first
    | (with_reducible first | assumption | apply keeps_ite | apply keeps_errInc | apply keeps_setLnk | apply keeps_stickyRaise)
    | (extract_lets +onlyGivenNames x; first
        | (refine keeps_use (s₀ := s₀) x ?_ (fun hx => ?_); rotate_left; clear_value x; rotate_left; subst x) | clear_value x)
    | split | with_reducible apply keeps_mk

theorem keeps_onwardBad {x1 x2} (h : Keeps s₀ s) : Keeps s₀ (onwardBad x1 x2 s) := by
  unfold onwardBad
  repeat' first
    | with_reducible assumption | intro _
    | (with_reducible first | apply keeps_ite | apply keeps_onwardEnd | apply keeps_setTx)
    | (extract_lets +onlyGivenNames x; first
        | (refine keeps_use (s₀ := s₀) x ?_ (fun hx => ?_); rotate_left; clear_value x; rotate_left; subst x) | clear_value x)
    | split | with_reducible apply keeps_mk

theorem keeps_rxPop {x1} (h : Keeps s₀ s) : Keeps s₀ (rxPop x1 s) := by
  unfold rxPop
  repeat' first
    | (with_reducible first | assumption | apply keeps_setLnk)
    | with_reducible apply keeps_mk

theorem keeps_rxAbort {x1} (h : Keeps s₀ s) : Keeps s₀ (rxAbort x1 s) := by
  unfold rxAbort
  repeat' first
    | with_reducible assumption | intro _
    | (with_reducible first | apply keeps_linkErr | apply keeps_onwardBad | apply keeps_rxPop | apply keeps_foldl)

theorem keeps_dropCopy {x1} (h : Keeps s₀ s) : Keeps s₀ (dropCopy x1 s) := by
  unfold dropCopy
  repeat' first
    | (with_reducible first | assumption | apply keeps_ownDone)
    | split

theorem keeps_linkDown {x1} (h : Keeps s₀ s) : Keeps s₀ (linkDown x1 s) := by
  unfold linkDown
  repeat' first
    | (with_reducible first | assumption | apply keeps_setTx | apply keeps_abortCopy | apply keeps_dropCopy | apply keeps_nbrClear
                            | apply keeps_setBit | apply keeps_errInc)
    | (extract_lets +onlyGivenNames x; first
        | (refine keeps_use (s₀ := s₀) x ?_ (fun hx => ?_); rotate_left; clear_value x; rotate_left; subst x) | clear_value x)
    | split

theorem keeps_linkChange {x1 x2} (h : Keeps s₀ s) (hx2 : ∀ s, Keeps s₀ s → Keeps s₀ (x2 s)) : Keeps s₀ (linkChange x1 x2 s) := by
  unfold linkChange
  repeat' first
    | with_reducible assumption | intro _
    | (with_reducible first | apply keeps_ite | apply keeps_linkDown | apply keeps_rxAbort | apply keeps_raise | apply keeps_sendHello
                            | apply hx2)
    | (extract_lets +onlyGivenNames x; first
        | (refine keeps_use (s₀ := s₀) x ?_ (fun hx => ?_); rotate_left; clear_value x; rotate_left; subst x) | clear_value x)
    | split

theorem keeps_linkCtlWrite {x1 x2} (h : Keeps s₀ s) : Keeps s₀ (linkCtlWrite x1 x2 s) := by
  unfold linkCtlWrite
  repeat' first
    | with_reducible assumption | intro _
    | (with_reducible first | apply keeps_ite | apply keeps_linkChange | apply keeps_setReg | apply keeps_setLnk)
    | (extract_lets +onlyGivenNames x; first
        | (refine keeps_use (s₀ := s₀) x ?_ (fun hx => ?_); rotate_left; clear_value x; rotate_left; subst x) | clear_value x)
    | split | with_reducible apply keeps_mk

theorem keeps_ringCtlWrite {x1} (h : Keeps s₀ s) : Keeps s₀ (ringCtlWrite x1 s) := by
  unfold ringCtlWrite
  repeat' first
    | with_reducible assumption | intro _
    | (with_reducible first | apply keeps_ite | apply keeps_linkChange | apply keeps_setLnk | apply keeps_setReg)
    | (extract_lets +onlyGivenNames x; first
        | (refine keeps_use (s₀ := s₀) x ?_ (fun hx => ?_); rotate_left; clear_value x; rotate_left; subst x) | clear_value x)
    | split | with_reducible apply keeps_mk

theorem keeps_ringCfgErr (h : Keeps s₀ s) : Keeps s₀ (ringCfgErr s) :=
  keeps_setBit h

theorem keeps_modCmdWrite {x1} (h : Keeps s₀ s) : Keeps s₀ (modCmdWrite x1 s) := by
  unfold modCmdWrite
  repeat' first
    | with_reducible assumption | intro _
    | (with_reducible first | apply keeps_ite | apply keeps_ringCfgErr | apply keeps_setReg | apply keeps_setRing)
    | (extract_lets +onlyGivenNames x; first
        | (refine keeps_use (s₀ := s₀) x ?_ (fun hx => ?_); rotate_left; clear_value x; rotate_left; subst x) | clear_value x)
    | split | with_reducible apply keeps_mk

theorem keeps_ownBytes {x1 x2} (h : Keeps s₀ s) : Keeps s₀ (ownBytes x1 x2 s).2 := by
  unfold ownBytes
  repeat' first
    | (with_reducible first | assumption | apply keeps_ite | apply keeps_setPd)
    | (extract_lets +onlyGivenNames x; first
        | (refine keeps_use (s₀ := s₀) x ?_ (fun hx => ?_); rotate_left; clear_value x; rotate_left; subst x) | clear_value x)
    | split | with_reducible apply keeps_mk

theorem keeps_putCopy {x1 x2} (h : Keeps s₀ s) : Keeps s₀ (putCopy x1 x2 s) := by
  unfold putCopy
  repeat' first
    | (with_reducible first | assumption | apply keeps_setTx | apply keeps_trafInc)
    | (extract_lets +onlyGivenNames x; first
        | (refine keeps_use (s₀ := s₀) x ?_ (fun hx => ?_); rotate_left; clear_value x; rotate_left; subst x) | clear_value x)
    | split | with_reducible apply keeps_mk

theorem keeps_putFiller {x1} (h : Keeps s₀ s) : Keeps s₀ (putFiller x1 s) := by
  unfold putFiller
  repeat' first
    | (with_reducible first | assumption | apply keeps_setTx | apply keeps_trafInc)

theorem keeps_gateRefill {x1} (h : Keeps s₀ s) : Keeps s₀ (gateRefill x1 s) := by
  unfold gateRefill
  repeat' first
    | (with_reducible first | assumption | apply keeps_ite | apply keeps_gateFill)
    | split

theorem keeps_admSent {x1} (h : Keeps s₀ s) : Keeps s₀ (admSent x1 s) := by
  unfold admSent
  repeat' first
    | with_reducible assumption | intro _
    | (with_reducible first | apply keeps_ite | apply keeps_clrBit)
    | split

theorem keeps_startOwn {x1 x2} (h : Keeps s₀ s) : Keeps s₀ (startOwn x1 x2 s) := by
  unfold startOwn
  repeat' first
    | (with_reducible first | assumption | apply keeps_ite | apply keeps_admSent | apply keeps_setTxQ | apply keeps_gateRefill
                            | apply keeps_errInc | apply keeps_ownDone | apply keeps_ownBytes | apply keeps_putCopy)
    | (extract_lets +onlyGivenNames x; first
        | (refine keeps_use (s₀ := s₀) x ?_ (fun hx => ?_); rotate_left; clear_value x; rotate_left; subst x) | clear_value x)
    | split | refine keeps_snd (by with_reducible assumption) ?_

theorem keeps_startFwd {x1 x2} (h : Keeps s₀ s) : Keeps s₀ (startFwd x1 x2 s) := by
  unfold startFwd
  repeat' first
    | with_reducible assumption | intro _
    | (with_reducible first | apply keeps_ite | apply keeps_setFwd | apply keeps_errInc | apply keeps_putCopy)
    | (extract_lets +onlyGivenNames x; first
        | (refine keeps_use (s₀ := s₀) x ?_ (fun hx => ?_); rotate_left; clear_value x; rotate_left; subst x) | clear_value x)
    | split | with_reducible apply keeps_mk

theorem keeps_startOnward {x1 x2} (h : Keeps s₀ s) : Keeps s₀ (startOnward x1 x2 s) := by
  unfold startOnward
  repeat' first
    | with_reducible assumption | intro _
    | (with_reducible first | apply keeps_ite | apply keeps_setLnk | apply keeps_putCopy | apply keeps_errInc)
    | (extract_lets +onlyGivenNames x; first
        | (refine keeps_use (s₀ := s₀) x ?_ (fun hx => ?_); rotate_left; clear_value x; rotate_left; subst x) | clear_value x)
    | split | with_reducible apply keeps_mk

theorem keeps_takeExpress {x1 x2} (h : Keeps s₀ s) : Keeps s₀ (takeExpress x1 x2 s).2 := by
  unfold takeExpress
  repeat' first
    | (with_reducible first | assumption | apply keeps_ite | apply keeps_startFwd | apply keeps_startOnward | apply keeps_startOwn)
    | split

theorem keeps_takeNormal {x1 x2 x3 x4} (h : Keeps s₀ s) : Keeps s₀ (takeNormal x1 x2 x3 x4 s) := by
  unfold takeNormal
  repeat' first
    | with_reducible assumption | intro _
    | (with_reducible first | apply keeps_ite | apply keeps_setTx | apply keeps_startFwd | apply keeps_startOnward | apply keeps_startOwn)
    | (extract_lets +onlyGivenNames x; first
        | (refine keeps_use (s₀ := s₀) x ?_ (fun hx => ?_); rotate_left; clear_value x; rotate_left; subst x) | clear_value x)
    | split

theorem keeps_txFinish {x1} (h : Keeps s₀ s) : Keeps s₀ (txFinish x1 s) := by
  unfold txFinish
  dsimp only
  repeat' first
    | with_reducible assumption | intro _
    | (with_reducible first | apply keeps_setTx | apply keeps_sentEof | apply keeps_ownDone | apply keeps_onwardEnd)
    | (extract_lets +onlyGivenNames x; first
        | (refine keeps_use (s₀ := s₀) x ?_ (fun hx => ?_); rotate_left; clear_value x; rotate_left; subst x) | clear_value x)
    | split | with_reducible apply keeps_mk

theorem keeps_gateOverrun {x1 x2} (h : Keeps s₀ s) : Keeps s₀ (gateOverrun x1 x2 s) := by
  unfold gateOverrun
  repeat' first
    | (with_reducible first | assumption | apply keeps_ite | apply keeps_setLnk | apply keeps_onwardBad | apply keeps_errInc)
    | (extract_lets +onlyGivenNames x; first
        | (refine keeps_use (s₀ := s₀) x ?_ (fun hx => ?_); rotate_left; clear_value x; rotate_left; subst x) | clear_value x)
    | split | with_reducible apply keeps_mk

theorem keeps_onwardGood {x1 x2 x3} (h : Keeps s₀ s) : Keeps s₀ (onwardGood x1 x2 x3 s) := by
  unfold onwardGood
  repeat' first
    | with_reducible assumption | intro _
    | (with_reducible first | apply keeps_ite | apply keeps_setFwd | apply keeps_onwardEnd | apply keeps_setTx)
    | (extract_lets +onlyGivenNames x; first
        | (refine keeps_use (s₀ := s₀) x ?_ (fun hx => ?_); rotate_left; clear_value x; rotate_left; subst x) | clear_value x)
    | split | with_reducible apply keeps_mk

theorem keeps_dupFlag {x1} (h : Keeps s₀ s) : Keeps s₀ (dupFlag x1 s) :=
  keeps_stickyRaise h

theorem keeps_dupEcc {x1 x2} (h : Keeps s₀ s) : Keeps s₀ (dupEcc x1 x2 s).2 := by
  unfold dupEcc
  repeat' first
    | (with_reducible first | assumption | apply keeps_ite | apply keeps_eccRead)
    | (extract_lets +onlyGivenNames x; first
        | (refine keeps_use (s₀ := s₀) x ?_ (fun hx => ?_); rotate_left; clear_value x; rotate_left; subst x) | clear_value x)
    | split | refine keeps_snd (by with_reducible assumption) ?_

theorem keeps_dupTest {x1 x2} (h : Keeps s₀ s) : Keeps s₀ (dupTest x1 x2 s).2 := by
  unfold dupTest
  dsimp only
  repeat' first
    | with_reducible assumption | intro _
    | (with_reducible first | apply keeps_ite | apply keeps_dupEcc | apply keeps_setRing | apply keeps_eccClean | apply keeps_dupFlag
                            | apply keeps_errInc | apply keeps_trafInc | apply keeps_foldl | apply keeps_foldlP)
    | (extract_lets +onlyGivenNames x; first
        | (refine keeps_use (s₀ := s₀) x ?_ (fun hx => ?_); rotate_left; clear_value x; rotate_left; subst x) | clear_value x)
    | split | refine keeps_snd (by with_reducible assumption) ?_ | with_reducible apply keeps_mk

theorem keeps_crossFrame {x1 x2} (h : Keeps s₀ s) : Keeps s₀ (crossFrame x1 x2 s) := by
  unfold crossFrame
  repeat' first
    | (with_reducible first | assumption | apply keeps_ite | apply keeps_trafInc | apply keeps_queueOn)
    | (extract_lets +onlyGivenNames x; first
        | (refine keeps_use (s₀ := s₀) x ?_ (fun hx => ?_); rotate_left; clear_value x; rotate_left; subst x) | clear_value x)
    | split | with_reducible apply keeps_mk

theorem keeps_acceptFrame {x1 x2} (h : Keeps s₀ s) : Keeps s₀ (acceptFrame x1 x2 s) := by
  unfold acceptFrame
  repeat' first
    | with_reducible assumption | intro _
    | (with_reducible first | apply keeps_ite | apply keeps_errInc | apply keeps_setRing | apply keeps_trafInc)
    | split | with_reducible apply keeps_mk

theorem keeps_admitFrame {x1 x2 x3} (h : Keeps s₀ s) : Keeps s₀ (admitFrame x1 x2 x3 s) := by
  unfold admitFrame
  repeat' first
    | (with_reducible first | assumption | apply keeps_ite | apply keeps_setBit | apply keeps_errInc | apply keeps_dupTest
                            | apply keeps_crossFrame | apply keeps_acceptFrame)
    | (extract_lets +onlyGivenNames x; first
        | (refine keeps_use (s₀ := s₀) x ?_ (fun hx => ?_); rotate_left; clear_value x; rotate_left; subst x) | clear_value x)
    | split | refine keeps_snd (by with_reducible assumption) ?_

theorem keeps_goodFrame {x1 x2 x3} (h : Keeps s₀ s) : Keeps s₀ (goodFrame x1 x2 x3 s) := by
  unfold goodFrame
  repeat' first
    | (with_reducible first | assumption | apply keeps_ite | apply keeps_trafInc | apply keeps_onwardGood | apply keeps_setBit
                            | apply keeps_errInc | apply keeps_admitFrame)
    | (extract_lets +onlyGivenNames x; first
        | (refine keeps_use (s₀ := s₀) x ?_ (fun hx => ?_); rotate_left; clear_value x; rotate_left; subst x) | clear_value x)
    | split | with_reducible apply keeps_mk

theorem keeps_countCause {x1 x2 x3} (h : Keeps s₀ s) : Keeps s₀ (countCause x1 x2 x3 s) := by
  unfold countCause
  repeat' first
    | (with_reducible first | assumption | apply keeps_ite | apply keeps_errInc | apply keeps_setBit | apply keeps_linkErr)
    | split

theorem keeps_shortEnd {x1 x2 x3 x4} (h : Keeps s₀ s) : Keeps s₀ (shortEnd x1 x2 x3 x4 s) := by
  unfold shortEnd
  repeat' first
    | (with_reducible first | assumption | apply keeps_ite | apply keeps_errInc | apply keeps_linkErr)
    | split

theorem keeps_ringCell {x1} (h : Keeps s₀ s) : Keeps s₀ (ringCell x1 s).2 := by
  unfold ringCell
  repeat' first
    | (with_reducible first | assumption | apply keeps_allocChain | apply keeps_writeText | apply keeps_writeHdr)
    | (extract_lets +onlyGivenNames x; first
        | (refine keeps_use (s₀ := s₀) x ?_ (fun hx => ?_); rotate_left; clear_value x; rotate_left; subst x) | clear_value x)
    | split | refine keeps_snd (by with_reducible assumption) ?_

theorem keeps_ringRouted {x1 x2 x3} (h : Keeps s₀ s) : Keeps s₀ (ringRouted x1 x2 x3 s) := by
  unfold ringRouted
  repeat' first
    | (with_reducible first | assumption | apply keeps_ite | apply keeps_routeDecide | apply keeps_writeHdr | apply keeps_markCommitted
                            | apply keeps_trafInc | apply keeps_settle | apply keeps_toConsumers)
    | (extract_lets +onlyGivenNames x; first
        | (refine keeps_use (s₀ := s₀) x ?_ (fun hx => ?_); rotate_left; clear_value x; rotate_left; subst x) | clear_value x)
    | split | refine keeps_thd (by with_reducible assumption) ?_ | with_reducible apply keeps_mk

theorem keeps_deliverSent {x1} (h : Keeps s₀ s) : Keeps s₀ (deliverSent x1 s) := by
  unfold deliverSent
  dsimp only
  repeat' first
    | with_reducible assumption | intro _
    | (with_reducible first | apply keeps_ite | apply keeps_ringCell | apply keeps_ringRouted | apply keeps_parRead | apply keeps_tblPut
                            | apply keeps_markCommitted | apply keeps_writeHdr | apply keeps_settle | apply keeps_toConsumers)
    | (extract_lets +onlyGivenNames x; first
        | (refine keeps_use (s₀ := s₀) x ?_ (fun hx => ?_); rotate_left; clear_value x; rotate_left; subst x) | clear_value x)
    | split | refine keeps_snd (by with_reducible assumption) ?_ | with_reducible apply keeps_mk

theorem keeps_deliverTun {x1} (h : Keeps s₀ s) : Keeps s₀ (deliverTun x1 s) := by
  unfold deliverTun
  repeat' first
    | (with_reducible first | assumption | apply keeps_tunDeliver)
    | (extract_lets +onlyGivenNames x; first
        | (refine keeps_use (s₀ := s₀) x ?_ (fun hx => ?_); rotate_left; clear_value x; rotate_left; subst x) | clear_value x)


/-! ### Member -/

theorem keeps_setMgr {x1} (h : Keeps s₀ s) : Keeps s₀ (setMgr s x1) := by
  unfold setMgr
  repeat' first
    | with_reducible assumption | intro _
    | (with_reducible first | apply keeps_setRing)
    | with_reducible apply keeps_mk

theorem keeps_sendMgt {x1 x2} (h : Keeps s₀ s) : Keeps s₀ (sendMgt x1 x2 s) := by
  unfold sendMgt
  repeat' first
    | (with_reducible first | assumption | apply keeps_ite | apply keeps_originate)
    | split

theorem keeps_setMember {x1 x2} (h : Keeps s₀ s) : Keeps s₀ (setMember x1 x2 s) := by
  unfold setMember
  repeat' first
    | (with_reducible first | assumption | apply keeps_ite | apply keeps_mgrSet | apply keeps_setReg)
    | split

theorem keeps_toHalter (h : Keeps s₀ s) : Keeps s₀ (toHalter s) := by
  unfold toHalter
  repeat' first
    | (with_reducible first | assumption | apply keeps_nodeChanged)
    | with_reducible apply keeps_mk

theorem keeps_assignApply {x1 x2 x3} (h : Keeps s₀ s) : Keeps s₀ (assignApply x1 x2 x3 s) := by
  unfold assignApply
  repeat' first
    | (with_reducible first | assumption | apply keeps_ite | apply keeps_setMember | apply keeps_nodeChanged | apply keeps_trafInc
                            | apply keeps_mgrSet | apply keeps_toHalter)
    | (extract_lets +onlyGivenNames x; first
        | (refine keeps_use (s₀ := s₀) x ?_ (fun hx => ?_); rotate_left; clear_value x; rotate_left; subst x) | clear_value x)
    | split | with_reducible apply keeps_mk

theorem keeps_sendAssign {x1 x2 x3 x4} (h : Keeps s₀ s) : Keeps s₀ (sendAssign x1 x2 x3 x4 s) := by
  unfold sendAssign
  repeat' first
    | (with_reducible first | assumption | apply keeps_ite | apply keeps_originate)
    | split

theorem keeps_assignOwn {x1 x2 x3} (h : Keeps s₀ s) : Keeps s₀ (assignOwn x1 x2 x3 s) := by
  unfold assignOwn
  repeat' first
    | with_reducible assumption | intro _
    | (with_reducible first | apply keeps_ite | apply keeps_assignApply | apply keeps_setMgr)
    | (extract_lets +onlyGivenNames x; first
        | (refine keeps_use (s₀ := s₀) x ?_ (fun hx => ?_); rotate_left; clear_value x; rotate_left; subst x) | clear_value x)
    | split | with_reducible apply keeps_mk

theorem keeps_assign {x1 x2 x3 x4} (h : Keeps s₀ s) : Keeps s₀ (assign x1 x2 x3 x4 s) := by
  unfold assign
  repeat' first
    | (with_reducible first | assumption | apply keeps_ite | apply keeps_assignOwn | apply keeps_sendAssign)
    | split

theorem keeps_assignGranted {x1 x2 x3} (h : Keeps s₀ s) : Keeps s₀ (assignGranted x1 x2 x3 s) := by
  unfold assignGranted
  repeat' first
    | with_reducible assumption | intro _
    | (with_reducible first | apply keeps_ite | apply keeps_sendAssign | apply keeps_assignOwn | apply keeps_assign | apply keeps_foldl)
    | (extract_lets +onlyGivenNames x; first
        | (refine keeps_use (s₀ := s₀) x ?_ (fun hx => ?_); rotate_left; clear_value x; rotate_left; subst x) | clear_value x)
    | split

theorem keeps_admqPut {x1 x2 x3 x4 x5 x6} (h : Keeps s₀ s) : Keeps s₀ (admqPut x1 x2 x3 x4 x5 x6 s).2 := by
  unfold admqPut
  repeat' first
    | (with_reducible first | assumption | apply keeps_ite | apply keeps_mgrSet | apply keeps_setReg)
    | (extract_lets +onlyGivenNames x; first
        | (refine keeps_use (s₀ := s₀) x ?_ (fun hx => ?_); rotate_left; clear_value x; rotate_left; subst x) | clear_value x)
    | split

theorem keeps_noteDecided {x1} (h : Keeps s₀ s) : Keeps s₀ (noteDecided x1 s) := by
  unfold noteDecided
  repeat' first
    | with_reducible assumption | intro _
    | (with_reducible first | apply keeps_setMgr)
    | with_reducible apply keeps_mk

theorem keeps_decideAdmit {x1 x2 x3 x4 x5} (h : Keeps s₀ s) : Keeps s₀ (decideAdmit x1 x2 x3 x4 x5 s) := by
  unfold decideAdmit
  repeat' first
    | (with_reducible first | assumption | apply keeps_ite | apply keeps_noteDecided | apply keeps_assign | apply keeps_assignGranted
                            | apply keeps_admqPut | apply keeps_mgrSet | apply keeps_errInc)
    | (extract_lets +onlyGivenNames x; first
        | (refine keeps_use (s₀ := s₀) x ?_ (fun hx => ?_); rotate_left; clear_value x; rotate_left; subst x) | clear_value x)
    | split | refine keeps_snd (by with_reducible assumption) ?_

theorem keeps_admitRequest {x1 x2 x3 x4 x5} (h : Keeps s₀ s) : Keeps s₀ (admitRequest x1 x2 x3 x4 x5 s) := by
  unfold admitRequest
  repeat' first
    | with_reducible assumption | intro _
    | (with_reducible first | apply keeps_ite | apply keeps_decideAdmit | apply keeps_admqPut | apply keeps_mgrSet)
    | (extract_lets +onlyGivenNames x; first
        | (refine keeps_use (s₀ := s₀) x ?_ (fun hx => ?_); rotate_left; clear_value x; rotate_left; subst x) | clear_value x)
    | split | refine keeps_snd (by with_reducible assumption) ?_

theorem keeps_relayRequest {x1 x2} (h : Keeps s₀ s) : Keeps s₀ (relayRequest x1 x2 s) := by
  unfold relayRequest
  repeat' first
    | with_reducible assumption | intro _
    | (with_reducible first | apply keeps_ite | apply keeps_admitRequest | apply keeps_setMgr | apply keeps_sendMgt | apply keepsOpt_some)
    | (extract_lets +onlyGivenNames x; first
        | (refine keeps_use (s₀ := s₀) x ?_ (fun hx => ?_); rotate_left; clear_value x; rotate_left; subst x) | clear_value x)
    | split | with_reducible apply keeps_mk

theorem keeps_admCmdWrite {x1} (h : Keeps s₀ s) : Keeps s₀ (admCmdWrite x1 s) := by
  unfold admCmdWrite
  repeat' first
    | with_reducible assumption | intro _
    | (with_reducible first | apply keeps_ite | apply keeps_setReg | apply keeps_ringCfgErr | apply keeps_setBit | apply keeps_noteDecided
                            | apply keeps_clrBit | apply keeps_assignGranted | apply keeps_assign)
    | (extract_lets +onlyGivenNames x; first
        | (refine keeps_use (s₀ := s₀) x ?_ (fun hx => ?_); rotate_left; clear_value x; rotate_left; subst x) | clear_value x)
    | split

theorem keeps_admWrite {x1} (h : Keeps s₀ s) : Keeps s₀ (admWrite x1 s) := by
  unfold admWrite
  repeat' first
    | (with_reducible first | assumption | apply keeps_ite | apply keeps_admCmdWrite)
    | split

theorem keeps_sendClaim {x1 x2} (h : Keeps s₀ s) : Keeps s₀ (sendClaim x1 x2 s) := by
  unfold sendClaim
  repeat' first
    | (with_reducible first | assumption | apply keeps_ite | apply keeps_originateLocal)
    | split

theorem keeps_electionBegin (h : Keeps s₀ s) : Keeps s₀ (electionBegin s) := by
  unfold electionBegin
  repeat' first
    | with_reducible assumption | intro _
    | (with_reducible first | apply keeps_ite | apply keeps_setBit | apply keeps_setMgr | apply keeps_sendClaim | apply keeps_foldl
                            | apply keepsOpt_some)
    | (extract_lets +onlyGivenNames x; first
        | (refine keeps_use (s₀ := s₀) x ?_ (fun hx => ?_); rotate_left; clear_value x; rotate_left; subst x) | clear_value x)
    | split | with_reducible apply keeps_mk

theorem keeps_claimTake {x1 x2} (h : Keeps s₀ s) : Keeps s₀ (claimTake x1 x2 s) := by
  unfold claimTake
  repeat' first
    | with_reducible assumption | intro _
    | (with_reducible first | apply keeps_ite | apply keeps_setMgr | apply keeps_sendClaim | apply keeps_foldl | apply keepsOpt_some)
    | (extract_lets +onlyGivenNames x; first
        | (refine keeps_use (s₀ := s₀) x ?_ (fun hx => ?_); rotate_left; clear_value x; rotate_left; subst x) | clear_value x)
    | split | with_reducible apply keeps_mk

theorem keeps_followMgr {x1 x2} (h : Keeps s₀ s) : Keeps s₀ (followMgr x1 x2 s) := by
  unfold followMgr
  repeat' first
    | (with_reducible first | assumption | apply keeps_ite | apply keeps_setReg | apply keeps_mgrSet)
    | (extract_lets +onlyGivenNames x; first
        | (refine keeps_use (s₀ := s₀) x ?_ (fun hx => ?_); rotate_left; clear_value x; rotate_left; subst x) | clear_value x)
    | split

theorem keeps_surveySend (h : Keeps s₀ s) : Keeps s₀ (surveySend s) := by
  unfold surveySend
  repeat' first
    | with_reducible assumption | intro _
    | (with_reducible first | apply keeps_ite | apply keeps_assign | apply keeps_setMgr | apply keeps_sendMgt | apply keeps_foldl)
    | (extract_lets +onlyGivenNames x; first
        | (refine keeps_use (s₀ := s₀) x ?_ (fun hx => ?_); rotate_left; clear_value x; rotate_left; subst x) | clear_value x)
    | split | with_reducible apply keeps_mk

theorem keeps_becomeMgr (h : Keeps s₀ s) : Keeps s₀ (becomeMgr s) := by
  unfold becomeMgr
  repeat' first
    | with_reducible assumption | intro _
    | (with_reducible first | apply keeps_ite | apply keeps_mgrSet | apply keeps_setBit | apply keeps_setMgr | apply keeps_clrBit
                            | apply keeps_decideAdmit | apply keeps_surveySend | apply keeps_followMgr)
    | (extract_lets +onlyGivenNames x; first
        | (refine keeps_use (s₀ := s₀) x ?_ (fun hx => ?_); rotate_left; clear_value x; rotate_left; subst x) | clear_value x)
    | split | with_reducible apply keeps_mk

theorem keeps_electionStart (h : Keeps s₀ s) : Keeps s₀ (electionStart s) := by
  unfold electionStart
  repeat' first
    | (with_reducible first | assumption | apply keeps_electionBegin | apply keeps_trafInc)

theorem keeps_followLowest (h : Keeps s₀ s) : Keeps s₀ (followLowest s) := by
  unfold followLowest
  repeat' first
    | with_reducible assumption | intro _
    | (with_reducible first | apply keeps_setMgr | apply keeps_followMgr)
    | (extract_lets +onlyGivenNames x; first
        | (refine keeps_use (s₀ := s₀) x ?_ (fun hx => ?_); rotate_left; clear_value x; rotate_left; subst x) | clear_value x)
    | split | with_reducible apply keeps_mk

theorem keeps_surveyFollow {x1 x2 x3} (h : Keeps s₀ s) : Keeps s₀ (surveyFollow x1 x2 x3 s) := by
  unfold surveyFollow
  repeat' first
    | with_reducible assumption | intro _
    | (with_reducible first | apply keeps_ite | apply keeps_mgrSet | apply keeps_clrBit | apply keeps_followLowest | apply keeps_setMgr)
    | (extract_lets +onlyGivenNames x; first
        | (refine keeps_use (s₀ := s₀) x ?_ (fun hx => ?_); rotate_left; clear_value x; rotate_left; subst x) | clear_value x)
    | split | with_reducible apply keeps_mk

theorem keeps_followAge (h : Keeps s₀ s) : Keeps s₀ (followAge s) := by
  unfold followAge
  repeat' first
    | (with_reducible first | assumption | apply keeps_ite | apply keeps_followLowest)
    | split

theorem keeps_admCtlWrite {x1} (h : Keeps s₀ s) : Keeps s₀ (admCtlWrite x1 s) := by
  unfold admCtlWrite
  repeat' first
    | (with_reducible first | assumption | apply keeps_ite | apply keeps_ringCfgErr | apply keeps_setReg | apply keeps_helloAll)
    | (extract_lets +onlyGivenNames x; first
        | (refine keeps_use (s₀ := s₀) x ?_ (fun hx => ?_); rotate_left; clear_value x; rotate_left; subst x) | clear_value x)
    | split

theorem keeps_sweSetWrite {x1} (h : Keeps s₀ s) : Keeps s₀ (sweSetWrite x1 s) := by
  unfold sweSetWrite
  repeat' first
    | with_reducible assumption | intro _
    | (with_reducible first | apply keeps_ite | apply keeps_raise | apply keeps_foldl)
    | split

end Sys2Proof.Machine
end

