-- ==== Sys2Proof/Laws/KeepsUnits.lean ====
section
/-!
SUPPORT. What the operations of availability, flash, power and update keep (`Keeps`).
-/
namespace Sys2Proof.Machine

variable {s₀ s : State}

/-! ### Avail -/

theorem keeps_avCfgErr (h : Keeps s₀ s) : Keeps s₀ (avCfgErr s) :=
  keeps_setBit h

theorem keeps_setAv {x1} (h : Keeps s₀ s) : Keeps s₀ (setAv s x1) := by
  unfold setAv
  repeat' first
    | (with_reducible first | assumption)
    | with_reducible apply keeps_mk

theorem keeps_freeBytes {x1} (h : Keeps s₀ s) : Keeps s₀ (freeBytes x1 s).2 := by
  unfold freeBytes
  repeat' first
    | (with_reducible first | assumption | apply keeps_takeFree)
    | (extract_lets +onlyGivenNames x; first
        | (refine keeps_use (s₀ := s₀) x ?_ (fun hx => ?_); rotate_left; clear_value x; rotate_left; subst x) | clear_value x)
    | split | refine keeps_snd (by with_reducible assumption) ?_

theorem keeps_flashErase {a n} (h : Keeps s₀ s) : Keeps s₀ (flashErase a n s) :=
  ⟨h.1, h.2, fun w => tabWf_filter _ _ _ (h.3 w), h.4⟩

theorem keeps_nextSeq {x1} (h : Keeps s₀ s) : Keeps s₀ (nextSeq x1 s).2 := by
  unfold nextSeq
  repeat' first
    | (with_reducible first | assumption | apply keeps_takeFree)
    | (extract_lets +onlyGivenNames x; first
        | (refine keeps_use (s₀ := s₀) x ?_ (fun hx => ?_); rotate_left; clear_value x; rotate_left; subst x) | clear_value x)
    | split | refine keeps_snd (by with_reducible assumption) ?_

theorem keeps_logWrite {x1} (h : Keeps s₀ s) : Keeps s₀ (logWrite x1 s) := by
  unfold logWrite
  repeat' first
    | with_reducible assumption | intro _
    | (with_reducible first | apply keeps_ite | apply keeps_nextSeq | apply keeps_flashErase | apply keeps_setAv | apply keeps_memWrite
                            | apply keepsOpt_some)
    | (extract_lets +onlyGivenNames x; first
        | (refine keeps_use (s₀ := s₀) x ?_ (fun hx => ?_); rotate_left; clear_value x; rotate_left; subst x) | clear_value x)
    | split | refine keeps_snd (by with_reducible assumption) ?_ | with_reducible apply keeps_mk

theorem keeps_logFlush (h : Keeps s₀ s) : Keeps s₀ (logFlush s) := by
  unfold logFlush
  repeat' first
    | with_reducible assumption | intro _
    | (with_reducible first | apply keeps_logWrite | apply keeps_setAv | apply keeps_foldl)
    | with_reducible apply keeps_mk

theorem keeps_retRestore {x1} (h : Keeps s₀ s) : Keeps s₀ (retRestore x1 s) := by
  unfold retRestore
  repeat' first
    | with_reducible assumption | intro _
    | (with_reducible first | apply keeps_ite | apply keeps_setAv | apply keeps_setSliceMap | apply keepsOpt_some)
    | (extract_lets +onlyGivenNames x; first
        | (refine keeps_use (s₀ := s₀) x ?_ (fun hx => ?_); rotate_left; clear_value x; rotate_left; subst x) | clear_value x)
    | split | with_reducible apply keeps_mk

theorem keeps_restoreRetired (h : Keeps s₀ s) : Keeps s₀ (restoreRetired s) := by
  unfold restoreRetired
  repeat' first
    | with_reducible assumption | intro _
    | (with_reducible first | apply keeps_retRestore | apply keeps_setAv | apply keeps_foldl)
    | with_reducible apply keeps_mk

theorem keeps_retireRecord {x1 x2} (h : Keeps s₀ s) : Keeps s₀ (retireRecord x1 x2 s) := by
  unfold retireRecord
  repeat' first
    | with_reducible assumption | intro _
    | (with_reducible first | apply keeps_ite | apply keeps_nextSeq | apply keeps_setAv | apply keeps_memWrite | apply keepsOpt_some)
    | (extract_lets +onlyGivenNames x; first
        | (refine keeps_use (s₀ := s₀) x ?_ (fun hx => ?_); rotate_left; clear_value x; rotate_left; subst x) | clear_value x)
    | split | refine keeps_snd (by with_reducible assumption) ?_ | with_reducible apply keeps_mk

theorem keeps_logCmdWrite {x1} (h : Keeps s₀ s) : Keeps s₀ (logCmdWrite x1 s) := by
  unfold logCmdWrite
  repeat' first
    | (with_reducible first | assumption | apply keeps_ite | apply keeps_logPut)
    | split

theorem keeps_canEntryDiscard {x1 x2} (h : Keeps s₀ s) : Keeps s₀ (canEntryDiscard x1 x2 s) := by
  unfold canEntryDiscard
  repeat' first
    | (with_reducible first | assumption | apply keeps_ite | apply keeps_setCan | apply keeps_releaseRef)
    | (extract_lets +onlyGivenNames x; first
        | (refine keeps_use (s₀ := s₀) x ?_ (fun hx => ?_); rotate_left; clear_value x; rotate_left; subst x) | clear_value x)
    | split | with_reducible apply keeps_mk

theorem keeps_entryDiscard {x1} (h : Keeps s₀ s) : Keeps s₀ (entryDiscard x1 s) := by
  unfold entryDiscard
  repeat' first
    | with_reducible assumption | intro _
    | (with_reducible first | apply keeps_ite | apply keeps_setSlice | apply keeps_releaseRef | apply keeps_setQueue | apply keeps_iqPop
                            | apply keeps_canEntryDiscard)
    | split | with_reducible apply keeps_mk

theorem keeps_upset {x1} (h : Keeps s₀ s) : Keeps s₀ (upset x1 s) := by
  unfold upset
  repeat' first
    | (with_reducible first | assumption | apply keeps_ite | apply keeps_setFifo | apply keeps_eccFix | apply keeps_eccBad
                            | apply keeps_entryDiscard)
    | (extract_lets +onlyGivenNames x; first
        | (refine keeps_use (s₀ := s₀) x ?_ (fun hx => ?_); rotate_left; clear_value x; rotate_left; subst x) | clear_value x)
    | split | with_reducible apply keeps_mk

theorem keeps_scrubWord {x1} (h : Keeps s₀ s) : Keeps s₀ (scrubWord x1 s) := by
  unfold scrubWord
  repeat' first
    | (with_reducible first | assumption | apply keeps_ite | apply keeps_eccFix | apply keeps_freeBytes | apply keeps_eccOffset
                            | apply keeps_logPut | apply keeps_setBit | apply keeps_errInc | apply keeps_memWrite | apply keeps_eccBad)
    | (extract_lets +onlyGivenNames x; first
        | (refine keeps_use (s₀ := s₀) x ?_ (fun hx => ?_); rotate_left; clear_value x; rotate_left; subst x) | clear_value x)
    | split | refine keeps_snd (by with_reducible assumption) ?_

theorem keeps_parMark {x1 x2} (h : Keeps s₀ s) : Keeps s₀ (parMark x1 x2 s) := by
  unfold parMark
  repeat' first
    | with_reducible assumption | intro _

    | with_reducible apply keeps_mk

theorem keeps_rtMismatch {x1} (h : Keeps s₀ s) : Keeps s₀ (rtMismatch x1 s) := by
  unfold rtMismatch
  repeat' first
    | (with_reducible first | assumption | apply keeps_ite | apply keeps_stickyRaise | apply keeps_errInc | apply keeps_parMark
                            | apply keeps_setReg | apply keeps_faultEnter)
    | (extract_lets +onlyGivenNames x; first
        | (refine keeps_use (s₀ := s₀) x ?_ (fun hx => ?_); rotate_left; clear_value x; rotate_left; subst x) | clear_value x)
    | split

theorem keeps_sliceRetire {x1} (h : Keeps s₀ s) : Keeps s₀ (sliceRetire x1 s) := by
  unfold sliceRetire
  repeat' first
    | with_reducible assumption | intro _
    | (with_reducible first | apply keeps_retireRecord | apply keeps_csChange | apply keeps_setSliceMap | apply keeps_setAv)
    | (extract_lets +onlyGivenNames x; first
        | (refine keeps_use (s₀ := s₀) x ?_ (fun hx => ?_); rotate_left; clear_value x; rotate_left; subst x) | clear_value x)
    | with_reducible apply keeps_mk

theorem keeps_sliceCmdWrite {x1} (h : Keeps s₀ s) : Keeps s₀ (sliceCmdWrite x1 s) := by
  unfold sliceCmdWrite
  repeat' first
    | with_reducible assumption | intro _
    | (with_reducible first | apply keeps_ite | apply keeps_avCfgErr | apply keeps_setReg | apply keeps_setAv | apply keeps_setBit
                            | apply keeps_sliceRetire)
    | (extract_lets +onlyGivenNames x; first
        | (refine keeps_use (s₀ := s₀) x ?_ (fun hx => ?_); rotate_left; clear_value x; rotate_left; subst x) | clear_value x)
    | split | with_reducible apply keeps_mk

theorem keeps_moveStart {x1 x2} (h : Keeps s₀ s) : Keeps s₀ (moveStart x1 x2 s) := by
  unfold moveStart
  repeat' first
    | with_reducible assumption | intro _
    | (with_reducible first | apply keeps_setAv | apply keeps_setBit)
    | with_reducible apply keeps_mk

theorem keeps_moveEnd (h : Keeps s₀ s) : Keeps s₀ (moveEnd s) := by
  unfold moveEnd
  repeat' first
    | with_reducible assumption | intro _
    | (with_reducible first | apply keeps_clrBit | apply keeps_setAv)
    | with_reducible apply keeps_mk

theorem keeps_engRetire {x1} (h : Keeps s₀ s) : Keeps s₀ (engRetire x1 s) := by
  unfold engRetire
  repeat' first
    | with_reducible assumption | intro _
    | (with_reducible first | apply keeps_retireRecord | apply keeps_raise | apply keeps_csChange | apply keeps_setAv)
    | (extract_lets +onlyGivenNames x; first
        | (refine keeps_use (s₀ := s₀) x ?_ (fun hx => ?_); rotate_left; clear_value x; rotate_left; subst x) | clear_value x)
    | with_reducible apply keeps_mk

theorem keeps_rotCmdWrite {x1} (h : Keeps s₀ s) : Keeps s₀ (rotCmdWrite x1 s) := by
  unfold rotCmdWrite
  repeat' first
    | (with_reducible first | assumption | apply keeps_ite | apply keeps_avCfgErr | apply keeps_setReg | apply keeps_setBit
                            | apply keeps_moveStart | apply keeps_clrBit | apply keeps_engRetire)
    | (extract_lets +onlyGivenNames x; first
        | (refine keeps_use (s₀ := s₀) x ?_ (fun hx => ?_); rotate_left; clear_value x; rotate_left; subst x) | clear_value x)
    | split


/-! ### Flash -/

theorem keeps_tblPutByte {x1 x2 x3 x4} (h : Keeps s₀ s) : Keeps s₀ (tblPutByte x1 x2 x3 x4 s) := by
  unfold tblPutByte
  repeat' first
    | (with_reducible first | assumption | apply keeps_tblPut)
    | (extract_lets +onlyGivenNames x; first
        | (refine keeps_use (s₀ := s₀) x ?_ (fun hx => ?_); rotate_left; clear_value x; rotate_left; subst x) | clear_value x)

theorem keeps_loadTable {x1 x2 x3} (h : Keeps s₀ s) : Keeps s₀ (loadTable x1 x2 x3 s) := by
  unfold loadTable
  repeat' first
    | with_reducible assumption | intro _
    | (with_reducible first | apply keeps_tblPutByte | apply keeps_foldl | apply keeps_foldlP)

theorem keeps_loadTables {x1 x2} (h : Keeps s₀ s) : Keeps s₀ (loadTables x1 x2 s) := by
  unfold loadTables
  repeat' first
    | with_reducible assumption | intro _
    | (with_reducible first | apply keeps_loadTable | apply keeps_foldl)
    | (extract_lets +onlyGivenNames x; first
        | (refine keeps_use (s₀ := s₀) x ?_ (fun hx => ?_); rotate_left; clear_value x; rotate_left; subst x) | clear_value x)

theorem keeps_loadEngines {x1} (h : Keeps s₀ s) : Keeps s₀ (loadEngines x1 s) := by
  unfold loadEngines
  repeat' first
    | with_reducible assumption | intro _
    | (with_reducible first | apply keeps_memWrite | apply keeps_foldl)
    | (extract_lets +onlyGivenNames x; first
        | (refine keeps_use (s₀ := s₀) x ?_ (fun hx => ?_); rotate_left; clear_value x; rotate_left; subst x) | clear_value x)

theorem keeps_jWrite {x1} (h : Keeps s₀ s) : Keeps s₀ (jWrite x1 s) := by
  unfold jWrite
  repeat' first
    | (with_reducible first | assumption | apply keeps_ite | apply keeps_takeFree | apply keeps_memWrite | apply keeps_flashErase)
    | (extract_lets +onlyGivenNames x; first
        | (refine keeps_use (s₀ := s₀) x ?_ (fun hx => ?_); rotate_left; clear_value x; rotate_left; subst x) | clear_value x)
    | split | refine keeps_snd (by with_reducible assumption) ?_ | with_reducible apply keeps_mk

theorem keeps_bitmapClear {x1} (h : Keeps s₀ s) : Keeps s₀ (bitmapClear x1 s) := by
  unfold bitmapClear
  repeat' first
    | (with_reducible first | assumption | apply keeps_memPut)
    | (extract_lets +onlyGivenNames x; first
        | (refine keeps_use (s₀ := s₀) x ?_ (fun hx => ?_); rotate_left; clear_value x; rotate_left; subst x) | clear_value x)
    | split

theorem keeps_jRevert (h : Keeps s₀ s) : Keeps s₀ (jRevert s) := by
  unfold jRevert
  repeat' first
    | (with_reducible first | assumption | apply keeps_jWrite)
    | (extract_lets +onlyGivenNames x; first
        | (refine keeps_use (s₀ := s₀) x ?_ (fun hx => ?_); rotate_left; clear_value x; rotate_left; subst x) | clear_value x)
    | with_reducible apply keeps_mk

theorem keeps_setUpd {x1} (h : Keeps s₀ s) : Keeps s₀ (setUpd s x1) := by
  unfold setUpd
  repeat' first
    | (with_reducible first | assumption)
    | with_reducible apply keeps_mk

theorem keeps_logUpdate (h : Keeps s₀ s) : Keeps s₀ (logUpdate s) :=
  keeps_logPut h

theorem keeps_raiseMinver (h : Keeps s₀ s) : Keeps s₀ (raiseMinver s) := by
  unfold raiseMinver
  repeat' first
    | with_reducible assumption | intro _
    | (with_reducible first | apply keeps_ite | apply keeps_setUpd)
    | (extract_lets +onlyGivenNames x; first
        | (refine keeps_use (s₀ := s₀) x ?_ (fun hx => ?_); rotate_left; clear_value x; rotate_left; subst x) | clear_value x)
    | split | with_reducible apply keeps_mk

theorem keeps_bootTry (h : Keeps s₀ s) : Keeps s₀ (bootTry s).2 := by
  unfold bootTry
  repeat' first
    | with_reducible assumption | intro _
    | (with_reducible first | apply keeps_ite | apply keeps_setUpd | apply keeps_jRevert | apply keeps_jWrite | apply keeps_loadTables
                            | apply keeps_loadEngines | apply keeps_setReg | apply keeps_raiseMinver)
    | (extract_lets +onlyGivenNames x; first
        | (refine keeps_use (s₀ := s₀) x ?_ (fun hx => ?_); rotate_left; clear_value x; rotate_left; subst x) | clear_value x)
    | split | with_reducible apply keeps_mk


/-! ### Power -/

theorem keeps_setPower {x1} (h : Keeps s₀ s) : Keeps s₀ (setPower s x1) := by
  unfold setPower
  repeat' first
    | (with_reducible first | assumption)
    | with_reducible apply keeps_mk

theorem keeps_nodeReset {x y} (h : Keeps s₀ s) : Keeps s₀ (nodeReset x y s) := by
  unfold nodeReset
  extract_lets n
  have hn : Keeps s₀ n := ⟨h.1, h.2, fun w => tabWf_filter _ _ _ (h.3 w), fun w => tabWf_filter _ _ _ (h.4 w)⟩
  clear_value n
  repeat' first
    | with_reducible assumption | intro _
    | (with_reducible first | apply keeps_ite | apply keeps_setBit | apply keeps_foldl | apply keeps_getD)
    | (extract_lets +onlyGivenNames x; first
        | (refine keeps_use (s₀ := s₀) x ?_ (fun hx => ?_); rotate_left; clear_value x; rotate_left; subst x) | clear_value x)
    | split | refine keeps_snd (by with_reducible assumption) ?_ | refine keeps_some (by with_reducible assumption) ?_
    | with_reducible apply keeps_mk

theorem keeps_resetCause {x1} (h : Keeps s₀ s) : Keeps s₀ (resetCause x1 s) :=
  keeps_setBit h

theorem keeps_placeEngines (h : Keeps s₀ s) : Keeps s₀ (placeEngines s) := by
  unfold placeEngines
  repeat' first
    | with_reducible assumption | intro _
    | (with_reducible first | apply keeps_setFld | apply keeps_foldl)

theorem keeps_placeSlice {x1} (h : Keeps s₀ s) : Keeps s₀ (placeSlice s x1) := by
  unfold placeSlice
  repeat' first
    | with_reducible assumption | intro _
    | (with_reducible first | apply keeps_ite | apply keeps_setFld | apply keeps_setSliceMap)
    | split

theorem keeps_dlStart (h : Keeps s₀ s) : Keeps s₀ (dlStart s) := by
  unfold dlStart
  repeat' first
    | with_reducible assumption | intro _

    | with_reducible apply keeps_mk

theorem keeps_place (h : Keeps s₀ s) : Keeps s₀ (place s) := by
  unfold place
  repeat' first
    | with_reducible assumption | intro _
    | (with_reducible first | apply keeps_dlStart | apply keeps_restoreRetired | apply keeps_placeSlice | apply keeps_placeEngines
                            | apply keeps_foldl)
    | (extract_lets +onlyGivenNames x; first
        | (refine keeps_use (s₀ := s₀) x ?_ (fun hx => ?_); rotate_left; clear_value x; rotate_left; subst x) | clear_value x)

theorem keeps_refaAgain (h : Keeps s₀ s) : Keeps s₀ (refaAgain s) := by
  unfold refaAgain
  repeat' first
    | with_reducible assumption | intro _
    | (with_reducible first | apply keeps_ite | apply keeps_takeFree | apply keeps_setPower)
    | (extract_lets +onlyGivenNames x; first
        | (refine keeps_use (s₀ := s₀) x ?_ (fun hx => ?_); rotate_left; clear_value x; rotate_left; subst x) | clear_value x)
    | split | refine keeps_snd (by with_reducible assumption) ?_ | with_reducible apply keeps_mk

theorem keeps_coreBegin {x} (h : Keeps s₀ s) : Keeps s₀ (coreBegin x s) := by
  unfold coreBegin
  extract_lets w r n
  have hr : Keeps s₀ r := keeps_resetCause (keeps_refaAgain (keeps_nodeReset h))
  have hn : Keeps s₀ n := keeps_clrBit (keeps_setReg hr)
  clear_value n
  repeat' first
    | with_reducible assumption | intro _
    | (with_reducible first | apply keeps_ite | apply keeps_setBit | apply keeps_foldl | apply keeps_getD)
    | (extract_lets +onlyGivenNames x; first
        | (refine keeps_use (s₀ := s₀) x ?_ (fun hx => ?_); rotate_left; clear_value x; rotate_left; subst x) | clear_value x)
    | split | refine keeps_snd (by with_reducible assumption) ?_ | refine keeps_some (by with_reducible assumption) ?_
    | with_reducible apply keeps_mk

theorem keeps_boot (h : Keeps s₀ s) : Keeps s₀ (boot s) := by
  unfold boot
  repeat' first
    | with_reducible assumption | intro _
    | (with_reducible first | apply keeps_ite | apply keeps_place | apply keeps_bootTry | apply keeps_coreBegin | apply keeps_setPower)
    | (extract_lets +onlyGivenNames x; first
        | (refine keeps_use (s₀ := s₀) x ?_ (fun hx => ?_); rotate_left; clear_value x; rotate_left; subst x) | clear_value x)
    | split | refine keeps_snd (by with_reducible assumption) ?_ | with_reducible apply keeps_mk

theorem keeps_coreRestart {x1} (h : Keeps s₀ s) : Keeps s₀ (coreRestart x1 s) := by
  unfold coreRestart
  repeat' first
    | (with_reducible first | assumption | apply keeps_boot | apply keeps_coreBegin)

theorem keeps_tornWrite {x1} (h : Keeps s₀ s) : Keeps s₀ (tornWrite x1 s) := by
  unfold tornWrite
  repeat' first
    | with_reducible assumption | intro _
    | (with_reducible first | apply keeps_memPutNat)
    | split | with_reducible apply keeps_mk

theorem keeps_rstCmdWrite {x1} (h : Keeps s₀ s) : Keeps s₀ (rstCmdWrite x1 s) := by
  unfold rstCmdWrite
  repeat' first
    | (with_reducible first | assumption | apply keeps_ite | apply keeps_nodeCfgErr | apply keeps_resetCause | apply keeps_nodeReset
                            | apply keeps_coreRestart)
    | split

theorem keeps_linksLeaveOff (h : Keeps s₀ s) : Keeps s₀ (linksLeaveOff s) := by
  unfold linksLeaveOff
  repeat' first
    | with_reducible assumption | intro _
    | (with_reducible first | apply keeps_raise | apply keeps_foldl)

theorem keeps_setupStart (h : Keeps s₀ s) : Keeps s₀ (setupStart s) := by
  unfold setupStart
  repeat' first
    | (with_reducible first | assumption | apply keeps_ite | apply keeps_setCtx | apply keeps_ctxStart | apply keeps_setBit
                            | apply keeps_clrBit)
    | (extract_lets +onlyGivenNames x; first
        | (refine keeps_use (s₀ := s₀) x ?_ (fun hx => ?_); rotate_left; clear_value x; rotate_left; subst x) | clear_value x)
    | split | with_reducible apply keeps_mk

theorem keeps_railSet {x1 x2} (h : Keeps s₀ s) : Keeps s₀ (railSet x1 x2 s) := by
  unfold railSet
  repeat' first
    | with_reducible assumption | intro _
    | (with_reducible first | apply keeps_setPower)
    | split | with_reducible apply keeps_mk

theorem keeps_railChange {x1 x2} (h : Keeps s₀ s) : Keeps s₀ (railChange x1 x2 s) := by
  unfold railChange
  repeat' first
    | with_reducible assumption | intro _
    | (with_reducible first | apply keeps_ite | apply keeps_railSet | apply keeps_raise | apply keeps_setPower)
    | (extract_lets +onlyGivenNames x; first
        | (refine keeps_use (s₀ := s₀) x ?_ (fun hx => ?_); rotate_left; clear_value x; rotate_left; subst x) | clear_value x)
    | split | with_reducible apply keeps_mk

theorem keeps_faultCmdWrite {x1} (h : Keeps s₀ s) : Keeps s₀ (faultCmdWrite x1 s) := by
  unfold faultCmdWrite
  repeat' first
    | (with_reducible first | assumption | apply keeps_ite | apply keeps_faultEnter | apply keeps_nodeCfgErr)
    | split

theorem keeps_wdogRestart {x1} (h : Keeps s₀ s) : Keeps s₀ (wdogRestart x1 s) := by
  unfold wdogRestart
  repeat' first
    | with_reducible assumption | intro _
    | (with_reducible first | apply keeps_setPower)
    | with_reducible apply keeps_mk

theorem keeps_wdogExpire {x1} (h : Keeps s₀ s) : Keeps s₀ (wdogExpire x1 s) := by
  unfold wdogExpire
  repeat' first
    | (with_reducible first | assumption | apply keeps_ite | apply keeps_raise | apply keeps_setBit | apply keeps_coreRestart
                            | apply keeps_wdogRestart | apply keeps_faultEnter)
    | (extract_lets +onlyGivenNames x; first
        | (refine keeps_use (s₀ := s₀) x ?_ (fun hx => ?_); rotate_left; clear_value x; rotate_left; subst x) | clear_value x)
    | split

theorem keeps_wdogKickWrite {x1 x2} (h : Keeps s₀ s) : Keeps s₀ (wdogKickWrite x1 x2 s) := by
  unfold wdogKickWrite
  repeat' first
    | (with_reducible first | assumption | apply keeps_ite | apply keeps_wdogRestart | apply keeps_wdogExpire)
    | split

theorem keeps_wdogCtlWrite {x1 x2} (h : Keeps s₀ s) : Keeps s₀ (wdogCtlWrite x1 x2 s) := by
  unfold wdogCtlWrite
  repeat' first
    | (with_reducible first | assumption | apply keeps_ite | apply keeps_nodeCfgErr | apply keeps_putBit | apply keeps_setReg
                            | apply keeps_setBit | apply keeps_wdogRestart)
    | (extract_lets +onlyGivenNames x; first
        | (refine keeps_use (s₀ := s₀) x ?_ (fun hx => ?_); rotate_left; clear_value x; rotate_left; subst x) | clear_value x)
    | split

theorem keeps_sleepCmdWrite {x1} (h : Keeps s₀ s) : Keeps s₀ (sleepCmdWrite x1 s) := by
  unfold sleepCmdWrite
  repeat' first
    | with_reducible assumption | intro _
    | (with_reducible first | apply keeps_ite | apply keeps_nodeCfgErr | apply keeps_setPower)
    | split | with_reducible apply keeps_mk

theorem keeps_canSendFlush {x1} (h : Keeps s₀ s) : Keeps s₀ (canSendFlush x1 s) := by
  unfold canSendFlush
  repeat' first
    | with_reducible assumption | intro _
    | (with_reducible first | apply keeps_canFlag | apply keeps_errInc | apply keeps_releaseRef | apply keeps_setCan | apply keeps_foldl)
    | (extract_lets +onlyGivenNames x; first
        | (refine keeps_use (s₀ := s₀) x ?_ (fun hx => ?_); rotate_left; clear_value x; rotate_left; subst x) | clear_value x)
    | with_reducible apply keeps_mk

theorem keeps_linkDark {x1 x2} (h : Keeps s₀ s) : Keeps s₀ (linkDark x1 x2 s) := by
  unfold linkDark
  repeat' first
    | with_reducible assumption | intro _
    | (with_reducible first | apply keeps_linkChange | apply keeps_setLnk)
    | with_reducible apply keeps_mk

theorem keeps_wakeMark {x1} (h : Keeps s₀ s) : Keeps s₀ (wakeMark x1 s) := by
  unfold wakeMark
  repeat' first
    | (with_reducible first | assumption | apply keeps_setSlice | apply keeps_setBit)
    | split | with_reducible apply keeps_mk

theorem keeps_wakeSlice {x1} (h : Keeps s₀ s) : Keeps s₀ (wakeSlice s x1) := by
  unfold wakeSlice
  repeat' first
    | (with_reducible first | assumption | apply keeps_ite | apply keeps_clrBit | apply keeps_setBit | apply keeps_setSlice
                            | apply keeps_rxBoundary)
    | (extract_lets +onlyGivenNames x; first
        | (refine keeps_use (s₀ := s₀) x ?_ (fun hx => ?_); rotate_left; clear_value x; rotate_left; subst x) | clear_value x)
    | split | with_reducible apply keeps_mk

theorem keeps_wakeCatchUp (h : Keeps s₀ s) : Keeps s₀ (wakeCatchUp s) := by
  unfold wakeCatchUp
  repeat' first
    | with_reducible assumption | intro _
    | (with_reducible first | apply keeps_setPower | apply keeps_peerNote | apply keeps_evtSetting | apply keeps_faultEnter
                            | apply keeps_foldl)
    | (extract_lets +onlyGivenNames x; first
        | (refine keeps_use (s₀ := s₀) x ?_ (fun hx => ?_); rotate_left; clear_value x; rotate_left; subst x) | clear_value x)
    | with_reducible apply keeps_mk

theorem keeps_wakeOutWrite {x1} (h : Keeps s₀ s) : Keeps s₀ (wakeOutWrite x1 s) := by
  unfold wakeOutWrite
  repeat' first
    | with_reducible assumption | intro _
    | (with_reducible first | apply keeps_ite | apply keeps_nodeCfgErr | apply keeps_setPower)
    | (extract_lets +onlyGivenNames x; first
        | (refine keeps_use (s₀ := s₀) x ?_ (fun hx => ?_); rotate_left; clear_value x; rotate_left; subst x) | clear_value x)
    | split | with_reducible apply keeps_mk


/-! ### Update -/

theorem keeps_updCfgErr (h : Keeps s₀ s) : Keeps s₀ (updCfgErr s) :=
  keeps_setBit h

theorem keeps_cmdBegin {x1 x2} (h : Keeps s₀ s) : Keeps s₀ (cmdBegin x1 x2 s).2 := by
  unfold cmdBegin
  repeat' first
    | with_reducible assumption | intro _
    | (with_reducible first | apply keeps_ite | apply keeps_setUpd | apply keeps_jWrite | apply keeps_memWrite | apply keeps_flashErase
                            | apply keepsOpt_some)
    | (extract_lets +onlyGivenNames x; first
        | (refine keeps_use (s₀ := s₀) x ?_ (fun hx => ?_); rotate_left; clear_value x; rotate_left; subst x) | clear_value x)
    | split | with_reducible apply keeps_mk

theorem keeps_cmdBlock {x1 x2} (h : Keeps s₀ s) : Keeps s₀ (cmdBlock x1 x2 s).2 := by
  unfold cmdBlock
  repeat' first
    | (with_reducible first | assumption | apply keeps_ite | apply keeps_raise | apply keeps_errInc | apply keeps_memWrite
                            | apply keeps_flashErase | apply keeps_trafInc | apply keeps_bitmapClear)
    | (extract_lets +onlyGivenNames x; first
        | (refine keeps_use (s₀ := s₀) x ?_ (fun hx => ?_); rotate_left; clear_value x; rotate_left; subst x) | clear_value x)
    | split

theorem keeps_cmdVerify {x1} (h : Keeps s₀ s) : Keeps s₀ (cmdVerify x1 s).2 := by
  unfold cmdVerify
  repeat' first
    | (with_reducible first | assumption | apply keeps_ite | apply keeps_raise | apply keeps_errInc | apply keeps_jWrite)
    | (extract_lets +onlyGivenNames x; first
        | (refine keeps_use (s₀ := s₀) x ?_ (fun hx => ?_); rotate_left; clear_value x; rotate_left; subst x) | clear_value x)
    | split | with_reducible apply keeps_mk

theorem keeps_actRecord {x1} (h : Keeps s₀ s) : Keeps s₀ (actRecord x1 s) := by
  unfold actRecord
  repeat' first
    | with_reducible assumption | intro _
    | (with_reducible first | apply keeps_jWrite | apply keeps_logUpdate | apply keeps_trafInc | apply keeps_setUpd)
    | (extract_lets +onlyGivenNames x; first
        | (refine keeps_use (s₀ := s₀) x ?_ (fun hx => ?_); rotate_left; clear_value x; rotate_left; subst x) | clear_value x)
    | with_reducible apply keeps_mk

theorem keeps_cmdActivate {x1 x2} (h : Keeps s₀ s) : Keeps s₀ (cmdActivate x1 x2 s).2 := by
  unfold cmdActivate
  repeat' first
    | with_reducible assumption | intro _
    | (with_reducible first | apply keeps_ite | apply keeps_setUpd | apply keeps_actRecord | apply keeps_loadTables
                            | apply keeps_copyBanks)
    | (extract_lets +onlyGivenNames x; first
        | (refine keeps_use (s₀ := s₀) x ?_ (fun hx => ?_); rotate_left; clear_value x; rotate_left; subst x) | clear_value x)
    | split | with_reducible apply keeps_mk

theorem keeps_cmdConfirm {x1} (h : Keeps s₀ s) : Keeps s₀ (cmdConfirm x1 s).2 := by
  unfold cmdConfirm
  repeat' first
    | (with_reducible first | assumption | apply keeps_ite | apply keeps_jWrite)
    | split | with_reducible apply keeps_mk

theorem keeps_confirmEnd (h : Keeps s₀ s) : Keeps s₀ (confirmEnd s) := by
  unfold confirmEnd
  repeat' first
    | with_reducible assumption | intro _
    | (with_reducible first | apply keeps_setUpd | apply keeps_raiseMinver)
    | with_reducible apply keeps_mk

theorem keeps_cmdAbandon {x1} (h : Keeps s₀ s) : Keeps s₀ (cmdAbandon x1 s).2 := by
  unfold cmdAbandon
  dsimp only
  repeat' first
    | with_reducible assumption | intro _
    | (with_reducible first | apply keeps_ite | apply keeps_setUpd | apply keeps_jWrite)
    | (extract_lets +onlyGivenNames x; first
        | (refine keeps_use (s₀ := s₀) x ?_ (fun hx => ?_); rotate_left; clear_value x; rotate_left; subst x) | clear_value x)
    | split | with_reducible apply keeps_mk

theorem keeps_cmdKeyprog {x1 x2} (h : Keeps s₀ s) : Keeps s₀ (cmdKeyprog x1 x2 s).2 := by
  unfold cmdKeyprog
  repeat' first
    | (with_reducible first | assumption | apply keeps_ite | apply keeps_memWrite)
    | split

theorem keeps_updCommand {x1 x2 x3} (h : Keeps s₀ s) : Keeps s₀ (updCommand x1 x2 x3 s).2 := by
  unfold updCommand
  repeat' first
    | (with_reducible first | assumption | apply keeps_ite | apply keeps_cmdBegin | apply keeps_cmdBlock | apply keeps_cmdVerify
                            | apply keeps_cmdActivate | apply keeps_cmdConfirm | apply keeps_cmdAbandon | apply keeps_cmdKeyprog)
    | (extract_lets +onlyGivenNames x; first
        | (refine keeps_use (s₀ := s₀) x ?_ (fun hx => ?_); rotate_left; clear_value x; rotate_left; subst x) | clear_value x)
    | split | refine keeps_snd (by with_reducible assumption) ?_

theorem keeps_updCmdWrite {x1 x2 x3} (h : Keeps s₀ s) : Keeps s₀ (updCmdWrite x1 x2 x3 s) := by
  unfold updCmdWrite
  repeat' first
    | with_reducible assumption | intro _
    | (with_reducible first | apply keeps_ite | apply keeps_updCfgErr | apply keeps_setReg | apply keeps_updCommand | apply keeps_setUpd)
    | (extract_lets +onlyGivenNames x; first
        | (refine keeps_use (s₀ := s₀) x ?_ (fun hx => ?_); rotate_left; clear_value x; rotate_left; subst x) | clear_value x)
    | split | refine keeps_snd (by with_reducible assumption) ?_ | with_reducible apply keeps_mk

theorem keeps_updExec {x1 x2 x3} (h : Keeps s₀ s) : Keeps s₀ (updExec x1 x2 x3 s) := by
  unfold updExec
  repeat' first
    | (with_reducible first | assumption | apply keeps_ite | apply keeps_updCmdWrite)
    | split

theorem keeps_liveIdle {x1 x2} (h : Keeps s₀ s) : Keeps s₀ (liveIdle x1 x2 s) :=
  keeps_ctxStop h

theorem keeps_liveClear {x1} (h : Keeps s₀ s) : Keeps s₀ (liveClear s x1) := by
  unfold liveClear
  repeat' first
    | with_reducible assumption | intro _
    | (with_reducible first | apply keeps_liveIdle | apply keeps_setBit | apply keeps_flashErase | apply keeps_foldl)
    | (extract_lets +onlyGivenNames x; first
        | (refine keeps_use (s₀ := s₀) x ?_ (fun hx => ?_); rotate_left; clear_value x; rotate_left; subst x) | clear_value x)
    | with_reducible apply keeps_mk

theorem keeps_liveStart {x1 x2} (h : Keeps s₀ s) : Keeps s₀ (liveStart x1 s x2) := by
  unfold liveStart
  repeat' first
    | (with_reducible first | assumption | apply keeps_setCtx | apply keeps_clrBit | apply keeps_ctxStart | apply keeps_setBit)
    | (extract_lets +onlyGivenNames x; first
        | (refine keeps_use (s₀ := s₀) x ?_ (fun hx => ?_); rotate_left; clear_value x; rotate_left; subst x) | clear_value x)
    | with_reducible apply keeps_mk

end Sys2Proof.Machine
end

