-- ==== Sys2Proof/Laws/KeepsFabric.lean ====
section
/-!
SUPPORT. What the operations of the fabric, the bus and the host bridge keep (`Keeps`).
-/
namespace Sys2Proof.Machine

variable {s₀ s : State}

/-! ### Bridge -/

theorem keeps_setFab {x1} (h : Keeps s₀ s) : Keeps s₀ (setFab s x1) := by
  unfold setFab
  repeat' first
    | (with_reducible first | assumption)
    | with_reducible apply keeps_mk

theorem keeps_hbFlag {x1} (h : Keeps s₀ s) : Keeps s₀ (hbFlag x1 s) := by
  unfold hbFlag
  repeat' first
    | (with_reducible first | assumption | apply keeps_ite | apply keeps_stickyRaise | apply keeps_setBit)
    | split

theorem keeps_hbCfgErr (h : Keeps s₀ s) : Keeps s₀ (hbCfgErr s) :=
  keeps_setBit h

theorem keeps_errlogPut {x1 x2 x3 x4} (h : Keeps s₀ s) : Keeps s₀ (errlogPut x1 x2 x3 x4 s) := by
  unfold errlogPut
  repeat' first
    | with_reducible assumption | intro _
    | (with_reducible first | apply keeps_ite | apply keeps_setFab | apply keeps_errInc | apply keeps_hbFlag)
    | split | with_reducible apply keeps_mk

theorem keeps_errlogRead (h : Keeps s₀ s) : Keeps s₀ (errlogRead s).2 := by
  unfold errlogRead
  repeat' first
    | with_reducible assumption | intro _
    | (with_reducible first | apply keeps_setFab)
    | split | with_reducible apply keeps_mk

theorem keeps_winFault {x1} (h : Keeps s₀ s) : Keeps s₀ (winFault x1 s) := by
  unfold winFault
  repeat' first
    | (with_reducible first | assumption | apply keeps_errlogPut | apply keeps_errInc | apply keeps_hbFlag)

theorem keeps_sendTrans {x1} (h : Keeps s₀ s) : Keeps s₀ (sendTrans x1 s) :=
  keeps_originate h

theorem keeps_launchTrans {x1} (h : Keeps s₀ s) : Keeps s₀ (launchTrans x1 s).2 := by
  unfold launchTrans
  repeat' first
    | with_reducible assumption | intro _
    | (with_reducible first | apply keeps_ite | apply keeps_setFab | apply keeps_sendTrans | apply keeps_trafInc)
    | (extract_lets +onlyGivenNames x; first
        | (refine keeps_use (s₀ := s₀) x ?_ (fun hx => ?_); rotate_left; clear_value x; rotate_left; subst x) | clear_value x)
    | split | with_reducible apply keeps_mk

theorem keeps_pumpFrom {d l} (h : Keeps s₀ s) : Keeps s₀ (pumpFrom d l s) := by
  induction l generalizing s d with
  | nil => exact keeps_setFab h
  | cons t r ih =>
    unfold pumpFrom
    repeat' first
      | with_reducible assumption | intro _
      | (with_reducible first | apply keeps_ite | apply keeps_launchTrans | apply ih | apply keeps_foldl | apply keeps_getD)
      | (extract_lets +onlyGivenNames x; first
          | (refine keeps_use (s₀ := s₀) x ?_ (fun hx => ?_); rotate_left; clear_value x; rotate_left; subst x) | clear_value x)
      | split | refine keeps_snd (by with_reducible assumption) ?_ | refine keeps_some (by with_reducible assumption) ?_
      | with_reducible apply keeps_mk

theorem keeps_pump (h : Keeps s₀ s) : Keeps s₀ (pump s) := by
  unfold pump
  repeat' first
    | with_reducible assumption | intro _
    | (with_reducible first | apply keeps_ite | apply keeps_pumpFrom | apply keeps_setFab)
    | (extract_lets +onlyGivenNames x; first
        | (refine keeps_use (s₀ := s₀) x ?_ (fun hx => ?_); rotate_left; clear_value x; rotate_left; subst x) | clear_value x)
    | split | with_reducible apply keeps_mk

theorem keeps_addTrans {x1} (h : Keeps s₀ s) : Keeps s₀ (addTrans x1 s) := by
  unfold addTrans
  repeat' first
    | with_reducible assumption | intro _
    | (with_reducible first | apply keeps_pump | apply keeps_setFab)
    | with_reducible apply keeps_mk

theorem keeps_setTag {x1 x2} (h : Keeps s₀ s) : Keeps s₀ (setTag x1 x2 s) := by
  unfold setTag
  repeat' first
    | with_reducible assumption | intro _
    | (with_reducible first | apply keeps_setFab)
    | with_reducible apply keeps_mk

theorem keeps_tagDiscard {x1} (h : Keeps s₀ s) : Keeps s₀ (tagDiscard x1 s) := by
  unfold tagDiscard
  repeat' first
    | with_reducible assumption | intro _
    | (with_reducible first | apply keeps_ite | apply keeps_setFab | apply keeps_setTag | apply keeps_trafInc | apply keeps_errlogPut
                            | apply keeps_errInc | apply keeps_hbFlag)
    | (extract_lets +onlyGivenNames x; first
        | (refine keeps_use (s₀ := s₀) x ?_ (fun hx => ?_); rotate_left; clear_value x; rotate_left; subst x) | clear_value x)
    | split | with_reducible apply keeps_mk

theorem keeps_heldCover {x1} (h : Keeps s₀ s) : Keeps s₀ (heldCover x1 s) := by
  unfold heldCover
  repeat' first
    | with_reducible assumption | intro _
    | (with_reducible first | apply keeps_ite | apply keeps_tagDiscard | apply keeps_foldl)
    | (extract_lets +onlyGivenNames x; first
        | (refine keeps_use (s₀ := s₀) x ?_ (fun hx => ?_); rotate_left; clear_value x; rotate_left; subst x) | clear_value x)
    | split

theorem keeps_hwinAttrWrite {x1 x2} (h : Keeps s₀ s) : Keeps s₀ (hwinAttrWrite x1 x2 s) := by
  unfold hwinAttrWrite
  repeat' first
    | with_reducible assumption | intro _
    | (with_reducible first | apply keeps_ite | apply keeps_hbCfgErr | apply keeps_tagDiscard | apply keeps_setReg | apply keeps_pump
                            | apply keeps_setFab | apply keeps_foldl)
    | (extract_lets +onlyGivenNames x; first
        | (refine keeps_use (s₀ := s₀) x ?_ (fun hx => ?_); rotate_left; clear_value x; rotate_left; subst x) | clear_value x)
    | split | with_reducible apply keeps_mk

theorem keeps_dropTrans {x1} (h : Keeps s₀ s) : Keeps s₀ (dropTrans x1 s) := by
  unfold dropTrans
  repeat' first
    | with_reducible assumption | intro _
    | (with_reducible first | apply keeps_setFab)
    | with_reducible apply keeps_mk

theorem keeps_npAnswer {x1} (h : Keeps s₀ s) : Keeps s₀ (npAnswer x1 s) := by
  unfold npAnswer
  repeat' first
    | with_reducible assumption | intro _
    | (with_reducible first | apply keeps_ite | apply keeps_setFab)
    | split | with_reducible apply keeps_mk

theorem keeps_npOne {x1} (h : Keeps s₀ s) : Keeps s₀ (npOne x1 s) := by
  unfold npOne
  repeat' first
    | with_reducible assumption | intro _
    | (with_reducible first | apply keeps_ite | apply keeps_npAnswer | apply keeps_setFab)
    | (extract_lets +onlyGivenNames x; first
        | (refine keeps_use (s₀ := s₀) x ?_ (fun hx => ?_); rotate_left; clear_value x; rotate_left; subst x) | clear_value x)
    | split | with_reducible apply keeps_mk

theorem keeps_postFail {x1 x2 x3} (h : Keeps s₀ s) : Keeps s₀ (postFail x1 x2 x3 s) := by
  unfold postFail
  repeat' first
    | (with_reducible first | assumption | apply keeps_setReg | apply keeps_errlogPut | apply keeps_errInc | apply keeps_hbFlag)
    | (extract_lets +onlyGivenNames x; first
        | (refine keeps_use (s₀ := s₀) x ?_ (fun hx => ?_); rotate_left; clear_value x; rotate_left; subst x) | clear_value x)

theorem keeps_engPostFail {x1 x2 x3} (h : Keeps s₀ s) : Keeps s₀ (engPostFail x1 x2 x3 s) := by
  unfold engPostFail
  repeat' first
    | (with_reducible first | assumption | apply keeps_errlogPut | apply keeps_hbFlag | apply keeps_setEng)
    | with_reducible apply keeps_mk

theorem keeps_hostFail {x1 x2 x3} (h : Keeps s₀ s) : Keeps s₀ (hostFail x1 x2 x3 s) := by
  unfold hostFail
  repeat' first
    | (with_reducible first | assumption | apply keeps_errlogPut | apply keeps_errInc)

theorem keeps_transFail {x1 x2} (h : Keeps s₀ s) : Keeps s₀ (transFail x1 x2 s) := by
  unfold transFail
  extract_lets +onlyGivenNames a b
  have ha : Keeps s₀ a := keeps_dropTrans h
  apply keeps_pump
  subst b
  clear_value a
  split
  · extract_lets t
    have ht : Keeps s₀ t := keeps_hostFail ha
    clear_value t
    repeat' first
      | with_reducible assumption | intro _
      | (with_reducible first | apply keeps_ite | apply keeps_setTag | apply keeps_foldl | apply keeps_getD)
      | (extract_lets +onlyGivenNames x; first
          | (refine keeps_use (s₀ := s₀) x ?_ (fun hx => ?_); rotate_left; clear_value x; rotate_left; subst x) | clear_value x)
      | split | refine keeps_snd (by with_reducible assumption) ?_ | refine keeps_some (by with_reducible assumption) ?_
      | with_reducible apply keeps_mk
  · split
    · exact keeps_npOne (keeps_hostFail ha)
    · exact keeps_hostFail ha
  · exact keeps_postFail ha
  · exact keeps_respond ha
  · exact keeps_engPostFail ha

theorem keeps_transOk {x1 x2} (h : Keeps s₀ s) : Keeps s₀ (transOk x1 x2 s) := by
  unfold transOk
  repeat' first
    | (with_reducible first | assumption | apply keeps_ite | apply keeps_dropTrans | apply keeps_setTag | apply keeps_npOne
                            | apply keeps_respond | apply keeps_pump)
    | (extract_lets +onlyGivenNames x; first
        | (refine keeps_use (s₀ := s₀) x ?_ (fun hx => ?_); rotate_left; clear_value x; rotate_left; subst x) | clear_value x)
    | split | with_reducible apply keeps_mk

theorem keeps_transDemand {x1} (h : Keeps s₀ s) : Keeps s₀ (transDemand x1 s) := by
  unfold transDemand
  repeat' first
    | with_reducible assumption | intro _
    | (with_reducible first | apply keeps_ite | apply keeps_setTag | apply keeps_launchTrans | apply keeps_setFab | apply keeps_transFail
                            | apply keeps_dropTrans)
    | (extract_lets +onlyGivenNames x; first
        | (refine keeps_use (s₀ := s₀) x ?_ (fun hx => ?_); rotate_left; clear_value x; rotate_left; subst x) | clear_value x)
    | split | refine keeps_snd (by with_reducible assumption) ?_ | with_reducible apply keeps_mk

theorem keeps_takeResponse {x1} (h : Keeps s₀ s) : Keeps s₀ (takeResponse x1 s) := by
  unfold takeResponse
  repeat' first
    | (with_reducible first | assumption | apply keeps_ite | apply keeps_errInc | apply keeps_transOk | apply keeps_transDemand
                            | apply keeps_transFail)
    | (extract_lets +onlyGivenNames x; first
        | (refine keeps_use (s₀ := s₀) x ?_ (fun hx => ?_); rotate_left; clear_value x; rotate_left; subst x) | clear_value x)
    | split

theorem keeps_arrivedTake {x} (h : Keeps s₀ s) : KeepsOptP s₀ (arrivedTake x s) := by
  unfold arrivedTake
  refine ⟨fun y e => ?_⟩
  rw [Option.map_eq_some_iff] at e
  obtain ⟨f, -, rfl⟩ := e
  dsimp only
  exact keeps_setFab h

theorem keeps_fenceMark (h : Keeps s₀ s) : Keeps s₀ (fenceMark s) := by
  unfold fenceMark
  repeat' first
    | with_reducible assumption | intro _
    | (with_reducible first | apply keeps_ite | apply keeps_setFab)
    | split | with_reducible apply keeps_mk

theorem keeps_fenceRead (h : Keeps s₀ s) : Keeps s₀ (fenceRead s).2 := by
  unfold fenceRead
  repeat' first
    | (with_reducible first | assumption | apply keeps_setReg)


/-! ### Bus -/

theorem keeps_markedRead {x1} (h : Keeps s₀ s) : Keeps s₀ (markedRead x1 s).2 := by
  unfold markedRead
  repeat' first
    | (with_reducible first | assumption | apply keeps_ite | apply keeps_nowLoRead | apply keeps_shutRead | apply keeps_fenceRead
                            | apply keeps_errlogRead | apply keeps_fifoRead | apply keeps_canRxTake)
    | split | refine keeps_snd (by with_reducible assumption) ?_

theorem keeps_markedBad {x1} (h : Keeps s₀ s) : Keeps s₀ (markedBad x1 s).2 := by
  unfold markedBad
  repeat' first
    | (with_reducible first | assumption | apply keeps_ite | apply keeps_fifoEcc)
    | split | refine keeps_snd (by with_reducible assumption) ?_

theorem keeps_busRead {x1} (h : Keeps s₀ s) : Keeps s₀ (busRead x1 s).2 := by
  unfold busRead
  repeat' first
    | (with_reducible first | assumption | apply keeps_ite | apply keeps_markedBad | apply keeps_markedRead | apply keeps_takeFree
                            | apply keeps_eccRead)
    | (extract_lets +onlyGivenNames x; first
        | (refine keeps_use (s₀ := s₀) x ?_ (fun hx => ?_); rotate_left; clear_value x; rotate_left; subst x) | clear_value x)
    | split | refine keeps_snd (by with_reducible assumption) ?_

theorem keeps_plainWrite {x1 x2} (h : Keeps s₀ s) : Keeps s₀ (plainWrite x1 x2 s) := by
  unfold plainWrite
  repeat' first
    | (with_reducible first | assumption | apply keeps_setReg)
    | split

theorem keeps_nodeWrite {x1 x2} (h : Keeps s₀ s) : Keeps s₀ (nodeWrite x1 x2 s) := by
  unfold nodeWrite
  repeat' first
    | (with_reducible first | assumption | apply keeps_ite | apply keeps_rstCmdWrite | apply keeps_faultCmdWrite
                            | apply keeps_sleepCmdWrite | apply keeps_wakeOutWrite | apply keeps_wdogCtlWrite | apply keeps_wdogKickWrite
                            | apply keeps_sweSetWrite | apply keeps_nodeCfgErr | apply keeps_setBit | apply keeps_plainWrite)
    | split

theorem keeps_timeWrite {x1 x2} (h : Keeps s₀ s) : Keeps s₀ (timeWrite x1 x2 s) := by
  unfold timeWrite
  repeat' first
    | (with_reducible first | assumption | apply keeps_ite | apply keeps_timeCtlWrite | apply keeps_setCmdWrite
                            | apply keeps_timeRateWrite | apply keeps_leapCtlWrite | apply keeps_shutCtlWrite | apply keeps_timeCfgErr
                            | apply keeps_plainWrite)
    | split

theorem keeps_hbWrite {x1 x2} (h : Keeps s₀ s) : Keeps s₀ (hbWrite x1 x2 s) := by
  unfold hbWrite
  repeat' first
    | with_reducible assumption | intro _
    | (with_reducible first | apply keeps_ite | apply keeps_setBit | apply keeps_fifoAppend | apply keeps_fifoCtlWrite
                            | apply keeps_hbCfgErr | apply keeps_plainWrite | apply keeps_hwinAttrWrite)
    | (extract_lets +onlyGivenNames x; first
        | (refine keeps_use (s₀ := s₀) x ?_ (fun hx => ?_); rotate_left; clear_value x; rotate_left; subst x) | clear_value x)
    | split

theorem keeps_ringWrite {x1 x2} (h : Keeps s₀ s) : Keeps s₀ (ringWrite x1 x2 s) := by
  unfold ringWrite
  repeat' first
    | (with_reducible first | assumption | apply keeps_ite | apply keeps_ringCtlWrite | apply keeps_modCmdWrite | apply keeps_linkCtlWrite
                            | apply keeps_admCtlWrite | apply keeps_admCmdWrite | apply keeps_ringCfgErr | apply keeps_plainWrite)
    | split

theorem keeps_nextOf {o} (ho : KeepsO s₀ o) : Keeps s₀ (nextOf s o) := by
  obtain ⟨t, rfl, ht⟩ := ho.out
  exact ht

theorem keeps_txbWrite {x1 x2 x3 x4} (h : Keeps s₀ s) : Keeps s₀ (txbWrite x1 x2 x3 x4 s) := by
  unfold txbWrite
  repeat' first
    | (with_reducible first | assumption | apply keeps_ite | apply keeps_plainWrite | apply keeps_canCfgErr | apply keeps_nextOf
                            | apply keeps_execCanTxRequest | apply keeps_execCanTxAbort)
    | split | refine keeps_next (by with_reducible assumption) ?_

theorem keeps_canWrite {x1 x2 x3} (h : Keeps s₀ s) : Keeps s₀ (canWrite x1 x2 x3 s) := by
  unfold canWrite
  repeat' first
    | (with_reducible first | assumption | apply keeps_ite | apply keeps_takeFree | apply keeps_canCtlWrite | apply keeps_canCfgErr
                            | apply keeps_plainWrite | apply keeps_canRxCtlWrite | apply keeps_txbWrite)
    | (extract_lets +onlyGivenNames x; first
        | (refine keeps_use (s₀ := s₀) x ?_ (fun hx => ?_); rotate_left; clear_value x; rotate_left; subst x) | clear_value x)
    | split | refine keeps_snd (by with_reducible assumption) ?_

theorem keeps_updWrite {x1 x2 x3} (h : Keeps s₀ s) : Keeps s₀ (updWrite x1 x2 x3 s) := by
  unfold updWrite
  repeat' first
    | (with_reducible first | assumption | apply keeps_ite | apply keeps_takeFree | apply keeps_updCmdWrite | apply keeps_updCfgErr
                            | apply keeps_plainWrite)
    | (extract_lets +onlyGivenNames x; first
        | (refine keeps_use (s₀ := s₀) x ?_ (fun hx => ?_); rotate_left; clear_value x; rotate_left; subst x) | clear_value x)
    | split | refine keeps_snd (by with_reducible assumption) ?_

theorem keeps_avWrite {x1 x2} (h : Keeps s₀ s) : Keeps s₀ (avWrite x1 x2 s) := by
  unfold avWrite
  repeat' first
    | (with_reducible first | assumption | apply keeps_ite | apply keeps_rotCmdWrite | apply keeps_sliceCmdWrite | apply keeps_logCmdWrite
                            | apply keeps_avCfgErr | apply keeps_plainWrite)
    | split

theorem keeps_portWrite {x1 x2 x3} (h : Keeps s₀ s) : Keeps s₀ (portWrite x1 x2 x3 s) := by
  unfold portWrite
  repeat' first
    | (with_reducible first | assumption | apply keeps_ite | apply keeps_nextOf | apply keeps_execPortModeWrite
                            | apply keeps_execSwapRequest | apply keeps_measWrite | apply keeps_portFlag | apply keeps_plainWrite
                            | apply keeps_ratePend | apply keeps_cutRescan)
    | (extract_lets +onlyGivenNames x; first
        | (refine keeps_use (s₀ := s₀) x ?_ (fun hx => ?_); rotate_left; clear_value x; rotate_left; subst x) | clear_value x)
    | split | refine keeps_next (by with_reducible assumption) ?_

theorem keeps_tileWrite {x1 x2 x3} (h : Keeps s₀ s) : Keeps s₀ (tileWrite x1 x2 x3 s) := by
  unfold tileWrite
  repeat' first
    | (with_reducible first | assumption | apply keeps_ite | apply keeps_nextOf | apply keeps_execTilePwrEn | apply keeps_tileFlag
                            | apply keeps_plainWrite | apply keeps_setLine)
    | (extract_lets +onlyGivenNames x; first
        | (refine keeps_use (s₀ := s₀) x ?_ (fun hx => ?_); rotate_left; clear_value x; rotate_left; subst x) | clear_value x)
    | split | refine keeps_next (by with_reducible assumption) ?_ | with_reducible apply keeps_mk

theorem keeps_swWrite {x1 x2} (h : Keeps s₀ s) : Keeps s₀ (swWrite x1 x2 s) := by
  unfold swWrite
  repeat' first
    | (with_reducible first | assumption | apply keeps_ite | apply keeps_swCfgErr | apply keeps_plainWrite | apply keeps_nextOf
                            | apply keeps_execPoolRsvWrite | apply keeps_setReg | apply keeps_tblCtlWrite | apply keeps_stgCmdWrite)
    | split | refine keeps_next (by with_reducible assumption) ?_

theorem keeps_tblWrite {x1 x2 x3} (h : Keeps s₀ s) : Keeps s₀ (tblWrite x1 x2 x3 s) := by
  unfold tblWrite
  repeat' first
    | (with_reducible first | assumption | apply keeps_ite | apply keeps_swCfgErr | apply keeps_tblPut)
    | (extract_lets +onlyGivenNames x; first
        | (refine keeps_use (s₀ := s₀) x ?_ (fun hx => ?_); rotate_left; clear_value x; rotate_left; subst x) | clear_value x)
    | split

theorem keeps_memLanes {x1 x2 x3} (h : Keeps s₀ s) : Keeps s₀ (memLanes x1 x2 x3 s) := by
  unfold memLanes
  repeat' first
    | with_reducible assumption | intro _
    | (with_reducible first | apply keeps_ite | apply keeps_memPut | apply keeps_foldl)
    | split

theorem keeps_updBufWrite {x1 x2 x3 x4} (h : Keeps s₀ s) : Keeps s₀ (updBufWrite x1 x2 x3 x4 s) := by
  unfold updBufWrite
  repeat' first
    | (with_reducible first | assumption | apply keeps_ite | apply keeps_updCfgErr | apply keeps_memLanes)
    | split

theorem keeps_regWrite {x1 x2 x3} (h : Keeps s₀ s) : Keeps s₀ (regWrite x1 x2 x3 s) := by
  unfold regWrite
  repeat' first
    | with_reducible assumption | intro _
    | (with_reducible first | apply keeps_ite | apply keeps_nodeWrite | apply keeps_timeWrite | apply keeps_dlWrite
                            | apply keeps_plainWrite | apply keeps_hbWrite | apply keeps_ringWrite | apply keeps_canWrite
                            | apply keeps_updWrite | apply keeps_avWrite | apply keeps_portWrite | apply keeps_tileWrite
                            | apply keeps_swWrite | apply keeps_engWrite | apply keeps_fifoCtlWrite | apply keeps_engCfgErr
                            | apply keeps_getD)
    | (extract_lets +onlyGivenNames x; first
        | (refine keeps_use (s₀ := s₀) x ?_ (fun hx => ?_); rotate_left; clear_value x; rotate_left; subst x) | clear_value x)
    | split | refine keeps_some (by with_reducible assumption) ?_

theorem keeps_busWrite {x1 x2 x3 x4} (h : Keeps s₀ s) : KeepsOpt s₀ (busWrite x1 x2 x3 x4 s) := by
  unfold busWrite
  repeat' first
    | (with_reducible first | assumption | apply keeps_ite | apply keeps_updBufWrite | apply keeps_memLanes | apply keeps_tblWrite
                            | apply keeps_regWrite | apply keeps_eccClean | apply keepsOpt_some)
    | split | exact keepsOpt_none


/-! ### HostBus -/

theorem keeps_setBus {x1} (h : Keeps s₀ s) : Keeps s₀ (setBus x1 s) := by
  unfold setBus
  repeat' first
    | with_reducible assumption | intro _
    | (with_reducible first | apply keeps_setFab)
    | with_reducible apply keeps_mk

theorem keeps_hostRow {x1 x2 x3 x4 x5} (h : Keeps s₀ s) (hx5 : ∀ s, Keeps s₀ s → Keeps s₀ (x5 s)) : KeepsO s₀ (hostRow x1 x2 x3 x4 x5 s) := by
  unfold hostRow
  repeat' first
    | with_reducible assumption | intro _
    | (with_reducible first | apply keeps_ite | apply keeps_setBus | apply keeps_winFault | apply hx5 | apply keepsO_next)
    | split

theorem keeps_ownRead {x k i a} (h : Keeps s₀ s) : Keeps s₀ (ownRead x k i a s) := by
  induction k generalizing s i a with
  | zero => exact keeps_setBus h
  | succ k ih =>
    unfold ownRead
    repeat' first
      | with_reducible assumption | intro _
      | (with_reducible first | apply keeps_ite | apply keeps_setBus | apply keeps_winFault | apply keeps_busRead | apply ih
                              | apply keeps_foldl | apply keeps_getD)
      | (extract_lets +onlyGivenNames x; first
          | (refine keeps_use (s₀ := s₀) x ?_ (fun hx => ?_); rotate_left; clear_value x; rotate_left; subst x) | clear_value x)
      | split | refine keeps_snd (by with_reducible assumption) ?_ | refine keeps_some (by with_reducible assumption) ?_
      | with_reducible apply keeps_mk

theorem keeps_fenceShut (h : Keeps s₀ s) : Keeps s₀ (fenceShut s) := by
  unfold fenceShut
  repeat' first
    | with_reducible assumption | intro _
    | (with_reducible first | apply keeps_setFab)
    | with_reducible apply keeps_mk

theorem keeps_ownReadAll {x1} (h : Keeps s₀ s) : Keeps s₀ (ownReadAll x1 s) := by
  unfold ownReadAll
  repeat' first
    | (with_reducible first | assumption | apply keeps_ite | apply keeps_fenceMark | apply keeps_ownRead | apply keeps_fenceShut
                            | apply keeps_setBus)
    | (extract_lets +onlyGivenNames x; first
        | (refine keeps_use (s₀ := s₀) x ?_ (fun hx => ?_); rotate_left; clear_value x; rotate_left; subst x) | clear_value x)
    | split

theorem keeps_writeRuns {x1 x2} (h : Keeps s₀ s) : Keeps s₀ (writeRuns x1 x2 s) := by
  unfold writeRuns
  repeat' first
    | with_reducible assumption | intro _
    | (with_reducible first | apply keeps_ite | apply keeps_postFail | apply keeps_addTrans | apply keeps_foldl)
    | (extract_lets +onlyGivenNames x; first
        | (refine keeps_use (s₀ := s₀) x ?_ (fun hx => ?_); rotate_left; clear_value x; rotate_left; subst x) | clear_value x)
    | split

theorem keeps_writeEnd {x r} (h : Keeps s₀ r.2.2.2) : Keeps s₀ (writeEnd x r) := by
  obtain ⟨b, a, l, t⟩ := r
  unfold writeEnd
  dsimp only at h ⊢
  split
  · exact keeps_writeRuns (keeps_setFab (keeps_setBus h))
  · exact keeps_writeRuns (keeps_setBus h)

theorem keeps_writeWords {x k i a l} (h : Keeps s₀ s) : Keeps s₀ (writeWords x k i a l s).2.2.2 := by
  induction k generalizing s i a l with
  | zero => exact h
  | succ k ih =>
    unfold writeWords
    repeat' first
      | with_reducible assumption | intro _
      | (with_reducible first | apply keeps_ite | apply keeps_winFault | apply keeps_busWrite | apply keeps_hostFail
                              | apply keeps_heldCover | apply ih | apply keeps_foldl | apply keeps_getD)
      | (extract_lets +onlyGivenNames x; first
          | (refine keeps_use (s₀ := s₀) x ?_ (fun hx => ?_); rotate_left; clear_value x; rotate_left; subst x) | clear_value x)
      | split | refine keeps_snd (by with_reducible assumption) ?_ | refine keeps_some (by with_reducible assumption) ?_
      | with_reducible apply keeps_mk

theorem keeps_hostWrite {x} (h : Keeps s₀ s) : Keeps s₀ (hostWrite x s) := by
  unfold hostWrite
  split
  · exact keeps_setBus h
  split
  · exact keeps_setBus h
  split
  · dsimp only
    split
    · exact keeps_setBus h
    · exact keeps_writeEnd (keeps_writeWords h)
  · exact keeps_writeEnd (keeps_writeWords h)

theorem keeps_heldTake {x1 x2} (h : Keeps s₀ s) : Keeps s₀ (heldTake x1 x2 s) := by
  unfold heldTake
  repeat' first
    | with_reducible assumption | intro _
    | (with_reducible first | apply keeps_setTag)
    | (extract_lets +onlyGivenNames x; first
        | (refine keeps_use (s₀ := s₀) x ?_ (fun hx => ?_); rotate_left; clear_value x; rotate_left; subst x) | clear_value x)
    | split | with_reducible apply keeps_mk

theorem keeps_readLaunch {x1 x2 x3} (h : Keeps s₀ s) : Keeps s₀ (readLaunch x1 x2 x3 s) := by
  unfold readLaunch
  repeat' first
    | with_reducible assumption | intro _
    | (with_reducible first | apply keeps_ite | apply keeps_addTrans | apply keeps_setTag | apply keeps_hostFail | apply keeps_errInc
                            | apply keeps_winFault)
    | (extract_lets +onlyGivenNames x; first
        | (refine keeps_use (s₀ := s₀) x ?_ (fun hx => ?_); rotate_left; clear_value x; rotate_left; subst x) | clear_value x)
    | split

theorem keeps_readRefused {x1 x2} (h : Keeps s₀ s) : KeepsOpt s₀ (readRefused x1 x2 s) := by
  unfold readRefused
  repeat' first
    | (with_reducible first | assumption | apply keeps_ite | apply keeps_setBus | apply keeps_hostFail | apply keepsOpt_some)
    | split | exact keepsOpt_none

theorem keeps_readFirst {x1} (h : Keeps s₀ s) : Keeps s₀ (readFirst x1 s) := by
  unfold readFirst
  repeat' first
    | with_reducible assumption | intro _
    | (with_reducible first | apply keeps_ite | apply keeps_setBus | apply keeps_readRefused | apply keeps_heldTake
                            | apply keeps_readLaunch | apply keeps_foldl)
    | (extract_lets +onlyGivenNames x; first
        | (refine keeps_use (s₀ := s₀) x ?_ (fun hx => ?_); rotate_left; clear_value x; rotate_left; subst x) | clear_value x)
    | split | refine keeps_some (by with_reducible assumption) ?_

theorem keeps_tagDelivered {x1 x2} (h : Keeps s₀ s) : Keeps s₀ (tagDelivered x1 x2 s) := by
  unfold tagDelivered
  repeat' first
    | with_reducible assumption | intro _
    | (with_reducible first | apply keeps_ite | apply keeps_setTag)
    | split | with_reducible apply keeps_mk

theorem keeps_readAgain {x1} (h : Keeps s₀ s) : Keeps s₀ (readAgain x1 s) := by
  unfold readAgain
  repeat' first
    | (with_reducible first | assumption | apply keeps_ite | apply keeps_setBus | apply keeps_readRefused | apply keeps_tagDelivered)
    | (extract_lets +onlyGivenNames x; first
        | (refine keeps_use (s₀ := s₀) x ?_ (fun hx => ?_); rotate_left; clear_value x; rotate_left; subst x) | clear_value x)
    | split | refine keeps_some (by with_reducible assumption) ?_


/-! ### Target -/

theorem keeps_readWords {l} (h : Keeps s₀ s) : Keeps s₀ (readWords l s).2 := by
  induction l generalizing s with
  | nil => exact h
  | cons a r ih =>
    unfold readWords
    repeat' first
      | with_reducible assumption | intro _
      | (with_reducible first | apply keeps_ite | apply keeps_busRead | apply ih | apply keeps_foldl | apply keeps_getD)
      | (extract_lets +onlyGivenNames x; first
          | (refine keeps_use (s₀ := s₀) x ?_ (fun hx => ?_); rotate_left; clear_value x; rotate_left; subst x) | clear_value x)
      | split | refine keeps_snd (by with_reducible assumption) ?_ | refine keeps_some (by with_reducible assumption) ?_
      | with_reducible apply keeps_mk

theorem keeps_readRun {x1 x2} (h : Keeps s₀ s) : Keeps s₀ (readRun x1 x2 s).2 := by
  unfold readRun
  repeat' first
    | (with_reducible first | assumption | apply keeps_ite | apply keeps_readWords)
    | split | refine keeps_snd (by with_reducible assumption) ?_

theorem keeps_writeRun {x a l} (h : Keeps s₀ s) : KeepsOpt s₀ (writeRun x a l s) := by
  unfold writeRun
  extract_lets w
  split
  · exact keepsOpt_some (keeps_foldl h fun _ _ h => keeps_getD (keeps_busWrite h) h)
  · exact keepsOpt_none

theorem keeps_sendAnswer {x1} (h : Keeps s₀ s) : Keeps s₀ (sendAnswer x1 s) := by
  unfold sendAnswer
  repeat' first
    | (with_reducible first | assumption | apply keeps_ite | apply keeps_originate)
    | split

theorem keeps_perform {x1} (h : Keeps s₀ s) : Keeps s₀ (perform x1 s).2 := by
  unfold perform
  repeat' first
    | with_reducible assumption | intro _
    | (with_reducible first | apply keeps_ite | apply keeps_trafInc | apply keeps_readRun | apply keeps_errInc | apply keeps_writeRun
                            | apply keepsOpt_some)
    | (extract_lets +onlyGivenNames x; first
        | (refine keeps_use (s₀ := s₀) x ?_ (fun hx => ?_); rotate_left; clear_value x; rotate_left; subst x) | clear_value x)
    | split | refine keeps_snd (by with_reducible assumption) ?_ | refine keeps_some (by with_reducible assumption) ?_

theorem keeps_evict (h : Keeps s₀ s) : Keeps s₀ (evict s) := by
  unfold evict
  repeat' first
    | with_reducible assumption | intro _
    | (with_reducible first | apply keeps_ite | apply keeps_errInc | apply keeps_setFab)
    | (extract_lets +onlyGivenNames x; first
        | (refine keeps_use (s₀ := s₀) x ?_ (fun hx => ?_); rotate_left; clear_value x; rotate_left; subst x) | clear_value x)
    | split | with_reducible apply keeps_mk

theorem keeps_performCached {x1} (h : Keeps s₀ s) : Keeps s₀ (performCached x1 s) := by
  unfold performCached
  repeat' first
    | with_reducible assumption | intro _
    | (with_reducible first | apply keeps_ite | apply keeps_perform | apply keeps_sendAnswer | apply keeps_setFab)
    | (extract_lets +onlyGivenNames x; first
        | (refine keeps_use (s₀ := s₀) x ?_ (fun hx => ?_); rotate_left; clear_value x; rotate_left; subst x) | clear_value x)
    | split | refine keeps_snd (by with_reducible assumption) ?_ | with_reducible apply keeps_mk

theorem keeps_targetStep {x1} (h : Keeps s₀ s) : Keeps s₀ (targetStep x1 s) := by
  unfold targetStep
  repeat' first
    | with_reducible assumption | intro _
    | (with_reducible first | apply keeps_ite | apply keeps_perform | apply keeps_sendAnswer | apply keeps_trafInc | apply keeps_errInc
                            | apply keeps_performCached | apply keeps_evict)
    | (extract_lets +onlyGivenNames x; first
        | (refine keeps_use (s₀ := s₀) x ?_ (fun hx => ?_); rotate_left; clear_value x; rotate_left; subst x) | clear_value x)
    | split | refine keeps_snd (by with_reducible assumption) ?_

end Sys2Proof.Machine
end

