-- ==== Sys2Proof/Laws/KeepsCode.lean ====
section
/-!
SUPPORT. What the operations of the engine instructions and the clock keep (`Keeps`).
-/
namespace Sys2Proof.Machine

variable {s₀ s : State}

/-! ### FzCore -/

theorem keeps_fetch {x1 x2} (h : Keeps s₀ s) : Keeps s₀ (fetch x1 x2 s).2 := by
  unfold fetch
  repeat' first
    | (with_reducible first | assumption | apply keeps_eccRead)
    | refine keeps_snd (by with_reducible assumption) ?_

theorem keeps_exc {x1 x2 x3} (h : Keeps s₀ s) : Keeps s₀ (exc x1 x2 x3 s) :=
  keeps_takeExc h

theorem keeps_issue {x1 x2 x3 x4} (h : Keeps s₀ s) (hx4 : ∀ s, Keeps s₀ s → Keeps s₀ (x4 s)) : KeepsO s₀ (issue x1 x2 x3 x4 s) := by
  unfold issue
  repeat' first
    | with_reducible assumption | intro _
    | (with_reducible first | apply keeps_ite | apply keeps_fetch | apply keeps_exc | apply hx4 | apply keepsO_next)
    | split | refine keeps_snd (by with_reducible assumption) ?_

theorem keeps_finish {x1 x2 x3} (h : Keeps s₀ s) : Keeps s₀ (finish x1 x2 x3 s) :=
  keeps_applyRes h

theorem keeps_wr {x1 x2 x3 x4} (h : Keeps s₀ s) : Keeps s₀ (wr x1 x2 x3 x4 s) :=
  keeps_finish h


/-! ### FzReq -/

theorem keeps_emitCells {x1 x2 x3} (h : Keeps s₀ s) : Keeps s₀ (emitCells x1 x2 x3 s).2 := by
  unfold emitCells
  dsimp only
  repeat' first
    | with_reducible assumption | intro _
    | (with_reducible first | apply keeps_allocChain | apply keeps_setCellSt)
    | (extract_lets +onlyGivenNames x; first
        | (refine keeps_use (s₀ := s₀) x ?_ (fun hx => ?_); rotate_left; clear_value x; rotate_left; subst x) | clear_value x)
    | split | refine keeps_snd (by with_reducible assumption) ?_

theorem keeps_tagLenByte {x1} (h : Keeps s₀ s) : Keeps s₀ (tagLenByte x1 s).2 := by
  unfold tagLenByte
  repeat' first
    | (with_reducible first | assumption | apply keeps_ite | apply keeps_takeFree)
    | (extract_lets +onlyGivenNames x; first
        | (refine keeps_use (s₀ := s₀) x ?_ (fun hx => ?_); rotate_left; clear_value x; rotate_left; subst x) | clear_value x)
    | split | refine keeps_snd (by with_reducible assumption) ?_

theorem keeps_emitText {x1 x2} (h : Keeps s₀ s) : Keeps s₀ (emitText x1 x2 s).2 := by
  unfold emitText
  repeat' first
    | with_reducible assumption | intro _
    | (with_reducible first | apply keeps_ite | apply keeps_emitCells | apply keeps_takeSeq | apply keeps_tagLenByte
                            | apply keeps_writeText | apply keeps_writeStamp | apply keeps_commitRouted | apply keeps_getD)
    | (extract_lets +onlyGivenNames x; first
        | (refine keeps_use (s₀ := s₀) x ?_ (fun hx => ?_); rotate_left; clear_value x; rotate_left; subst x) | clear_value x)
    | split | refine keeps_snd (by with_reducible assumption) ?_

theorem keeps_emsgSend {x1 x2 x3 x4} (h : Keeps s₀ s) : Keeps s₀ (emsgSend x1 x2 x3 x4 s).2 := by
  unfold emsgSend
  repeat' first
    | (with_reducible first | assumption | apply keeps_ite | apply keeps_emqPut | apply keeps_tunSend)
    | (extract_lets +onlyGivenNames x; first
        | (refine keeps_use (s₀ := s₀) x ?_ (fun hx => ?_); rotate_left; clear_value x; rotate_left; subst x) | clear_value x)
    | split | refine keeps_snd (by with_reducible assumption) ?_

theorem keeps_inactiveWrite {x1 x2} (h : Keeps s₀ s) : KeepsOpt s₀ (inactiveWrite x1 x2 s) := by
  unfold inactiveWrite
  repeat' first
    | with_reducible assumption | intro _
    | (with_reducible first | apply keeps_ite | apply keeps_tblPut | apply keeps_foldl | apply keepsOpt_some)
    | (extract_lets +onlyGivenNames x; first
        | (refine keeps_use (s₀ := s₀) x ?_ (fun hx => ?_); rotate_left; clear_value x; rotate_left; subst x) | clear_value x)
    | split | exact keepsOpt_none

theorem keeps_fabLocal {x1 x2} (h : Keeps s₀ s) : Keeps s₀ (fabLocal x1 x2 s).2 := by
  unfold fabLocal
  repeat' first
    | (with_reducible first | assumption | apply keeps_readRun | apply keeps_writeRun | apply keepsOpt_some)
    | split | refine keeps_snd (by with_reducible assumption) ?_ | refine keeps_some (by with_reducible assumption) ?_

theorem keeps_postNow {x1 x2 x3} (h : Keeps s₀ s) : Keeps s₀ (postNow x1 x2 x3 s) := by
  unfold postNow
  repeat' first
    | (with_reducible first | assumption | apply keeps_ite | apply keeps_writeRun | apply keeps_engPostFail | apply keeps_addTrans
                            | apply keeps_getD | apply keepsOpt_some)
    | (extract_lets +onlyGivenNames x; first
        | (refine keeps_use (s₀ := s₀) x ?_ (fun hx => ?_); rotate_left; clear_value x; rotate_left; subst x) | clear_value x)
    | split | refine keeps_some (by with_reducible assumption) ?_ | with_reducible apply keeps_mk

theorem keeps_reqAlloc {x1 x2 x3} (h : Keeps s₀ s) : Keeps s₀ (reqAlloc x1 x2 x3 s).2 := by
  unfold reqAlloc
  dsimp only
  repeat' first
    | with_reducible assumption | intro _
    | (with_reducible first | apply keeps_ite | apply keeps_setCellSt | apply keeps_allocPair | apply keeps_allocFirst)
    | (extract_lets +onlyGivenNames x; first
        | (refine keeps_use (s₀ := s₀) x ?_ (fun hx => ?_); rotate_left; clear_value x; rotate_left; subst x) | clear_value x)
    | split | refine keeps_snd (by with_reducible assumption) ?_

theorem keeps_reqFree {x1 x2 x3} (h : Keeps s₀ s) : Keeps s₀ (reqFree x1 x2 x3 s).2 := by
  unfold reqFree
  repeat' first
    | (with_reducible first | assumption | apply keeps_ite | apply keeps_setCellSt)
    | (extract_lets +onlyGivenNames x; first
        | (refine keeps_use (s₀ := s₀) x ?_ (fun hx => ?_); rotate_left; clear_value x; rotate_left; subst x) | clear_value x)
    | split

theorem keeps_reqEfwd {x1 x2 x3 x4 x5} (h : Keeps s₀ s) : Keeps s₀ (reqEfwd x1 x2 x3 x4 x5 s).2 := by
  unfold reqEfwd
  repeat' first
    | (with_reducible first | assumption | apply keeps_ite | apply keeps_eccChain | apply keeps_emitText)
    | (extract_lets +onlyGivenNames x; first
        | (refine keeps_use (s₀ := s₀) x ?_ (fun hx => ?_); rotate_left; clear_value x; rotate_left; subst x) | clear_value x)
    | split | refine keeps_snd (by with_reducible assumption) ?_

theorem keeps_reqEchain {x1 x2 x3 x4 x5} (h : Keeps s₀ s) : Keeps s₀ (reqEchain x1 x2 x3 x4 x5 s).2 := by
  unfold reqEchain
  repeat' first
    | (with_reducible first | assumption | apply keeps_ite | apply keeps_eccChain | apply keeps_emitText)
    | (extract_lets +onlyGivenNames x; first
        | (refine keeps_use (s₀ := s₀) x ?_ (fun hx => ?_); rotate_left; clear_value x; rotate_left; subst x) | clear_value x)
    | split | refine keeps_snd (by with_reducible assumption) ?_

theorem keeps_reqCwr {x1 x2 x3 x4} (h : Keeps s₀ s) : Keeps s₀ (reqCwr x1 x2 x3 x4 s).2 := by
  unfold reqCwr
  repeat' first
    | (with_reducible first | assumption | apply keeps_ite | apply keeps_inactiveWrite | apply keeps_stageEntry | apply keeps_hitMeets
                            | apply keeps_swCfgErr | apply keepsOpt_some)
    | (extract_lets +onlyGivenNames x; first
        | (refine keeps_use (s₀ := s₀) x ?_ (fun hx => ?_); rotate_left; clear_value x; rotate_left; subst x) | clear_value x)
    | split | refine keeps_some (by with_reducible assumption) ?_

theorem keeps_reqFence {x1 x2 x3 x4} (h : Keeps s₀ s) : Keeps s₀ (reqFence x1 x2 x3 x4 s) := by
  unfold reqFence
  repeat' first
    | with_reducible assumption | intro _
    | (with_reducible first | apply keeps_ite | apply keeps_setCtx)
    | (extract_lets +onlyGivenNames x; first
        | (refine keeps_use (s₀ := s₀) x ?_ (fun hx => ?_); rotate_left; clear_value x; rotate_left; subst x) | clear_value x)
    | split | with_reducible apply keeps_mk

theorem keeps_doReq {x1 x2 x3 x4} (h : Keeps s₀ s) : Keeps s₀ (doReq x1 x2 x3 x4 s).2 := by
  unfold doReq
  dsimp only
  repeat' first
    | with_reducible assumption | intro _
    | (with_reducible first | apply keeps_ite | apply keeps_busRead | apply keeps_busWrite | apply keeps_eccRead | apply keeps_engFlag
                            | apply keeps_setLatch | apply keeps_raise | apply keeps_dlOp | apply keeps_reqAlloc | apply keeps_reqFree
                            | apply keeps_memWrite | apply keeps_releaseRef | apply keeps_reqCwr | apply keeps_emitText
                            | apply keeps_reqEfwd | apply keeps_reqEchain | apply keeps_emsgSend | apply keeps_fabLocal
                            | apply keeps_addTrans | apply keeps_postNow | apply keeps_reqFence | apply keepsOpt_some)
    | (extract_lets +onlyGivenNames x; first
        | (refine keeps_use (s₀ := s₀) x ?_ (fun hx => ?_); rotate_left; clear_value x; rotate_left; subst x) | clear_value x)
    | split | refine keeps_snd (by with_reducible assumption) ?_ | refine keeps_some (by with_reducible assumption) ?_

theorem keeps_gateRun {l n} (h : Keeps s₀ s) : Keeps s₀ (gateRun l n s) := by
  induction n generalizing s with
  | zero => exact h
  | succ n ih =>
    unfold gateRun
    split
    · exact h
    · rename_i r rest _
      split
      · exact h
      · have hd := keeps_doReq (x1 := l) (x2 := r.c) (x3 := r.id) (x4 := r.req) (keeps_setEng (x1 := l) (x2 := { eng s l with gate := rest }) h)
        generalize doReq l r.c r.id r.req _ = p at hd
        obtain ⟨res, u⟩ := p
        apply ih
        dsimp only at hd ⊢
        split
        · exact keeps_respond hd
        · exact hd

theorem keeps_gateDrain {x1} (h : Keeps s₀ s) : Keeps s₀ (gateDrain x1 s) :=
  keeps_gateRun h

theorem keeps_gatesDrain (h : Keeps s₀ s) : Keeps s₀ (gatesDrain s) := by
  unfold gatesDrain
  repeat' first
    | with_reducible assumption | intro _
    | (with_reducible first | apply keeps_gateDrain | apply keeps_foldl)

theorem keeps_gatePut {x1 x2 x3 x4} (h : Keeps s₀ s) : Keeps s₀ (gatePut x1 x2 x3 x4 s) := by
  unfold gatePut
  repeat' first
    | (with_reducible first | assumption | apply keeps_gateDrain | apply keeps_setEng)
    | with_reducible apply keeps_mk

theorem keeps_blocking {x1 x2 x3} (h : Keeps s₀ s) : Keeps s₀ (blocking x1 x2 x3 s) := by
  unfold blocking
  repeat' first
    | (with_reducible first | assumption | apply keeps_gatePut | apply keeps_blockOn)
    | (extract_lets +onlyGivenNames x; first
        | (refine keeps_use (s₀ := s₀) x ?_ (fun hx => ?_); rotate_left; clear_value x; rotate_left; subst x) | clear_value x)

theorem keeps_posted {x1 x2 x3 x4} (h : Keeps s₀ s) : Keeps s₀ (posted x1 x2 x3 x4 s) := by
  unfold posted
  repeat' first
    | with_reducible assumption | intro _
    | (with_reducible first | apply keeps_ite | apply keeps_gateDrain | apply keeps_gatePut | apply keeps_finish | apply keeps_blockOn
                            | apply keeps_setCtx)
    | (extract_lets +onlyGivenNames x; first
        | (refine keeps_use (s₀ := s₀) x ?_ (fun hx => ?_); rotate_left; clear_value x; rotate_left; subst x) | clear_value x)
    | split | with_reducible apply keeps_mk


/-! ### FzMem -/

theorem keeps_regLoad {x1} (h : Keeps s₀ s) : Keeps s₀ (regLoad x1 s).2 := by
  unfold regLoad
  repeat' first
    | (with_reducible first | assumption | apply keeps_ite | apply keeps_busRead)
    | split | refine keeps_snd (by with_reducible assumption) ?_

theorem keeps_loadAt {x1 x2 x3 x4 x5 x6} (h : Keeps s₀ s) : Keeps s₀ (loadAt x1 x2 x3 x4 x5 x6 s) := by
  unfold loadAt
  repeat' first
    | (with_reducible first | assumption | apply keeps_ite | apply keeps_exc | apply keeps_eccRead | apply keeps_wr | apply keeps_regLoad
                            | apply keeps_blocking)
    | (extract_lets +onlyGivenNames x; first
        | (refine keeps_use (s₀ := s₀) x ?_ (fun hx => ?_); rotate_left; clear_value x; rotate_left; subst x) | clear_value x)
    | split | refine keeps_snd (by with_reducible assumption) ?_

theorem keeps_noteStale {x1 x2} (h : Keeps s₀ s) : Keeps s₀ (noteStale x1 x2 s) := by
  unfold noteStale
  repeat' first
    | with_reducible assumption | intro _
    | (with_reducible first | apply keeps_ite | apply keeps_setCtx | apply keeps_foldl)
    | (extract_lets +onlyGivenNames x; first
        | (refine keeps_use (s₀ := s₀) x ?_ (fun hx => ?_); rotate_left; clear_value x; rotate_left; subst x) | clear_value x)
    | split | with_reducible apply keeps_mk

theorem keeps_storeAt {x1 x2 x3 x4 x5} (h : Keeps s₀ s) : Keeps s₀ (storeAt x1 x2 x3 x4 x5 s) := by
  unfold storeAt
  repeat' first
    | (with_reducible first | assumption | apply keeps_ite | apply keeps_exc | apply keeps_memWrite | apply keeps_noteStale
                            | apply keeps_finish | apply keeps_eccClean | apply keeps_setCtx | apply keeps_busWrite | apply keeps_blocking
                            | apply keeps_getD)
    | (extract_lets +onlyGivenNames x; first
        | (refine keeps_use (s₀ := s₀) x ?_ (fun hx => ?_); rotate_left; clear_value x; rotate_left; subst x) | clear_value x)
    | split | refine keeps_some (by with_reducible assumption) ?_

theorem keeps_loadOp {x1 x2 x3 x4 x5 x6 x7 x8} (h : Keeps s₀ s) : KeepsO s₀ (loadOp x1 x2 x3 x4 x5 x6 x7 x8 s) := by
  unfold loadOp
  repeat' first
    | with_reducible assumption | intro _
    | (with_reducible first | apply keeps_issue | apply keeps_loadAt | apply keepsO_next)
    | refine keeps_next (by with_reducible assumption) ?_

theorem keeps_storeOp {x1 x2 x3 x4 x5 x6 x7} (h : Keeps s₀ s) : KeepsO s₀ (storeOp x1 x2 x3 x4 x5 x6 x7 s) := by
  unfold storeOp
  repeat' first
    | with_reducible assumption | intro _
    | (with_reducible first | apply keeps_issue | apply keeps_storeAt | apply keepsO_next)
    | refine keeps_next (by with_reducible assumption) ?_

theorem keeps_jumpTo {x1 x2 x3 x4 x5} (h : Keeps s₀ s) : Keeps s₀ (jumpTo x1 x2 x3 x4 x5 s) := by
  unfold jumpTo
  repeat' first
    | (with_reducible first | assumption | apply keeps_atBoundary | apply keeps_setCtx)
    | with_reducible apply keeps_mk

theorem keeps_branchOp {x1 x2 x3 x4 x5 x6 x7} (h : Keeps s₀ s) : KeepsO s₀ (branchOp x1 x2 x3 x4 x5 x6 x7 s) := by
  unfold branchOp
  repeat' first
    | with_reducible assumption | intro _
    | (with_reducible first | apply keeps_ite | apply keeps_issue | apply keeps_jumpTo | apply keeps_finish | apply keepsO_next)
    | split | refine keeps_next (by with_reducible assumption) ?_


/-! ### FzText -/

theorem keeps_dmRead {x1 x2 x3} (h : Keeps s₀ s) : Keeps s₀ (dmRead x1 x2 x3 s).2 := by
  unfold dmRead
  repeat' first
    | (with_reducible first | assumption | apply keeps_ite | apply keeps_eccRead)
    | (extract_lets +onlyGivenNames x; first
        | (refine keeps_use (s₀ := s₀) x ?_ (fun hx => ?_); rotate_left; clear_value x; rotate_left; subst x) | clear_value x)
    | split | refine keeps_snd (by with_reducible assumption) ?_

theorem keeps_withDesc {x1 x2 x3 x4 x5} (h : Keeps s₀ s) (hx5 : ∀ a0 s, Keeps s₀ s → Keeps s₀ (x5 a0 s)) : Keeps s₀ (withDesc x1 x2 x3 x4 x5 s) := by
  unfold withDesc
  repeat' first
    | with_reducible assumption | intro _
    | (with_reducible first | apply keeps_ite | apply keeps_exc | apply keeps_dmRead | apply hx5)
    | split | refine keeps_snd (by with_reducible assumption) ?_

theorem keeps_txEnd {x1 x2 x3 x4 x5} (h : Keeps s₀ s) : Keeps s₀ (txEnd x1 x2 x3 x4 x5 s) := by
  unfold txEnd
  repeat' first
    | (with_reducible first | assumption | apply keeps_ite | apply keeps_eccRead | apply keeps_exc | apply keeps_finish
                            | apply keeps_blocking)
    | (extract_lets +onlyGivenNames x; first
        | (refine keeps_use (s₀ := s₀) x ?_ (fun hx => ?_); rotate_left; clear_value x; rotate_left; subst x) | clear_value x)
    | split | refine keeps_snd (by with_reducible assumption) ?_

theorem keeps_txHead {x1 x2 x3} (h : Keeps s₀ s) (hx3 : ∀ s, Keeps s₀ s → Keeps s₀ (x3 s)) : Keeps s₀ (txHead x1 x2 x3 s) := by
  unfold txHead
  repeat' first
    | with_reducible assumption | intro _
    | (with_reducible first | apply keeps_ite | apply keeps_eccRead | apply keeps_exc | apply hx3)
    | (extract_lets +onlyGivenNames x; first
        | (refine keeps_use (s₀ := s₀) x ?_ (fun hx => ?_); rotate_left; clear_value x; rotate_left; subst x) | clear_value x)
    | split | refine keeps_snd (by with_reducible assumption) ?_

theorem keeps_withField {x1 x2 x3 x4 x5} (h : Keeps s₀ s) (hx5 : ∀ a0 a1 a2 s, Keeps s₀ s → Keeps s₀ (x5 a0 a1 a2 s)) : Keeps s₀ (withField x1 x2 x3 x4 x5 s) := by
  unfold withField
  repeat' first
    | with_reducible assumption | intro _
    | (with_reducible first | apply keeps_ite | apply keeps_exc | apply keeps_txHead | apply hx5)
    | (extract_lets +onlyGivenNames x; first
        | (refine keeps_use (s₀ := s₀) x ?_ (fun hx => ?_); rotate_left; clear_value x; rotate_left; subst x) | clear_value x)
    | split

theorem keeps_putText {x1 x2 x3 x4} (h : Keeps s₀ s) : Keeps s₀ (putText x1 x2 x3 x4 s) := by
  unfold putText
  repeat' first
    | (with_reducible first | assumption | apply keeps_ite | apply keeps_finish | apply keeps_exc)
    | (extract_lets +onlyGivenNames x; first
        | (refine keeps_use (s₀ := s₀) x ?_ (fun hx => ?_); rotate_left; clear_value x; rotate_left; subst x) | clear_value x)
    | split

theorem keeps_winRead {x1 x2 x3 x4} (h : Keeps s₀ s) : Keeps s₀ (winRead x1 x2 x3 x4 s).2 := by
  unfold winRead
  repeat' first
    | (with_reducible first | assumption | apply keeps_ite | apply keeps_eccRead)
    | (extract_lets +onlyGivenNames x; first
        | (refine keeps_use (s₀ := s₀) x ?_ (fun hx => ?_); rotate_left; clear_value x; rotate_left; subst x) | clear_value x)
    | split | refine keeps_snd (by with_reducible assumption) ?_

theorem keeps_bufRead {x1 x2 x3 x4} (h : Keeps s₀ s) : Keeps s₀ (bufRead x1 x2 x3 x4 s).2 := by
  unfold bufRead
  repeat' first
    | (with_reducible first | assumption | apply keeps_winRead | apply keeps_dmRead)
    | split | refine keeps_snd (by with_reducible assumption) ?_

theorem keeps_cxorOp {x1 x2 x3 x4 x5 x6} (h : Keeps s₀ s) : Keeps s₀ (cxorOp x1 x2 x3 x4 x5 x6 s) := by
  unfold cxorOp
  repeat' first
    | (with_reducible first | assumption | apply keeps_bufRead | apply keeps_wr | apply keeps_exc)
    | split | refine keeps_snd (by with_reducible assumption) ?_


/-! ### FzEmit -/

theorem keeps_descText {x1 x2 x3} (h : Keeps s₀ s) : Keeps s₀ (descText x1 x2 x3 s).2 := by
  unfold descText
  repeat' first
    | (with_reducible first | assumption | apply keeps_ite | apply keeps_dmRead)
    | (extract_lets +onlyGivenNames x; first
        | (refine keeps_use (s₀ := s₀) x ?_ (fun hx => ?_); rotate_left; clear_value x; rotate_left; subst x) | clear_value x)
    | split | refine keeps_snd (by with_reducible assumption) ?_


/-! ### FzCell -/

theorem keeps_camOp {x1 x2 x3 x4 x5} (h : Keeps s₀ s) (hx5 : ∀ a0 s, Keeps s₀ s → Keeps s₀ (x5 a0 s)) : Keeps s₀ (camOp x1 x2 x3 x4 x5 s) := by
  unfold camOp
  repeat' first
    | with_reducible assumption | intro _
    | (with_reducible first | apply keeps_ite | apply keeps_withDesc | apply keeps_exc | apply hx5)
    | split

theorem keeps_camImage {x1 x2 x3 x4 x5} (h : Keeps s₀ s) (hx5 : ∀ a0 s, Keeps s₀ s → Keeps s₀ (x5 a0 s)) : Keeps s₀ (camImage x1 x2 x3 x4 x5 s) := by
  unfold camImage
  repeat' first
    | with_reducible assumption | intro _
    | (with_reducible first | apply keeps_dmRead | apply keeps_exc | apply hx5)
    | split | refine keeps_snd (by with_reducible assumption) ?_


/-! ### FzEvt -/

theorem keeps_dlwrOp {x1 x2 x3 x4 x5} (h : Keeps s₀ s) : KeepsO s₀ (dlwrOp x1 x2 x3 x4 x5 s) := by
  unfold dlwrOp
  repeat' first
    | with_reducible assumption | intro _
    | (with_reducible first | apply keeps_issue | apply keeps_posted | apply keepsO_next)
    | refine keeps_next (by with_reducible assumption) ?_


/-! ### FzAlu -/

theorem keeps_aluOp {x1 x2 x3 x4 x5 x6 x7} (h : Keeps s₀ s) : KeepsO s₀ (aluOp x1 x2 x3 x4 x5 x6 x7 s) := by
  unfold aluOp
  repeat' first
    | with_reducible assumption | intro _
    | (with_reducible first | apply keeps_issue | apply keeps_wr | apply keepsO_next)
    | refine keeps_next (by with_reducible assumption) ?_

theorem keeps_divOp {x1 x2 x3 x4 x5 x6 x7} (h : Keeps s₀ s) : KeepsO s₀ (divOp x1 x2 x3 x4 x5 x6 x7 s) := by
  unfold divOp
  repeat' first
    | with_reducible assumption | intro _
    | (with_reducible first | apply keeps_ite | apply keeps_issue | apply keeps_exc | apply keeps_wr | apply keepsO_next)
    | split | refine keeps_next (by with_reducible assumption) ?_

theorem keeps_immOp {x1 x2 x3 x4 x5 x6 x7} (h : Keeps s₀ s) : KeepsO s₀ (immOp x1 x2 x3 x4 x5 x6 x7 s) := by
  unfold immOp
  repeat' first
    | with_reducible assumption | intro _
    | (with_reducible first | apply keeps_issue | apply keeps_wr | apply keepsO_next)
    | refine keeps_next (by with_reducible assumption) ?_

theorem keeps_shiftOp {x1 x2 x3 x4 x5 x6 x7} (h : Keeps s₀ s) : KeepsO s₀ (shiftOp x1 x2 x3 x4 x5 x6 x7 s) := by
  unfold shiftOp
  repeat' first
    | with_reducible assumption | intro _
    | (with_reducible first | apply keeps_issue | apply keeps_wr | apply keepsO_next)
    | refine keeps_next (by with_reducible assumption) ?_


/-! ### FzFab -/

theorem keeps_fabBlocking {x1 x2 x3} (h : Keeps s₀ s) : Keeps s₀ (fabBlocking x1 x2 x3 s) := by
  unfold fabBlocking
  repeat' first
    | (with_reducible first | assumption | apply keeps_ite | apply keeps_exc | apply keeps_blocking)
    | split

theorem keeps_fabPost {x1 x2 x3} (h : Keeps s₀ s) : Keeps s₀ (fabPost x1 x2 x3 s) :=
  keeps_posted h

theorem keeps_fabWord {x1 x2 x3 x4} (h : Keeps s₀ s) (hx4 : ∀ a0 a1 s, Keeps s₀ s → Keeps s₀ (x4 a0 a1 s)) : Keeps s₀ (fabWord x1 x2 x3 x4 s) := by
  unfold fabWord
  repeat' first
    | with_reducible assumption | intro _
    | (with_reducible first | apply keeps_ite | apply keeps_exc | apply hx4)
    | split


/-! ### Tick -/

theorem keeps_btcTick {x1} (h : Keeps s₀ s) : Keeps s₀ (btcTick s x1) := by
  unfold btcTick
  repeat' first
    | (with_reducible first | assumption | apply keeps_ite | apply keeps_setCan | apply keeps_trafInc)
    | (extract_lets +onlyGivenNames x; first
        | (refine keeps_use (s₀ := s₀) x ?_ (fun hx => ?_); rotate_left; clear_value x; rotate_left; subst x) | clear_value x)
    | split | with_reducible apply keeps_mk

theorem keeps_countTick (h : Keeps s₀ s) : Keeps s₀ (countTick s) := by
  unfold countTick
  repeat' first
    | with_reducible assumption | intro _
    | (with_reducible first | apply keeps_setTime)
    | (extract_lets +onlyGivenNames x; first
        | (refine keeps_use (s₀ := s₀) x ?_ (fun hx => ?_); rotate_left; clear_value x; rotate_left; subst x) | clear_value x)
    | with_reducible apply keeps_mk

theorem keeps_tick (h : Keeps s₀ s) : Keeps s₀ (tick s) := by
  unfold tick
  repeat' first
    | (with_reducible first | assumption | apply keeps_ite | apply keeps_countTick | apply keeps_followAge | apply keeps_gatesDrain
                            | apply keeps_pump | apply keeps_budgetTick | apply keeps_btcTick | apply keeps_timeTick)
    | (extract_lets +onlyGivenNames x; first
        | (refine keeps_use (s₀ := s₀) x ?_ (fun hx => ?_); rotate_left; clear_value x; rotate_left; subst x) | clear_value x)
    | split | with_reducible apply keeps_mk

end Sys2Proof.Machine
end

