-- ==== Sys2Proof/Tests/Slice0.lean ====
section
/-!
SUPPORT. Tests: the well-formedness checks, instruction words and worked examples of the manual, and for every obligation with hypotheses
a state and operands that meet the hypotheses of each of its clauses, at the ends of their ranges.
-/
set_option Elab.async false

namespace Sys2Proof.Tests

open Sys2Proof.Machine

/-! ### States that the tests start from -/

/-- A node in state p with the ID 005h. -/
def node (p : Phase) : State := { nodeId := 5, power := { phase := p, loaded := true } }
/-- A node in RUNNING. -/
def up : State := node .running
/-- The state with a register written. -/
def rg (a v : Nat) (s : State) : State := setReg s a (wd v)
/-- The state with a part of its power unit changed. -/
def pw (f : Power → Power) (s : State) : State := setPower s f
/-- The state with a slice, its queue, its parser or its raw block in place. -/
def sl (n : Nat) (v : SliceSt) (s : State) : State := setSlice s n v
def qu (n : Nat) (v : QSt) (s : State) : State := setQueue s n v
def ps (n : Nat) (v : ParserSt) (s : State) : State := setParser s n v
def rw (n : Nat) (v : RawSt) (s : State) : State := setRaw s n v
/-- The state with a correspondence pair for a stamping clock. -/
def pr (clk : Nat) (s : State) : State :=
  { s with time := { s.time with pairs := [(clk, { epochs := [(0, { c := 0, t4 := 0, rho := 0 })] })] } }
/-- The state with bytes of memory written. -/
def mw (a n v : Nat) (s : State) : State := memPutNat s a n v
/-- The state with a line tile powered, good and ready. -/
def tl (k : Nat) (s : State) : State := setTile (rg (aTile k 0) 1 (rg (aTile k 4) 1 s)) k { run := true, ready := true }
/-- The state with words in a FIFO. -/
def ff (f : Nat) (ws : List Word) (s : State) : State := setFifo s f { words := ws }
/-- A listener queue with a sentence of cell 9 started, ended, or waiting. -/
def it9 : QItem := { cell := 9, cls := 7, charge := 1 }
/-- The state with the time unit, a discrete line or a link changed. -/
def tm (f : TimeSt → TimeSt) (s : State) : State := setTime s f
def di (k : Nat) (v : DlSt) (s : State) : State := { s with dl := [(k, v)] }
def lk (m : Nat) (v : LinkSt) (s : State) : State := { s with ring := { s.ring with links := [(m, v)] } }
/-- A link in UP. -/
def upLink : LinkSt := { sync := true, peer := true }
/-- The state with frames that wait in the ring unit, come over a link. -/
def rq (m : Nat) (fs : List Frame) (s : State) : State := { s with ring := { s.ring with inq := [(m, fs)] } }
/-- A TIME frame of a kind. -/
def timeFr (kind : Byte) (src : Nat) : Frame := { typ := 7, dest := 0, src := src, payload := kind :: List.replicate 23 0 }
/-- The state with a context in place, on an engine that is placed and not held. -/
def cx (l c : Nat) (v : CtxSt) (s : State) : State := setCtx l c v (rg (aEng l 0) 0x00100000 (rg (aEng l 4) (l * 0x1000000) s))
/-- Context 7 of L15 issues a word at the end of its instruction memory, with some registers set. -/
def fz (w : Word) (g : List (Nat × Nat)) (s : State) : State :=
  cx 15 7 { st := .run, pc := 0xFFFC, g := g.map (fun e => (e.1, wd e.2)) } (mw (aEngMem 15 + 0xFFFC) 4 w.toNat s)
/-- The same in an exception handler. -/
def fzX (w : Word) (g : List (Nat × Nat)) (s : State) : State :=
  cx 15 7 { st := .run, pc := 0xFFFC, exl := true, g := g.map (fun e => (e.1, wd e.2)) } (mw (aEngMem 15 + 0xFFFC) 4 w.toNat s)
/-- The context with a text in its cell window, the first `tag` bytes of it a TAG block. -/
def tx (w : Word) (g : List (Nat × Nat)) (bs : List Nat) (tag : Nat) : State :=
  let s := fz w g up
  setCtx 15 7 { ctx s 15 7 with
    win := [(14, BitVec.ofNat 8 bs.length), (27, BitVec.ofNat 8 tag)] ++ (List.range bs.length).map (fun i => (32 + i,
      BitVec.ofNat 8 (bs.getD i 0))) } s
/-- A sentence "A,1.5,FF*", and a TAG block "\s:7\" with a sentence. -/
def snt : List Nat := [0x41, 0x2C, 0x31, 0x2E, 0x35, 0x2C, 0x46, 0x46, 0x2A]
def tgd : List Nat := [0x5C, 0x73, 0x3A, 0x37, 0x5C, 0x24, 0x41]
/-- The context holds a sentence. -/
def hd (k : Nat) (s : State) : State := setCtx 15 7 { ctx s 15 7 with held := some k } s
/-- Host window 7, 64 KB at the top of the host's addresses, enabled, with a fabric base. -/
def wi (ctl fab : Nat) (s : State) : State :=
  let s := rg (aWin 7 0x0C) ctl (pw (fun p => { p with vhb := 1 }) s)
  { s with fab := { s.fab with wins := [(7, (0xFFFF0000, fab))] } }
/-- A read tag of an access to the last word of the window. -/
def tag0 (life : TagLife) : Tag := { life := life, host := 0xFFFFFFFC, len := 1, be := 15, piece := 0, win := 7, fab := 2 ^ 36 + 0xFFFC, bytes := 4 }
/-- A part of the fabric unit changed. -/
def fb (f : FabSt → FabSt) (s : State) : State := { s with fab := f s.fab }
/-- A transaction of context 7 of L15, and one of a slot. -/
def trEng : Trans := { owner := .eng 15 7 3, node := 1, typ := 2, addr := 0, blen := 4, tseq := 0xFFFF, sent := true }
def trSlot : Trans := { owner := .slot 63, node := 1, typ := 5, addr := 0, blen := 4, tseq := 0xFFFF, sent := true }
/-- A read request for the last word of the message store. -/
def rqFr : Frame := { typ := 2, dest := 5, src := 1, payload := txHdr 0x013FFFFC 4 0 0 0 0 }
/-- Both links of the second pair are UP. -/
def lks (s : State) : State := { s with ring := { s.ring with links := [(2, upLink), (3, upLink)] } }
/-- A frame in reception on link 3. -/
def rx3 (x : RxFrame) (s : State) : State := lk 3 { upLink with rx := [x] } s
def rxF : RxFrame := { word0 := 0, express := false, pass := false, take := false, rxAt := 0 }
/-- A MGT frame of a kind. -/
def mgtFr (kind b1 : Byte) (id src : Nat) (duid : Nat) : Frame :=
  { typ := 8, dest := 0, src := src, payload := [kind, b1, 0, 0] ++ bytesLE 4 id ++ bytesLE 8 duid }
/-- A part of the manager's state changed. -/
def mg (f : MgrSt → MgrSt) (s : State) : State := { s with ring := { s.ring with mgr := f s.ring.mgr } }
/-- The second CAN controller in a state. -/
def cn (st : Nat) (v : CanSt) (s : State) : State :=
  pw (fun p => { p with vcanOk := true }) (rg (aCan 1 0x04) st { s with can := [(1, v)] })
/-- A received CAN frame that no filter action marks, and one that is delivered to the receive FIFO. -/
def stg (act : Word) : CanStaged := { head := 0, b4 := 0x3F, btc := 0, count := 0, data := List.replicate 64 0, act := act }
/-- The activation journal holds a record. -/
def jr (r : JRec) (s : State) : State := memWrite s (jAddr 0) (jBytes r)
/-- A part of the update unit or of the availability unit changed. -/
def up' (f : UpdSt → UpdSt) (s : State) : State := { s with upd := f s.upd }
def av (f : AvSt → AvSt) (s : State) : State := { s with av := f s.av }
/-- The update buffer holds the header of an image of 3,071 blocks. -/
def upHdr : State :=
  mw 0x00061000 4 0x4D495842 (mw 0x00061005 1 1 (mw 0x00061006 2 0x200 (mw 0x00061014 2 3071 (mw 0x000611BC 4 0xC47338F3 up))))
/-- A download in progress, and a block of zeros with its CRC-32C in the buffer. -/
def upBlk : State := mw 0x00061FFC 4 0xA732586E (jr { proof := 1 } up)

/-- Evaluate a number before it is used: the CRC of a long list is computed by the kernel byte by byte. -/
def forced {α : Type} (n : Nat) (f : Nat → α) : α := match n with
  | 0 => f 0
  | k + 1 => f (k + 1)
theorem forced_eq {α : Type} (n : Nat) (f : Nat → α) : forced n f = f n := by cases n <;> rfl
/-- One bit step of a reflected CRC-32 on numbers, eight of them, and the bytes of a list. -/
def crcBitN (p n : Nat) : Nat := n / 2 ^^^ p * (n % 2)
def crcByteN (p : Nat) : Nat → Nat → Nat
  | 0, a => a
  | k + 1, a => forced (crcBitN p a) (crcByteN p k)
def crcGo (p : Nat) : List Byte → Nat → Nat
  | [], a => a
  | b :: r, a => forced (crcByteN p 8 (a ^^^ b.toNat)) (crcGo p r)
theorem crcBitN_eq (p r : Word) : (crc32Bit p r).toNat = crcBitN p.toNat r.toNat := by
  unfold crc32Bit crcBitN
  have h : r.getLsbD 0 = decide (r.toNat % 2 = 1) := by
    simp [BitVec.getLsbD, Nat.testBit_zero]
  rw [h]
  rcases Nat.mod_two_eq_zero_or_one r.toNat with e | e <;> simp [e, Nat.shiftRight_eq_div_pow]
theorem crcByteN_eq (p : Word) (k : Nat) : ∀ r : Word, (iter (crc32Bit p) k r).toNat = crcByteN p.toNat k r.toNat := by
  induction k with
  | zero => intro r; rfl
  | succ k ih => intro r; rw [iter, ih, crcByteN, forced_eq, crcBitN_eq]
theorem crcGo_eq (p : Word) (bs : List Byte) : ∀ r : Word,
    (bs.foldl (fun r b => iter (crc32Bit p) 8 (r ^^^ (b.setWidth 32))) r).toNat = crcGo p.toNat bs r.toNat := by
  induction bs with
  | nil => intro r; rfl
  | cons b bs ih =>
    intro r
    rw [List.foldl_cons, ih, crcGo, forced_eq, crcByteN_eq, BitVec.toNat_xor, BitVec.toNat_setWidth,
      Nat.mod_eq_of_lt (by have := b.isLt; omega)]
theorem crc32With_eq (p : Word) (bs : List Byte) : crc32With p bs = ~~~ (BitVec.ofNat 32 (crcGo p.toNat bs 0xFFFFFFFF)) := by
  unfold crc32With
  congr 1
  apply BitVec.eq_of_toNat_eq
  rw [crcGo_eq]
  have : (crcGo p.toNat bs 0xFFFFFFFF) < 2 ^ 32 := by
    rw [show (0xFFFFFFFF : Nat) = (~~~ (0 : Word)).toNat from rfl, ← crcGo_eq]; exact BitVec.isLt _
  rw [BitVec.toNat_ofNat, Nat.mod_eq_of_lt this]; rfl
/-- The check values of the two CRCs over the characters 1 to 9. -/
theorem test_crc32c : crc32c [0x31, 0x32, 0x33, 0x34, 0x35, 0x36, 0x37, 0x38, 0x39] = 0xE3069283#32 := by decide +kernel
theorem memBytes_zero (s : State) (n : Nat) : ∀ a, (∀ b, a ≤ b → b < a + n → memByte s b = 0) → memBytes s a n = List.replicate n 0 := by
  induction n with
  | zero => intro a _; rfl
  | succ n ih =>
    intro a h
    rw [memBytes, h a (Nat.le_refl a) (by omega), ih (a + 1) (fun b h1 h2 => h b (by omega) (by omega)), List.replicate_succ]
theorem test_upHdr_check1 : check1 (updBuf upHdr 512) = true := by
  unfold check1 crc32c; rw [crc32With_eq]; decide +kernel
theorem upBlk_zero (b : Nat) (h1 : 0x00061000 ≤ b) (h2 : b < 0x00061FFC) : memByte upBlk b = 0 := by
  unfold upBlk mw jr
  rw [memPutNat, memByte_memWrite_out _ _ _ (.inl h2), memByte_memWrite_out _ _ _ (.inl (by unfold jAddr; omega))]
  have : memByte up b = memReset b := rfl
  rw [this, memReset]
  simp; omega
theorem test_upBlk_blockOk : blockOk upBlk 0x00061000 = true := by
  unfold blockOk crc32c
  rw [memBytes_zero _ _ _ (fun b h1 h2 => upBlk_zero b h1 h2), crc32With_eq]
  decide +kernel
/-- Temperatures at the lower threshold. -/
def upWarm : State := rg (aAv 0x90) 0x0201 (av (fun v => { v with warnArmed := false, critArmed := false }) up)
theorem test_upWarm_temps : ∀ x ∈ [(4#16), 4#16, 4#16, 4#16], 4 * (fld upWarm (aAv 0x90) 7 0 : Int) ≤ x.toInt := by
  intro x hx
  have e : x = 4#16 := by simpa using hx
  rw [e, show fld upWarm (aAv 0x90) 7 0 = 1 by decide +kernel]
  decide
/-- The context with a text of 97 letters, the last of them in cell 0. -/
def txLong (w : Word) (g : List (Nat × Nat)) : State :=
  let s := fz w g up
  setCtx 15 7 { ctx s 15 7 with
    win := [(14, 97), (25, 0x80)] ++ (List.range 96).map (fun i => (32 + i, 0x41)) } s
/-- A posted fabric write that waits in the gate of L15, and n posted writes of it on the ring. -/
def gateFab : GateReq := { c := 7, id := 0, req := .fabPost { node := 1, off := 0, len := 4, data := some [0, 0, 0, 0], gd := 0 } }
def posts (n : Nat) (s : State) : State :=
  fb (fun f => { f with trans := (List.range n).map (fun i => { trEng with owner := .engPost 15 7 i, typ := 4 }) }) s
/-- A response to the read of context 7 with a status, a write request for the last word of the message store, and a frame in reception
that passes. -/
def rsp (st : Nat) : Frame :=
  { typ := 3, dest := 5, src := 1, payload := txHdr 0 4 (itagOf trEng.owner) 0xFFFF 0 st ++ [1, 2, 3, 4] }
def wrFr : Frame := { rqFr with typ := 5, payload := rqFr.payload ++ [1, 2, 3, 4] }
def rxQ : RxFrame := { rxF with word0 := wd (ofBytesLE ((frameBytes rqFr rqFr.payload).take 4)), pass := true }
/-- A non-posted write of the bridge, a response to a transaction with a status, and a read request for a word. -/
def trNp : Trans := { trSlot with owner := .np 63 true }
def rspTo (x : Trans) (st : Nat) : Frame := { rsp st with payload := txHdr 0 4 (itagOf x.owner) 0xFFFF 0 st }
def rqTo (a : Nat) (spec : Bool) : Frame := { rqFr with spec := spec, payload := txHdr a 4 0 0 0 0 }
/-- A record without data for a buffer. -/
def recB (b : Byte) : List Byte := [0, 0, 0, 0, 0, b] ++ List.replicate 10 0
/-- The header of an image of one block and no sections, signed: its first 448 bytes, and SIG_R and SIG_S. The signature (e,
  e) on the hash e
holds under the key P − G, P being a point with abscissa e: both multiples that R694 adds are multiples by one. -/
def sigE : Nat := 0x82E7E4E2EFE94BFDA2A4EB8C090992C1C30EA6E842ECCD945815436DBD9D7C6D
def sigTop : List Byte :=
  [0x42, 0x58, 0x49, 0x4D, 0, 1, 0, 2] ++ List.replicate 12 0 ++ [1, 0, 0, 0, 3] ++ List.replicate 419 0 ++ [0x26, 0x76, 0x3D, 0x22]
def sigHdr : List Byte := sigTop ++ bytesLE 32 sigE ++ bytesLE 32 sigE
def sigKey : List Byte := bytesLE 32 0x5840B3F82A1E52110DEA6AFD7DFDDD683843071B715D61A802971717B7C4C64C ++
  bytesLE 32 0xA5FDA25A06425249C92463D8F4A37B5095C45580B94926D7BFE7F3C624683550
/-- The image in Slot B and the key in place, its only block received: a download in progress (p = 1) or verified (p = 2). -/
def upSig (p : Nat) : State :=
  memWrite (memWrite (memWrite (mw (jAddr 0 + 0x200) 1 0xFE (jr { proof := p } up)) 0x02C00000 sigHdr) 0x02C01FFC (bytesLE 4 0x7D0C5982))
    0x03802000 sigKey
theorem memBytes_memWrite_out (n : Nat) : ∀ (s : State) (a b : Nat) (l : List Byte), (b + n ≤ a ∨ a + l.length ≤ b) →
    memBytes (memWrite s a l) b n = memBytes s b n := by
  induction n with
  | zero => intro s a b l _; rfl
  | succ n ih =>
    intro s a b l h
    rw [memBytes, memBytes, memByte_memWrite_out _ _ _ (by omega), ih _ _ _ _ (by omega)]
theorem memBytes_add (s : State) (m n : Nat) : ∀ a, memBytes s a (m + n) = memBytes s a m ++ memBytes s (a + m) n := by
  induction m with
  | zero => intro a; simp [memBytes]
  | succ m ih =>
    intro a
    rw [show m + 1 + n = m + n + 1 by omega, memBytes, memBytes, ih, List.cons_append, show a + 1 + m = a + (m + 1) by omega]
theorem memBytes_ones (s : State) (n : Nat) : ∀ a, (∀ b,
  a ≤ b → b < a + n → memByte s b = 0xFF) → memBytes s a n = List.replicate n 0xFF := by
  induction n with
  | zero => intro a _; rfl
  | succ n ih =>
    intro a h
    rw [memBytes, h a (Nat.le_refl a) (by omega), ih (a + 1) (fun b h1 h2 => h b (by omega) (by omega)), List.replicate_succ]
theorem sigHdr_length : sigHdr.length = 512 := by decide +kernel
theorem sigKey_length : sigKey.length = 64 := by decide +kernel
theorem upSig_hdr (p : Nat) : slotHdr (upSig p) 1 = sigHdr := by
  have e : slotBase 1 = 0x02C00000 := rfl
  have l4 : (bytesLE 4 0x7D0C5982).length = 4 := rfl
  rw [slotHdr, e, upSig, memBytes_memWrite_out _ _ _ _ _ (.inl (by omega)), memBytes_memWrite_out _ _ _ _ _ (.inl (by omega)),
    ← sigHdr_length, memBytes_memWrite]
theorem upSig_key (p : Nat) : keyBytes (upSig p) 0 = sigKey := by
  rw [keyBytes, show keyAddr 0 = 0x03802000 from rfl, upSig, ← sigKey_length, memBytes_memWrite]
theorem upSig_ones (p : Nat) : memBytes (upSig p) 0x02C01000 4092 = List.replicate 4092 0xFF := by
  apply memBytes_ones
  intro b h1 h2
  have hl := sigHdr_length
  have hk := sigKey_length
  have l4 : (bytesLE 4 0x7D0C5982).length = 4 := rfl
  rw [upSig, memByte_memWrite_out _ _ _ (.inl (by omega)), memByte_memWrite_out _ _ _ (.inl (by omega)),
    memByte_memWrite_out _ _ _ (.inr (by omega)), mw, memPutNat, memByte_memWrite_out _ _ _ (.inl (by unfold jAddr; omega)), jr,
    memByte_memWrite_out _ _ _ (.inl (by unfold jAddr; omega))]
  have : memByte up b = memReset b := rfl
  rw [this, memReset]
  simp; omega
theorem upSig_tail (p : Nat) : memBytes (upSig p) 0x02C01FFC 4 = bytesLE 4 0x7D0C5982 := by
  have hk := sigKey_length
  have l4 : (bytesLE 4 0x7D0C5982).length = 4 := rfl
  rw [upSig, memBytes_memWrite_out _ _ _ _ _ (.inl (by omega))]
  exact memBytes_memWrite (bytesLE 4 0x7D0C5982) _ _
theorem upSig_blk (p : Nat) : memBytes (upSig p) 0x02C01000 4096 = List.replicate 4092 0xFF ++ bytesLE 4 0x7D0C5982 := by
  rw [show 4096 = 4092 + 4 from rfl, memBytes_add, upSig_ones, upSig_tail]
theorem sig_crc : crc32c (List.replicate 4092 0xFF) = 0x7D0C5982#32 := by
  unfold crc32c; rw [crc32With_eq]; decide +kernel
theorem sig_sha : sha256 (sigTop ++ (List.replicate 4092 0xFF ++ bytesLE 4 0x7D0C5982)) = sigE := by decide +kernel
theorem sig_ecdsa : ecdsaOk (ofBytesLE (sigKey.take 32)) (ofBytesLE (sigKey.drop 32)) sigE sigE sigE = true := by decide +kernel
theorem sig_parts : sigHdr.take 0x1C0 = sigTop ∧ ofBytesLE (((sigHdr.drop 0x1C0).take 64).take 32) = sigE ∧
    ofBytesLE ((((sigHdr.drop 0x1C0).take 64).drop 32).take 32) = sigE := by decide +kernel
theorem sig_check1 : check1 sigHdr = true := by
  unfold check1 crc32c; rw [crc32With_eq]; decide +kernel
theorem sig_fields : hNblk sigHdr = 1 ∧ hKeyId sigHdr = 0 ∧ hRevoke sigHdr = 0 ∧ hSects sigHdr = [] ∧ fieldLE sigHdr 0x1A 2 = 0 ∧
    sigHdr.getD 0x18 0 = 3 ∧ hVersion sigHdr = 0 ∧ sigKey.any (fun b => decide (b ≠ 0xFF)) = true := by decide +kernel
theorem memWrite_m4 (s : State) (a : Nat) (l : List Byte) : (memWrite s a l).m4 = s.m4 := by rw [memWrite_frame]
theorem memWrite_srev (s : State) (a : Nat) (l : List Byte) : (memWrite s a l).srev = s.srev := by rw [memWrite_frame]
theorem memWrite_upd (s : State) (a : Nat) (l : List Byte) : (memWrite s a l).upd = s.upd := by rw [memWrite_frame]
theorem upSig_m4 (p : Nat) : (upSig p).m4 = up.m4 := by simp only [upSig, mw, jr, memPutNat, memWrite_m4]
theorem upSig_srev (p : Nat) : (upSig p).srev = up.srev := by simp only [upSig, mw, jr, memPutNat, memWrite_srev]
theorem upSig_upd (p : Nat) : (upSig p).upd = up.upd := by simp only [upSig, mw, jr, memPutNat, memWrite_upd]
theorem test_upSig_verify (p : Nat) : verifyCode (upSig p) 1 = 0 := by
  obtain ⟨f1, f2, f3, f4, f5, f6, f7, f8⟩ := sig_fields
  obtain ⟨p1, p2, p3⟩ := sig_parts
  have c4 : check4 (upSig p) 1 sigHdr = true := by
    rw [check4, f1]
    simp only [List.range_one, List.all_cons, List.all_nil, Bool.and_true]
    rw [blockOk, show blockAddr 1 0 = 0x02C01000 from rfl, upSig_ones, memNat, upSig_tail, sig_crc]
    decide
  have c6 : check6 (upSig p) 1 sigHdr = true := by
    rw [check6, f1, f2, upSig_key, signatureOk, p1, p2, p3]
    simp only [List.range_one, List.flatMap_cons, List.flatMap_nil, List.append_nil]
    rw [show blockAddr 1 0 = 0x02C01000 from rfl, upSig_blk, sig_sha, sig_ecdsa]
  have c2 : check2 (upSig p) sigHdr = true := by
    rw [check2, f5, f6, upSig_m4, upSig_srev]; decide
  have c5 : check5 (upSig p) sigHdr = true := by
    rw [check5, f2, f3, keyProgrammed, upSig_key, f8, upSig_upd]; decide
  have c7 : check7 (upSig p) sigHdr = true := by
    rw [check7, f7, upSig_upd]; decide
  have c3 : check3 (upSig p) 1 sigHdr = true := by rw [check3, f4]; rfl
  simp [verifyCode, upSig_hdr, sig_check1, c2, c3, c4, c5, c6, c7]
theorem upSig_jRead (p c : Nat) (h : c < 2) : jRead (upSig p) c = jRead (mw (jAddr 0 + 0x200) 1 0xFE (jr { proof := p } up)) c := by
  have hl := sigHdr_length
  have hk := sigKey_length
  have l4 : (bytesLE 4 0x7D0C5982).length = 4 := rfl
  have e : memBytes (upSig p) (jAddr c) 64 = memBytes (mw (jAddr 0 + 0x200) 1 0xFE (jr { proof := p } up)) (jAddr c) 64 := by
    rw [upSig, memBytes_memWrite_out _ _ _ _ _ (.inl (by unfold jAddr; omega)),
      memBytes_memWrite_out _ _ _ _ _ (.inr (by unfold jAddr; omega)),
      memBytes_memWrite_out _ _ _ _ _ (.inr (by unfold jAddr; omega))]
  rw [jRead, jRead, e]
theorem upSig_jCopy (p : Nat) : jCopy (upSig p) = jCopy (mw (jAddr 0 + 0x200) 1 0xFE (jr { proof := p } up)) := by
  rw [jCopy, jCopy, upSig_jRead p 0 (by omega), upSig_jRead p 1 (by omega)]
theorem upSig_copy0 : jCopy (mw (jAddr 0 + 0x200) 1 0xFE (jr { proof := 1 } up)) = some 0 ∧
    jCopy (mw (jAddr 0 + 0x200) 1 0xFE (jr { proof := 2 } up)) = some 0 := by decide +kernel
theorem test_upSig_rec1 : jRec (upSig 1) = { proof := 1 } := by
  rw [jRec, upSig_jCopy, upSig_copy0.1]
  simp only [upSig_jRead 1 0 (by omega)]
  decide +kernel
theorem test_upSig_rec2 : jRec (upSig 2) = { proof := 2 } := by
  rw [jRec, upSig_jCopy, upSig_copy0.2]
  simp only [upSig_jRead 2 0 (by omega)]
  decide +kernel
theorem test_upSig_code1 : verifyCode (upSig 1) (proofSlot (upSig 1)) = 0 := by
  rw [proofSlot, test_upSig_rec1]; exact test_upSig_verify 1
theorem test_upSig_code2 : verifyCode (upSig 2) (proofSlot (upSig 2)) = 0 := by
  rw [proofSlot, test_upSig_rec2]; exact test_upSig_verify 2
theorem test_upSig_whole : downloadWhole (upSig 1) = true := by
  have l4 : (bytesLE 4 0x7D0C5982).length = 4 := rfl
  have hl := sigHdr_length
  rw [downloadWhole, proofSlot, test_upSig_rec1, show 1 - (0 : Nat) % 2 = 1 from rfl, upSig_hdr, sig_fields.1]
  simp only [List.range_one, List.all_cons, List.all_nil, Bool.and_true]
  rw [bitmapBit, upSig_jCopy, upSig_copy0.1]
  simp only [upSig]
  rw [memByte_memWrite_out _ _ _ (.inl (by unfold jAddr; omega)), memByte_memWrite_out _ _ _ (.inr (by unfold jAddr; omega)),
    memByte_memWrite_out _ _ _ (.inr (by unfold jAddr; omega))]
  decide +kernel
theorem memWrite_ex (s : State) (h : ∃ m e, s = { up with mem := m, ecc := e }) (a : Nat) (l : List Byte) :
    ∃ m e, memWrite s a l = { up with mem := m, ecc := e } := by
  obtain ⟨m, e, rfl⟩ := h
  exact ⟨_, _, memWrite_frame _ _ _⟩
theorem test_upSig_frame (p : Nat) : ∃ m e, upSig p = { up with mem := m, ecc := e } :=
  memWrite_ex _ (memWrite_ex _ (memWrite_ex _ (memWrite_ex _ (memWrite_ex _ ⟨_, _, rfl⟩ _ _) _ _) _ _) _ _) _ _
/-- The header of the image in the update buffer and in Slot B, its download in progress. -/
def upSame : State := memWrite (memWrite (jr { proof := 1 } up) 0x02C00000 sigHdr) 0x00061000 sigHdr
theorem upSame_buf : updBuf upSame 512 = sigHdr := by
  rw [updBuf, upSame, ← sigHdr_length, memBytes_memWrite]
theorem test_upSame_check1 : check1 (updBuf upSame 512) = true := by rw [upSame_buf]; exact sig_check1
theorem upSame_jRead (c : Nat) (h : c < 2) : jRead upSame c = jRead (jr { proof := 1 } up) c := by
  have hl := sigHdr_length
  have e : memBytes upSame (jAddr c) 64 = memBytes (jr { proof := 1 } up) (jAddr c) 64 := by
    rw [upSame, memBytes_memWrite_out _ _ _ _ _ (.inr (by unfold jAddr; omega)),
      memBytes_memWrite_out _ _ _ _ _ (.inr (by unfold jAddr; omega))]
  rw [jRead, jRead, e]
theorem test_upSame_rec : jRec upSame = { proof := 1 } := by
  rw [jRec, jCopy, upSame_jRead 0 (by omega), upSame_jRead 1 (by omega)]
  have e0 : jRead (jr { proof := 1 } up) 0 = some { proof := 1 } := by decide +kernel
  have e1 : jRead (jr { proof := 1 } up) 1 = none := by decide +kernel
  simp only [e0, e1, upSame_jRead 0 (by omega), Option.getD_some]
theorem test_upSame_hdr : updBuf upSame 512 = slotHdr upSame (proofSlot upSame) := by
  have hl := sigHdr_length
  rw [upSame_buf, proofSlot, test_upSame_rec, show 1 - (0 : Nat) % 2 = 1 from rfl, slotHdr, show slotBase 1 = 0x02C00000 from rfl, upSame,
    memBytes_memWrite_out _ _ _ _ _ (.inr (by omega)), ← sigHdr_length, memBytes_memWrite]
theorem test_upSame_frame : ∃ m e, upSame = { up with mem := m, ecc := e } := memWrite_ex _ (memWrite_ex _ ⟨_, _, rfl⟩ _ _) _ _
/-- A download in progress whose first block has been received. -/
def upBlk0 : State := mw (jAddr 0 + 0x200) 1 0xFE upBlk
theorem test_upBlk0_blockOk : blockOk upBlk0 0x00061000 = true := by
  have l1 : (bytesLE 1 0xFE).length = 1 := rfl
  have e := test_upBlk_blockOk
  rw [blockOk, memNat] at e ⊢
  rw [upBlk0, mw, memPutNat, memBytes_memWrite_out _ _ _ _ _ (.inl (by unfold jAddr; omega)),
    memBytes_memWrite_out _ _ _ _ _ (.inl (by unfold jAddr; omega))]
  exact e
/-- A download in progress with an empty buffer. -/
def upBlkX : State := jr { proof := 1 } up
theorem upBlkX_zero (b : Nat) (h1 : 0x00061000 ≤ b) (h2 : b < 0x00062000) : memByte upBlkX b = 0 := by
  unfold upBlkX jr
  rw [memByte_memWrite_out _ _ _ (.inl (by unfold jAddr; omega))]
  have : memByte up b = memReset b := rfl
  rw [this, memReset]
  simp; omega
theorem test_upBlkX_blockOk : blockOk upBlkX 0x00061000 = false := by
  unfold blockOk crc32c memNat
  rw [memBytes_zero _ _ _ (fun b h1 h2 => upBlkX_zero b h1 (by omega)),
    memBytes_zero _ _ _ (fun b h1 h2 => upBlkX_zero b (by omega) (by omega)),
    crc32With_eq]
  decide +kernel
theorem test_upSig_awake (p : Nat) : awake (upSig p) = true := by
  obtain ⟨m, x, e⟩ := test_upSig_frame p; rw [e]; rfl
theorem test_upSig_free (p : Nat) : flag (upSig p) (aUpd 0x00) 31 = false := by
  obtain ⟨m, x, e⟩ := test_upSig_frame p; rw [e]; exact (by decide : flag up (aUpd 0x00) 31 = false)
theorem test_upSig_mode (p : Nat) : (upSig p).power.bootMode ≠ 2 := by
  obtain ⟨m, x, e⟩ := test_upSig_frame p; rw [e]; exact (by decide : up.power.bootMode ≠ 2)
theorem test_upSig_owner (p : Nat) (src : Nat × Nat) : ownedByOther (upSig p) src = false := by
  obtain ⟨m, x, e⟩ := test_upSig_frame p; rw [e]; rfl
theorem test_upSame_awake : awake (upSame) = true := by
  obtain ⟨m, x, e⟩ := test_upSame_frame; rw [e]; rfl
theorem test_upSame_free : flag (upSame) (aUpd 0x00) 31 = false := by
  obtain ⟨m, x, e⟩ := test_upSame_frame; rw [e]; exact (by decide : flag up (aUpd 0x00) 31 = false)
theorem test_upSame_mode : (upSame).power.bootMode ≠ 2 := by
  obtain ⟨m, x, e⟩ := test_upSame_frame; rw [e]; exact (by decide : up.power.bootMode ≠ 2)
theorem test_upSame_owner (src : Nat × Nat) : ownedByOther (upSame) src = false := by
  obtain ⟨m, x, e⟩ := test_upSame_frame; rw [e]; rfl

/-! ### Well-formed commands: one ill-formed command for each check -/

theorem test_wf_engine : wellFormed (.emqRdataRead 16) = false ∧ wellFormed (.emqRdataRead 15) = true := by decide
theorem test_wf_context : wellFormed (.ctxStop 15 8 0) = false ∧ wellFormed (.ctxStop 15 7 0) = true := by decide
theorem test_wf_physical : wellFormed (.selfTestEnd 18 1 0) = false ∧ wellFormed (.selfTestEnd 17 1 0) = true := by decide
theorem test_wf_port : wellFormed (.sliceSwap 272) = false ∧ wellFormed (.sliceSwap 271) = true := by decide
theorem test_wf_tile : wellFormed (.pgoodRise 4) = false ∧ wellFormed (.pgoodRise 3) = true := by decide
theorem test_wf_linePort : wellFormed (.txShort 16) = false ∧ wellFormed (.txShort 15) = true := by decide
theorem test_wf_mailbox : wellFormed (.fifoFlush (.hmbIn 4) 0) = false ∧ wellFormed (.fifoFlush (.hmbIn 3) 0) = true := by decide
theorem test_wf_link : wellFormed (.syncReceive 4) = false ∧ wellFormed (.syncReceive 3) = true := by decide
theorem test_wf_line : wellFormed (.dlEdgeAccept 32 0) = false ∧ wellFormed (.dlEdgeAccept 31 0) = true := by decide
theorem test_wf_can : wellFormed (.canTxAbort 2 0 0) = false ∧ wellFormed (.canTxAbort 1 0 0) = true := by decide
theorem test_wf_txBuffer : wellFormed (.canTxAbort 1 64 0) = false ∧ wellFormed (.canTxAbort 1 63 0) = true := by decide
theorem test_wf_watchdog : wellFormed (.wdogExpiry 2 false) = false ∧ wellFormed (.wdogExpiry 1 false) = true := by decide
theorem test_wf_rail : wellFormed (.vmonWarn 6 0) = false ∧ wellFormed (.vmonWarn 5 0) = true := by decide
theorem test_wf_clock : wellFormed (.refreshPair 18 0 true) = false ∧ wellFormed (.refreshPair 17 0 true) = true := by decide
theorem test_wf_gate : wellFormed (.gatePeerReset 512 false 0 false) = false ∧
  wellFormed (.gatePeerReset 511 false 0 false) = true := by decide
theorem test_wf_event : wellFormed (.eventSetting 128 true) = false ∧ wellFormed (.eventSetting 127 true) = true := by decide
theorem test_wf_tag : wellFormed (.readHoldExpiry 0) = false ∧ wellFormed (.readHoldExpiry 64) = false ∧
    wellFormed (.readHoldExpiry 63) = true := by decide
theorem test_wf_word : wellFormed (.registerWrite 2 0 0) = false ∧ wellFormed (.registerWrite 0xFFFFFFFFC 0 0) = true := by decide
theorem test_wf_fifo : wellFormed (.fifoFlush (.emq 16) 0) = false ∧ wellFormed (.fifoFlush (.emq 15) 0) = true := by decide

/-! ### Instruction words that the manual works out (10 to 12) -/

theorem test_word_general_instructions :
    encLI 0x06 1 0x80800 = 0x18480800#32 ∧ encRI 0x03 1 1 8 = 0x0C440008#32 ∧ encBR 0x10 6 7 15 = 0x419C000F#32 ∧
    encRI 0x05 8 6 8 = 0x16180008#32 ∧ encRR 0x00 8 8 4 0x001 = 0x02210001#32 ∧ encRI 0x0D 7 8 4 = 0x35E00004#32 ∧
    encBR 0x10 0 0 0x3FFF0 = 0x4003FFF0#32 := by decide
theorem test_word_sentence_instructions :
    encFX 0x19 3 0 1 0 1 = 0x64C00401#32 ∧ encFX 0x19 2 3 2 3 0 = 0x648C08C0#32 ∧ encFX 0x1D 1 0 1 0 0 = 0x74400400#32 ∧
    encFX 0x1B 2 3 0 0 0 = 0x6C8C0000#32 ∧ encFX 0x1C 6 4 0 1 0 = 0x71900040#32 := by decide
theorem test_word_system : encSys 0 0 0 0x01 0x01 = 0xFC000101#32 ∧ encSys 0 0 0 0x03 0 = 0xFC000300#32 := by decide

/-! ### Worked examples of the manual -/

/-- The check values of CRC-8, CRC-32 and CRC-32C over the characters 1 to 9. -/
theorem test_crc_check_values :
    crc8 [0x31, 0x32, 0x33, 0x34, 0x35, 0x36, 0x37, 0x38, 0x39] = 0xF4#8 ∧
    crc32 [0x31, 0x32, 0x33, 0x34, 0x35, 0x36, 0x37, 0x38, 0x39] = 0xCBF43926#32 ∧
    crc32c [0x31, 0x32, 0x33, 0x34, 0x35, 0x36, 0x37, 0x38, 0x39] = 0xE3069283#32 := by decide +kernel

/-- The header of node 12's heading (13, after R493). -/
theorem test_frame_header :
    frameHdr { typ := 0, exp := true, dkind := true, dest := 12, src := 12, seq := 513 } 41 =
      [0x30, 0x0C, 0xC0, 0x00, 0xFF, 0x0F, 0x01, 0x02, 0x29, 0x00, 0, 0, 0, 0, 0, 0x57] := by decide +kernel

/-- A stamp before and one after its pair (04, after R161): 1,000 s + 999,997,900 ns and 1,001 s + 400 ns. -/
theorem test_stamp_translation :
    translate 3 { c := 3000000000, t4 := 4 * 1000999999400, rho := 85899 } 2999999700 = BitVec.ofNat 64 (1000 * 2 ^ 30 + 999997900) ∧
    translate 3 { c := 3000000000, t4 := 4 * 1000999999400, rho := 85899 } 3000000200 = BitVec.ofNat 64 (1001 * 2 ^ 30 + 400) := by
  decide +kernel

/-- The TAG block that a port adds (08, after R329): \c:1000,s:N12L7*0B\. -/
theorem test_tag_block : tagBlock 0 (BitVec.ofNat 64 (1000 * 2 ^ 30 + 250000120)) 12 7 =
    [0x5C, 0x63, 0x3A, 0x31, 0x30, 0x30, 0x30, 0x2C, 0x73, 0x3A, 0x4E, 0x31, 0x32, 0x4C, 0x37, 0x2A, 0x30, 0x42,
      0x5C] := by decide +kernel

/-- The checksum of HEHDT,274.5,T is 2Bh (06). -/
theorem test_checksum : xorBytes [0x48, 0x45, 0x48, 0x44, 0x54, 0x2C, 0x32, 0x37, 0x34, 0x2E, 0x35, 0x2C, 0x54] = 0x2B := by decide

/-- 19 bytes need 3 CAN frames (16, after R611). -/
theorem test_can_sentence_frames : sentFrames 19 = 3 := by decide

/-- The duplicate window of node 12 with HIGH 1,007 (13, after R513): 1,011 is new, 1,010 is late but new, 1,010 again is not. -/
theorem test_duplicate_window :
    let s0 := { up with ring := { up.ring with dup := [(12, { valid := true, high := 1007, map := 1#1024 <<< 1007 })] } }
    let s1 := (dupTest 12 1011 s0).2
    let s2 := (dupTest 12 1010 s1).2
    (dupTest 12 1011 s0).1 = true ∧ (dupTest 12 1010 s1).1 = true ∧ (dupTest 12 1010 s2).1 = false ∧ (dupTest 12 1011 s2).1 = false := by
  decide +kernel

/-! ### The queue -/

theorem test_stepRunsFront_clauses : ∃ (c : Instr) (s : State) (r : List Instr), s.pending = c :: r :=
  ⟨.halterEntry, { up with pending := [.halterEntry, .refaFail] }, [.refaFail], rfl⟩
theorem test_stepKeepsCanonical_clauses : ∃ s t : State, Canonical s ∧ step s = .next t :=
  ⟨State.reset, _, ⟨by decide, by decide⟩, rfl⟩
theorem test_queue_front : (match step { up with pending := [.halterEntry, .refaFail] } with
    | .next t => t.pending
    | _ => []) = [.refaFail] := by decide +kernel
theorem test_decodeTableWord : ∀ n w, decodeTableWord n w = none := fun _ _ => rfl


/-! ### Values that the named standards give -/

/-- SHA-256 of "abc" (FIPS 180-4), read by the image signature. -/
theorem test_sha256 : sha256 [0x61, 0x62, 0x63] = 0xBA7816BF8F01CFEA414140DE5DAE2223B00361A396177A9CB410FF61F20015AD := by
  decide +kernel

/-- K28.5, D21.5 and D16.2 of the 8b/10b code, and the idle set of a link that sends IDLE_R. -/
theorem test_symbols :
    encSym false (.ctl symComma) = 0b0011111010 ∧ encSym true (.ctl symComma) = 0b1100000101 ∧
    encData false 0xB5 = 0b1010101010 ∧ encData false 0x50 = 0b0110110101 ∧ encData true 0x50 = 0b1001000101 ∧
    decSym true 0b1001000101 = some (.data 0x50) ∧ decSym false 0b1111111111 = none := by decide +kernel

/-! ### The hypotheses of the obligations -/

/-- Every clause of Obligations.NodeResets has a state and operands that meet its hypotheses. -/
theorem test_nodeResets_clauses :
    (∃ (s : State) (key : BitVec 16), awake s = true ∧ key ≠ 0x5A5A#16) ∧
    (∃ (s : State), awake s = true) ∧
    (∃ (v : Option Nat), v = none) ∧
    (∃ (w : Nat) (v : Option Nat) (a : _) (x : Nat) (b : Nat), a = (0x01000000 + 8 * (w % 524288)) ∧ v = some x ∧ (b < a ∨ a + 8 ≤ b)) :=
  ⟨⟨up, 0x5A5B, by decide +kernel⟩,
   ⟨up, by decide +kernel⟩,
   ⟨none, by decide +kernel⟩,
   ⟨524287, some 7, _, 7, 0x013FFFF7, rfl, by decide +kernel, .inl (by decide +kernel)⟩⟩

/-- Every clause of Obligations.BootLoader has a state and operands that meet its hypotheses. -/
theorem test_bootLoader_clauses :
    (∃ (s : State), awake s = true) ∧
    (∃ (s : State), (s.power.phase = .off ∨ (s.power.phase = .booting ∧ s.power.loaded = false))) ∧
    (∃ (s : State), s.power.phase = .booting ∧ s.power.loaded = true) :=
  ⟨⟨node .booting, by decide +kernel⟩,
   ⟨node .off, by decide +kernel⟩,
   ⟨node .booting, by decide +kernel⟩⟩

/-- Every clause of Obligations.SuppliesAndFaults has a state and operands that meet its hypotheses. -/
theorem test_suppliesAndFaults_clauses :
    (∃ (s : State) (r : Rail), railOk r = true ∧ awake s = true) ∧
    (∃ (s : State) (r : Rail), railOk r = true ∧ s.power.phase = .stabled) ∧
    (∃ (s : State) (r : Rail), railOk r = true ∧ s.power.phase = .off) ∧
    (∃ (r : Rail), railOk r = true ∧ r = .vhb) ∧
    (∃ (r : Rail), railOk r = true ∧ r = .vcan) ∧
    (∃ (r : Rail) (j : Nat), railOk r = true ∧ r = .vio j) ∧
    (∃ (s : State), (s.power.phase = .halter ∨ s.power.phase = .running ∨ s.power.phase = .booting)) ∧
    (∃ (s : State), s.power.phase = .fault) ∧
    (∃ (s : State), awake s = false) :=
  ⟨⟨node .fault, .vhb, by decide +kernel⟩,
   ⟨node .stabled, .vhb, by decide +kernel⟩,
   ⟨node .off, .vhb, by decide +kernel⟩,
   ⟨.vhb, by decide +kernel⟩,
   ⟨.vcan, by decide +kernel⟩,
   ⟨.vio 3, 3, by decide +kernel⟩,
   ⟨up, by decide +kernel⟩,
   ⟨node .fault, by decide +kernel⟩,
   ⟨node .stabled, by decide +kernel⟩⟩

/-- Every clause of Obligations.Watchdogs has a state and operands that meet its hypotheses. -/
theorem test_watchdogs_clauses :
    (∃ (s : State) (i : Nat) (v : Word), i < 2 ∧ awake s = true ∧ flag s (aWdog i) 31 = true ∧ v ≠ 0x5A5A#32) ∧
    (∃ (s : State) (i : Nat) (b : Bool), i < 2 ∧ (b = true ∨ fld s (aWdog i) 30 29 ≠ 2)) ∧
    (∃ (s : State) (i : Nat), i < 2 ∧ (flag s (aWdog i) 31 = false ∨ awake s = false)) ∧
    (∃ (s : State) (i : Nat), i < 2 ∧ awake s = true ∧ flag s (aWdog i) 31 = true ∧ fld s (aWdog i) 30 29 = 0) ∧
    (∃ (s : State) (i : Nat), i < 2 ∧ awake s = true ∧ flag s (aWdog i) 31 = true ∧ (s.power.phase = .halter ∨ s.power.phase = .running) ∧
      fld s (aWdog i) 30 29 = 1) ∧
    (∃ (s : State) (i : Nat), i < 2 ∧ awake s = true ∧ flag s (aWdog i) 31 = true ∧ fld s (aWdog i) 30 29 = 2) ∧
    (∃ (s : State) (i : Nat) (v : Word), i < 2 ∧ awake s = true ∧ bits v 15 0 ≠ 0 ∧ bits v 30 29 ≠ 3 ∧ (flag s (aWdog i) 31 = false ∨
      (bits v 15 0 = fld s (aWdog i) 15 0 ∧ bits v 30 29 = fld s (aWdog i) 30 29))) ∧
    (∃ (s : State) (i : Nat) (v : Word), i < 2 ∧ awake s = true ∧ (bits v 15 0 = 0 ∨ bits v 30 29 = 3 ∨ (flag s (aWdog i) 31 = true ∧
      (bits v 15 0 ≠ fld s (aWdog i) 15 0 ∨ bits v 30 29 ≠ fld s (aWdog i) 30 29)))) :=
  ⟨⟨rg (aWdog 1) 0x80000001 up, 1, 0xC0000001, by decide +kernel⟩,
   ⟨rg (aWdog 1) 0xC000FFFF up, 1, true, by decide +kernel⟩,
   ⟨rg (aWdog 1) 0x80000001 up, 0, by decide +kernel⟩,
   ⟨rg (aWdog 1) 0x80000001 up, 1, by decide +kernel⟩,
   ⟨rg (aWdog 1) 0xA000FFFF up, 1, by decide +kernel⟩,
   ⟨rg (aWdog 1) 0xC000FFFF up, 1, by decide +kernel⟩,
   ⟨rg (aWdog 1) 0x80000001 up, 1, 1, by decide +kernel⟩,
   ⟨rg (aWdog 1) 0x80000001 up, 1, 0xC0000001, by decide +kernel⟩⟩

/-- Every clause of Obligations.SleepAndWake has a state and operands that meet its hypotheses. -/
theorem test_sleepAndWake_clauses :
    (∃ (s : State) (v : Word), (s.power.phase = .halter ∨ s.power.phase = .running) ∧ s.power.entering = false ∧ bits v 31 16 = 0x5A5A ∧
      bit v 0 = true) ∧
    (∃ (s : State) (v : Word), awake s = true ∧ (bits v 31 16 ≠ 0x5A5A ∨ (bit v 0 = true ∧
      (s.power.entering = true ∨ (s.power.phase ≠ .halter ∧ s.power.phase ≠ .running))))) ∧
    (∃ (s : State), s.power.entering = true ∧ s.power.drained = false) ∧
    (∃ (s : State), entryReady s = true) ∧
    (∃ (s : State) (w : WakeSrc), s.power.phase = .stabled ∧ wakeSees s w = true ∧ flag s (aNode 0x18) (wakeBit w) = true ∧
      s.power.waking = false) ∧
    (∃ (s : State) (w : WakeSrc), s.power.phase = .stabled ∧ wakeSees s w = true ∧ flag s (aNode 0x18) (wakeBit w) = true ∧
      s.power.waking = true) ∧
    (∃ (s : State), s.power.phase = .stabled ∧ s.power.waking = true) ∧
    (∃ (s : State) (v : Word), awake s = true ∧ bits v 31 16 = 0x5A5A) :=
  ⟨⟨up, 0x5A5A000F, by decide +kernel⟩,
   ⟨pw (fun p => { p with entering := true }) up, 0x5A5A000F, by decide +kernel⟩,
   ⟨pw (fun p => { p with entering := true }) up, by decide +kernel⟩,
   ⟨pw (fun p => { p with entering := true, drained := true }) up, by decide +kernel⟩,
   ⟨rg (aNode 0x18) 0xFFFFFFFF (node .stabled), .host, by decide +kernel⟩,
   ⟨rg (aNode 0x18) 0xFFFFFFFF (pw (fun p => { p with waking := true }) (node .stabled)), .host, by decide +kernel⟩,
   ⟨pw (fun p => { p with waking := true }) (node .stabled), by decide +kernel⟩,
   ⟨pw (fun p => { p with entering := true }) up, 0x5A5A000F, by decide +kernel⟩⟩

/-- Every clause of Obligations.OutputBalls has a state and operands that meet its hypotheses. -/
theorem test_outputBalls_clauses :
    (∃ (s : State), s.power.phase = .off) ∧
    (∃ (s : State), s.power.phase = .fault) ∧
    (∃ (s : State), s.power.phase ≠ .off ∧ s.power.vhb ≠ 0) :=
  ⟨⟨node .off, by decide +kernel⟩,
   ⟨node .fault, by decide +kernel⟩,
   ⟨up, by decide +kernel⟩⟩

/-- Every clause of Obligations.StartEdges has a state and operands that meet its hypotheses. -/
theorem test_startEdges_clauses :
    (∃ (s : State) (n : Nat) (tx : Bool) (low : Nat) (v : BitVec 3) (echo : Bool), rxArmed s n tx echo = true ∧ low ≠ 0 ∧
      fld s (aPort n 0x0C) 4 2 + 1 ≤ low ∧ maj v = false) ∧
    (∃ (s : State) (n : Nat) (tx : Bool) (low : Nat) (v : BitVec 3) (echo : Bool), rxArmed s n tx echo = true ∧ low ≠ 0 ∧
      fld s (aPort n 0x0C) 4 2 + 1 ≤ low ∧ maj v = true) ∧
    (∃ (s : State) (n : Nat) (tx : Bool) (low : Nat) (echo : Bool) (tmoDue : Bool), rxArmed s n tx echo = true ∧ low ≠ 0 ∧
      low ≤ fld s (aPort n 0x0C) 4 2 ∧ tmoDue = false) ∧
    (∃ (s : State) (n : Nat) (tx : Bool) (low : Nat) (echo : Bool) (idleDue : Bool), rxArmed s n tx echo = true ∧ low ≠ 0 ∧
      low ≤ fld s (aPort n 0x0C) 4 2 ∧ idleDue = false) :=
  ⟨⟨sl 255 { rxMode := 1, txMode := 1 } up, 255, false, 5, 4, true, by decide +kernel⟩,
   ⟨sl 255 { rxMode := 1, txMode := 1 } up, 255, false, 5, 3, true, by decide +kernel⟩,
   ⟨sl 255 { rxMode := 1, txMode := 1 } up, 255, false, 1, true, false, by decide +kernel⟩,
   ⟨sl 255 { rxMode := 1, txMode := 1 } up, 255, false, 1, true, false, by decide +kernel⟩⟩

/-- Every clause of Obligations.CharacterReceipt has a state and operands that meet its hypotheses. -/
theorem test_characterReceipt_clauses :
    (∃ (s : State) (n : Nat) (e : Word) (noisy : Bool), portRuns s n = true ∧ (slice s n).rx = some (e, noisy)) ∧
    (∃ (s : State) (n : Nat), portRuns s n = true ∧ (slice s n).idleRun = true ∧ (slice s n).rx = none) ∧
    (∃ (s : State) (n : Nat), portRuns s n = true ∧ flag s (aPort n 0x18) 3 = true) ∧
    (∃ (s : State) (n : Nat), awake s = true ∧ (slice s n).tmoRun = true ∧ fld s (aPort n 0x80) 15 8 ≠ 0 ∧ ((slice s n).rxMode = 2 ∨
      (slice s n).rxMode = 3) ∧ (slice s n).rxq ≠ []) ∧
    (∃ (s : State) (n : Nat), awake s = true ∧ (slice s n).tmoRun = true ∧ fld s (aPort n 0x80) 15 8 ≠ 0 ∧ ((slice s n).rxMode = 2 ∨
      (slice s n).rxMode = 3) ∧ (slice s n).rxq = [] ∧ rawFill s n = 0) ∧
    (∃ (s : State) (n : Nat), awake s = true ∧ (slice s n).tmoRun = true ∧ fld s (aPort n 0x80) 15 8 ≠ 0 ∧ ((slice s n).rxMode = 2 ∨
      (slice s n).rxMode = 3) ∧ (slice s n).rxq = [] ∧ rawFill s n ≠ 0 ∧ (slice s n).rxMode = 2) ∧
    (∃ (s : State) (n : Nat) (it : RxItem) (r : List RxItem) (d : DWord) (bs : _) (own : _), bs = (rawBytes (slice s n).rxFmt it) ∧
      own = (decide (2 ^ 31 ≤ memNat s (rawDesc s n (rawIdx s n) + 4) 4)) ∧ (slice s n).rxq = it :: r ∧ awake s = true ∧
      ftOfCount s (portClock n) it.edge = some d ∧ it.marker = false ∧ ((slice s n).swMode = 2 → s.ecc = []) ∧ (slice s n).swMode = 2 ∧
      own = true ∧ (rawFill s n = 0 → rawBad s n (rawDesc s n (rawIdx s n)) = false) ∧
      rawFill s n + bs.length < (if rawFill s n = 0 then rawSize s n false else (raw s n).size) ∧ rawFill s n + bs.length < 2 ^ 13) ∧
    (∃ (s : State) (n : Nat) (it : RxItem) (r : List RxItem) (d : DWord) (own : _),
      own = (decide (2 ^ 31 ≤ memNat s (rawDesc s n (rawIdx s n) + 4) 4)) ∧ (slice s n).rxq = it :: r ∧ awake s = true ∧
      ftOfCount s (portClock n) it.edge = some d ∧ it.marker = false ∧ ((slice s n).swMode = 2 → s.ecc = []) ∧ (slice s n).swMode = 2 ∧
      own = false) ∧
    (∃ (s : State) (n : Nat) (it : RxItem) (r : List RxItem) (d : DWord) (bs : _), bs = (rawBytes (slice s n).rxFmt it) ∧
      (slice s n).rxq = it :: r ∧ awake s = true ∧ ftOfCount s (portClock n) it.edge = some d ∧ it.marker = false ∧
      ((slice s n).swMode = 2 → s.ecc = []) ∧ (slice s n).swMode = 3 ∧
      rawFill s n + bs.length < (if rawFill s n = 0 then rawSize s n true else (raw s n).size) ∧ rawFill s n + bs.length < 2 ^ 13) :=
  ⟨⟨sl 255 { rxMode := 1, txMode := 1, rx := some (0, false) } (rg (aPort 255 0) 1 up), 255, 0, false, by decide +kernel⟩,
   ⟨sl 271 { idleRun := true } up, 271, by decide +kernel⟩,
   ⟨rg (aPort 271 0x18) 8 up, 271, by decide +kernel⟩,
   ⟨sl 0 { tmoRun := true, rxMode := 3, rxq := [{}] } (rg (aPort 0 0x80) 0x100 up), 0, by decide +kernel⟩,
   ⟨sl 0 { tmoRun := true, rxMode := 2 } (rg (aPort 0 0x80) 0xFF00 up), 0, by decide +kernel⟩,
   ⟨rg (aPort 271 0x88) 1 (rg (aPort 271 0x80) 0xFF00 (sl 271 { rxMode := 2, tmoRun := true } up)), 271, by decide +kernel⟩,
   ⟨mw 0x01000004 4 0x80000000 (pr (portClock 271) (sl 271 { swMode := 2, rxq := [{}] } up)), 271, {}, [],
     (ftOfCount (mw 0x01000004 4 0x80000000 (pr (portClock 271) (sl 271 { swMode := 2, rxq := [{}] } up))) (portClock 271) 0).getD 0, _, _,
     rfl, rfl, by decide +kernel⟩,
   ⟨pr (portClock 271) (sl 271 { swMode := 2, rxq := [{}] } up), 271, {}, [],
     (ftOfCount (pr (portClock 271) (sl 271 { swMode := 2, rxq := [{}] } up)) (portClock 271) 0).getD 0, _, rfl, by decide +kernel⟩,
   ⟨pr (portClock 271) (sl 271 { swMode := 3, rxq := [{}] } up), 271, {}, [],
     (ftOfCount (pr (portClock 271) (sl 271 { swMode := 3, rxq := [{}] } up)) (portClock 271) 0).getD 0, _, rfl, by decide +kernel⟩⟩

/-- Every clause of Obligations.PortModes has a state and operands that meet its hypotheses. -/
theorem test_portModes_clauses :
    (∃ (s : State) (n : Nat), n < portCount s ∧ awake s = true ∧ fld s (aPort n 0x20) 8 0 ≠ 0x1FF ∧
      (inFault s = true ∨ ((slice s n).rx ≠ none ∧ (slice s n).shifter ≠ none))) ∧
    (∃ (s : State) (n : Nat), n < portCount s ∧ awake s = true ∧ fld s (aPort n 0x20) 8 0 ≠ 0x1FF ∧ inFault s = false ∧
      (slice s n).rx = none ∧ (slice s n).shifter = none ∧ (slice s n).rxMode = 0 ∧ (slice s n).txMode = 0 ∧ (slice s n).swMode = 0 ∧
      (slice s n).rxq = []) ∧
    (∃ (s : State) (n : Nat) (v : Word), n < portCount s ∧ awake s = true ∧ fld s (aPort n 0x20) 8 0 = 0x1FF ∧ bits v 1 0 ≠ 0) ∧
    (∃ (s : State) (n : Nat) (v : Word), n < portCount s ∧ awake s = true ∧ bits v 15 0 ≠ 0) ∧
    (∃ (s : State) (n : Nat) (v : Word), n < portCount s ∧ awake s = true ∧ bits v 15 0 = 0) ∧
    (∃ (s : State) (n : Nat), n < portCount s ∧ awake s = true ∧ flag s (aPort n 0x28) 16 = true) :=
  ⟨⟨node .fault, 271, by decide +kernel⟩,
   ⟨rg (aPort 271 0x28) 0x10001 up, 271, by decide +kernel⟩,
   ⟨rg (aPort 271 0x20) 0x1FF up, 271, 3, by decide +kernel⟩,
   ⟨rg (aPort 271 0x28) 0x10001 up, 271, 1, by decide +kernel⟩,
   ⟨rg (aPort 271 0x28) 0x10001 up, 271, 0x11170000, by decide +kernel⟩,
   ⟨rg (aPort 271 0x28) 0x10001 up, 271, by decide +kernel⟩⟩

/-- Every clause of Obligations.SliceMoves has a state and operands that meet its hypotheses. -/
theorem test_sliceMoves_clauses :
    (∃ (s : State) (n : Nat) (v : Word), n < portCount s ∧ awake s = true ∧ bit v 28 = true ∧ mayServe n (bits v 24 16) = true ∧
      sliceMap s (bits v 24 16) / 0x4000 = 0 ∧ sliceBusy s (bits v 24 16) = false) ∧
    (∃ (s : State) (n : Nat) (v : Word), n < portCount s ∧ awake s = true ∧ bit v 28 = true ∧ (mayServe n (bits v 24 16) = false ∨
      sliceMap s (bits v 24 16) / 0x4000 ≠ 0 ∨ sliceBusy s (bits v 24 16) = true)) ∧
    (∃ (s : State) (n : Nat), portRuns s n = true ∧ flag s (aPort n 0x20) 28 = true ∧ (slice s n).waitRun = true ∧ swapReady s n = true ∧
      swapFits s n (swapTarget s n) = true) ∧
    (∃ (s : State) (n : Nat), portRuns s n = true ∧ flag s (aPort n 0x20) 28 = true ∧ (slice s n).waitRun = true ∧ swapReady s n = false ∧
      flag s (aPort n 0x20) 29 = false) ∧
    (∃ (s : State) (n : Nat), portRuns s n = true ∧ flag s (aPort n 0x20) 28 = true ∧ (slice s n).waitRun = true ∧ swapReady s n = false ∧
      flag s (aPort n 0x20) 29 = true ∧ (slice s n).shifter ≠ none) ∧
    (∃ (s : State) (n : Nat), portRuns s n = true ∧ swapFits s n (swapTarget s n) = false ∧ (if ((.forcedSwap n,
      false) : Instr × Bool).2 then flag s (aPort n 0x20) 28 = true ∧ (slice s n).waitRun = true ∧
      swapReady s n = true else (slice s n).forcePend = true)) ∧
    (∃ (s : State) (n : Nat), portRuns s n = true ∧ (slice s n).forcePend = true ∧ swapFits s n (swapTarget s n) = true ∧
      ((slice s n).rx = none ∨ fld s (aPort n 0x00) 1 0 = (slice s n).rxMode)) :=
  ⟨⟨sl 271 { waitRun := true } (rg (aPort 271 0x20) 0x1117010F (rg (aPort 271 0x18) 4 up)), 271, 0x11170000, by decide +kernel⟩,
   ⟨sl 271 { waitRun := true } (rg (aPort 271 0x20) 0x1117010F (rg (aPort 271 0x18) 4 up)), 271, 0x5A5A000F, by decide +kernel⟩,
   ⟨sl 271 { waitRun := true } (rg (aPort 271 0x20) 0x1117010F (rg (aPort 271 0x18) 4 up)), 271, by decide +kernel⟩,
   ⟨sl 271 { waitRun := true, shifter := some [] } (rg (aPort 271 0x20) 0x10000000 up), 271, by decide +kernel⟩,
   ⟨sl 271 { waitRun := true, shifter := some [] } (rg (aPort 271 0x20) 0x30000000 up), 271, by decide +kernel⟩,
   ⟨sl 0 { forcePend := true } (rg (aPort 0 0x20) 0x30000000 up), 0, by decide +kernel⟩,
   ⟨sl 0 { forcePend := true } (rg (aPort 0 0x20) 0x31170000 up), 0, by decide +kernel⟩⟩

/-- Every clause of Obligations.PortTransmission has a state and operands that meet its hypotheses. -/
theorem test_portTransmission_clauses :
    (∃ (s : State) (n : Nat) (i : QItem), portRuns s n = true ∧ s.ecc = [] ∧ fld s (aPort n 0x00) 1 0 = (slice s n).txMode ∧
      (queue s n).started = none ∧ ((slice s n).txMode = 1 ∨ (slice s n).txMode = 3) ∧ (slice s n).backoff = none ∧
      flag s (aPort n 0x20) 28 = false ∧ (flag s (aPort n 0x0C) 6 = false ∨ (queue s n).ending ≠ none ∨ idle s n = true) ∧
      topItem (queue s n).items = some i ∧ isStale s (cellDeadline s i.cell) = false) ∧
    (∃ (s : State) (n : Nat) (u : Started) (v : Nat) (last : Bool) (load : Nat), portRuns s n = true ∧ s.ecc = [] ∧
      fld s (aPort n 0x00) 1 0 = (slice s n).txMode ∧ (queue s n).started = some u ∧ (queue s n).ending = none ∧
      (slice s n).backoff = none ∧ (u.pos ≠ 0 ∨ flag s (aPort n 0x0C) 6 = false ∨ (idle s n = true ∧ (slice s n).rx = none)) ∧
      (u.pos ≠ 0 ∨ flag s (aPort n 0x10) 8 = false ∨ flag s (aPort n 0x18) 6 = true) ∧ txNext s u = .char v last ∧
      (slice s n).leadWait = ((Instr.txCharacterLoad n load, false, load) : Instr × Bool × Nat).2.1 ∧ (((Instr.txCharacterLoad n load,
      false, load) : Instr × Bool × Nat).2.1 = true → (slice s n).shifter = none)) ∧
    (∃ (s : State) (n : Nat) (it : QItem), portRuns s n = true ∧ s.ecc = [] ∧ fld s (aPort n 0x00) 1 0 = (slice s n).txMode ∧
      (queue s n).ending = some it ∧ (slice s n).shifter ≠ none) ∧
    (∃ (s : State) (n : Nat), portRuns s n = true ∧ s.ecc = [] ∧ fld s (aPort n 0x00) 1 0 = (slice s n).txMode ∧
      (slice s n).trailRun = true ∧ (queue s n).started = none) ∧
    (∃ (s : State) (p : Nat) (n : Nat) (u : Started) (v : UnitSt), portRuns s p = true ∧ (queue s p).started = some u ∧ u.ct = some n ∧
      (slice s p).shifter = none ∧ u.pos ≠ 0 ∧ txNext s u = .wait ∧ (parser s n).cur = some v) :=
  ⟨⟨sl 271 { txMode := 1 } (rg (aPort 271 0) 1 (qu 271 { items := [it9] } up)), 271, it9, by decide +kernel⟩,
   ⟨sl 271 { txMode := 1 } (rg (aPort 271 0) 1 (qu 271 { started := some { item := it9, pre := [0x24#8, 0x25#8] } } up)), 271,
     { item := it9, pre := [0x24#8, 0x25#8] }, 36, false, 0, by decide +kernel⟩,
   ⟨sl 271 { shifter := some [] } (qu 271 { ending := some it9 } up), 271, it9, by decide +kernel⟩,
   ⟨sl 255 { trailRun := true } up, 255, by decide +kernel⟩,
   ⟨ps 0 { cur := some { st := .body, cell := 9 } } (qu 271 { started := some { item := it9, pos := 1, ct := some 0 } } up), 271, 0,
     { item := it9, pos := 1, ct := some 0 }, { st := .body, cell := 9 }, by decide +kernel⟩⟩

/-- Every clause of Obligations.Collisions has a state and operands that meet its hypotheses. -/
theorem test_collisions_clauses :
    (∃ (s : State) (n : Nat) (u : Started) (k : Nat) (level : Bool) (frame : List Bool), portRuns s n = true ∧
      flag s (aPort n 0x0C) 6 = true ∧ (slice s n).shifter = some frame ∧ frame[k]? = some (!level) ∧ (queue s n).ending = none ∧
      (queue s n).started = some u ∧ fld s (aPort n 0x00) 1 0 = (slice s n).txMode) ∧
    (∃ (s : State) (n : Nat), portRuns s n = true ∧ (slice s n).backoff ≠ none ∧ idle s n = true) :=
  ⟨⟨rg (aPort 271 0x0C) 0x40 (sl 271 { shifter := some [false] } (qu 271 { started := some { item := it9 } } up)), 271, { item := it9 },
    0, true, [false], by decide +kernel⟩,
   ⟨sl 271 { backoff := some 16 } (rg (aPort 271 0x18) 4 up), 271, by decide +kernel⟩⟩

/-- Every clause of Obligations.TilePower has a state and operands that meet its hypotheses. -/
theorem test_tilePower_clauses :
    (∃ (s : State) (k : Nat) (v : Word), hasTile s k = true ∧ awake s = true ∧ bit v 0 = true) ∧
    (∃ (s : State) (k : Nat) (v : Word), hasTile s k = true ∧ awake s = true ∧ bit v 0 = false) ∧
    (∃ (s : State) (k : Nat), hasTile s k = true ∧ tileMay s k = true ∧ (tile s k).run = true ∧ flag s (aTile k 0x04) 0 = false) ∧
    (∃ (s : State) (k : Nat), hasTile s k = true ∧ flag s (aTile k 0x00) 0 = true ∧ flag s (aTile k 0x04) 4 = false ∧
      flag s (aTile k 0x04) 0 = true) ∧
    (∃ (s : State) (k : Nat), hasTile s k = true ∧ tileMay s k = true ∧ flag s (aTile k 0x04) 4 = false ∧
      flag s (aTile k 0x04) 0 = false) ∧
    (∃ (s : State) (k : Nat), hasTile s k = true ∧ s.power.vltOk = true) ∧
    (∃ (s : State) (k : Nat), hasTile s k = true ∧ s.power.vltOk = false) ∧
    (∃ (s : State) (k : Nat), hasTile s k = true ∧ s.power.phase ≠ .off) :=
  ⟨⟨setTile up 3 { run := true }, 3, 1, by decide +kernel⟩,
   ⟨setTile up 3 { run := true }, 3, 4, by decide +kernel⟩,
   ⟨setTile (rg (aTile 3 0) 1 up) 3 { run := true }, 3, by decide +kernel⟩,
   ⟨tl 3 up, 3, by decide +kernel⟩,
   ⟨rg (aTile 3 0) 1 up, 3, by decide +kernel⟩,
   ⟨setTile up 3 { run := true }, 3, by decide +kernel⟩,
   ⟨pw (fun p => { p with vltOk := false }) up, 3, by decide +kernel⟩,
   ⟨setTile up 3 { run := true }, 3, by decide +kernel⟩⟩

/-- Every clause of Obligations.LineConditions has a state and operands that meet its hypotheses. -/
theorem test_lineConditions_clauses :
    (∃ (s : State) (p : Nat), hasLine s p = true ∧ s.power.phase ≠ .off ∧ (tile s (p / 4)).ready = true ∧
      flag s (aLine p 0x00) 8 = true ∧ flag s (aLine p 0x04) 1 = false) ∧
    (∃ (s : State) (p : Nat), hasLine s p = true ∧ s.power.phase ≠ .off ∧ (tile s (p / 4)).ready = true ∧
      flag s (aLine p 0x04) 2 = false) ∧
    (∃ (s : State) (p : Nat), hasLine s p = true ∧ (tile s (p / 4)).ready = true) ∧
    (∃ (s : State) (p : Nat), hasLine s p = true ∧ drvOn s p = true) ∧
    (∃ (s : State) (p : Nat) (space : Bool) (written : Bool), hasLine s p = true ∧ awake s = true ∧ (tile s (p / 4)).ready = true ∧
      flag s (aLine p 0x00) 12 = true ∧ (space = false ∨ written = true)) ∧
    (∃ (s : State) (p : Nat), hasLine s p = true ∧ awake s = true ∧ (tile s (p / 4)).ready = true ∧ flag s (aLine p 0x00) 12 = true ∧
      (line s p).cand + 1 < 4) ∧
    (∃ (s : State) (p : Nat), hasLine s p = true ∧ awake s = true ∧ (tile s (p / 4)).ready = true ∧ flag s (aLine p 0x00) 12 = true ∧
      4 ≤ (line s p).cand + 1) :=
  ⟨⟨rg (aLine 15 0) 0x100 (tl 3 up), 15, by decide +kernel⟩,
   ⟨rg (aLine 15 0) 0x100 (tl 3 up), 15, by decide +kernel⟩,
   ⟨rg (aLine 15 0) 0x100 (tl 3 up), 15, by decide +kernel⟩,
   ⟨sl 271 { txMode := 1 } (tl 3 up), 15, by decide +kernel⟩,
   ⟨rg (aLine 15 0) 0x1000 (tl 3 up), 15, true, true, by decide +kernel⟩,
   ⟨rg (aLine 15 0) 0x1000 (tl 3 up), 15, by decide +kernel⟩,
   ⟨setLine (rg (aLine 15 0) 0x1000 (tl 3 up)) 15 { cand := 3 }, 15, by decide +kernel⟩⟩

/-- Every clause of Obligations.GatePeerReset has a state and operands that meet its hypotheses. -/
theorem test_gatePeerReset_clauses :
    (∃ (s : State) (g : Nat) (dst : Bool), s.power.phase ≠ .off ∧ resetsAlone g dst = true ∧ gateKind s g = 0) ∧
    (∃ (s : State) (g : Nat) (dst : Bool), s.power.phase ≠ .off ∧ resetsAlone g dst = true ∧ gateKind s g = 1 ∧
      pulseSt s (g - 128) = .idle) ∧
    (∃ (s : State) (g : Nat) (dst : Bool), s.power.phase ≠ .off ∧ resetsAlone g dst = true ∧ gateKind s g = 1 ∧
      pulseSt s (g - 128) ≠ .idle) ∧
    (∃ (s : State) (g : Nat) (dst : Bool), s.power.phase ≠ .off ∧ resetsAlone g dst = true ∧ gateKind s g = 2) ∧
    (∃ (s : State) (g : Nat) (dst : Bool), (s.power.phase = .off ∨ resetsAlone g dst = false ∨ gateKind s g = 3)) :=
  ⟨⟨up, 113, true, by decide +kernel⟩,
   ⟨up, 273, true, by decide +kernel⟩,
   ⟨{ up with pulses := [(145, .request)] }, 273, true, by decide +kernel⟩,
   ⟨up, 318, true, by decide +kernel⟩,
   ⟨up, 113, false, by decide +kernel⟩⟩

/-- Every clause of Obligations.ParserItems has a state and operands that meet its hypotheses. -/
theorem test_parserItems_clauses :
    (∃ (s : State) (n : Nat) (it : RxItem) (r : List RxItem) (d : DWord), awake s = true ∧ (slice s n).rxq = it :: r ∧
      (slice s n).swMode = 1 ∧ ftOfCount s (portClock n) it.edge = some d ∧ it.lost = false) :=
  ⟨pr (portClock 271) (sl 271 { swMode := 1, rxq := [{}] } up), 271, {}, [],
    (ftOfCount (pr (portClock 271) (sl 271 { swMode := 1, rxq := [{}] } up)) (portClock 271) 0).getD 0, by decide +kernel⟩

/-- Every clause of Obligations.SweepAndReserve has a state and operands that meet its hypotheses. -/
theorem test_sweepAndReserve_clauses :
    (∃ (s : State), inFault s = true) ∧
    (∃ (s : State), awake s = true ∧ inFault s = false) ∧
    (∃ (s : State) (v : Word), awake s = true ∧ bits v 15 0 ≤ 32768 ∧ (∀ e ∈ s.cells, e.1 < poolRsv s)) ∧
    (∃ (s : State) (v : Word), awake s = true ∧ (32768 < bits v 15 0 ∨ (∃ e ∈ s.cells, poolRsv s ≤ e.1))) :=
  ⟨⟨node .fault, by decide +kernel⟩,
   ⟨up, by decide +kernel⟩,
   ⟨up, 32768, by decide +kernel⟩,
   ⟨up, 32769, by decide +kernel⟩⟩

/-- Every clause of Obligations.TableBanks has a state and operands that meet its hypotheses. -/
theorem test_tableBanks_clauses :
    (∃ (s : State) (v : Word), awake s = true ∧ bit v 3 = false ∧ s.tables.busy = false) ∧
    (∃ (s : State) (v : Word), awake s = true ∧ bit v 2 = false ∧ s.tables.busy = false) ∧
    (∃ (s : State) (v : Word), awake s = true ∧ (((Instr.tableSwap v, bit v 3) : Instr × Bool).2 = true ∨ s.tables.busy = true)) ∧
    (∃ (s : State), awake s = true ∧ s.tables.busy = true) ∧
    (∃ (s : State) (v : Word), awake s = true ∧ bits v 25 24 ≤ 2 ∧ bits v 11 0 < tblCount (bits v 25 24) ∧ s.tables.busy = false ∧
      imageRefused s (bits v 25 24) (bits v 11 0) ((List.range 16).map (fun w => getReg s (aSw (0x240 + 4 * w)))) = false) ∧
    (∃ (s : State) (v : Word), awake s = true ∧
      (2 < bits v 25 24 ∨ tblCount (bits v 25 24) ≤ bits v 11 0 ∨ s.tables.busy = true ∨ imageRefused s (bits v 25 24) (bits v 11 0) ((List.range 16).map (fun w => getReg s (aSw (0x240 + 4 * w)))) = true)) :=
  ⟨⟨up, 0x02000001, by decide +kernel⟩,
   ⟨up, 0x02000001, by decide +kernel⟩,
   ⟨{ up with tables := { busy := true } }, 0x02000001, by decide +kernel⟩,
   ⟨{ up with tables := { busy := true } }, by decide +kernel⟩,
   ⟨up, 0x02000001, by decide +kernel⟩,
   ⟨{ up with tables := { busy := true } }, 0x02000001, by decide +kernel⟩⟩

/-- Every clause of Obligations.FifosAndMailboxes has a state and operands that meet its hypotheses. -/
theorem test_fifosAndMailboxes_clauses :
    (∃ (s : State) (m : Nat), m < 4 ∧ awake s = true ∧ s.power.vhb ≠ 0 ∧ (fifo s (fIn m)).words.length < 512) ∧
    (∃ (s : State) (m : Nat), m < 4 ∧ awake s = true ∧ s.power.vhb ≠ 0 ∧ 512 ≤ (fifo s (fIn m)).words.length) ∧
    (∃ (s : State) (m : Nat) (l : Nat) (f : _) (w : Word) (r : List Word), f = (((.emqRdataRead l, fEmq l) : Instr × Nat).2) ∧
      awake s = true ∧ m < 4 ∧ l < 16 ∧ (∀ x ∈ (fifo s f).errs, x.1 ≠ 0) ∧ (fifo s f).words = w :: r) ∧
    (∃ (s : State) (m : Nat) (l : Nat) (f : _), f = (((Instr.hmbOutRead m, fOut m) : Instr × Nat).2) ∧ awake s = true ∧ m < 4 ∧ l < 16 ∧
      (∀ x ∈ (fifo s f).errs, x.1 ≠ 0) ∧ (fifo s f).words = []) ∧
    (∃ (s : State) (m : Nat) (l : Nat) (f : _) (x : Nat), f = (((.emqRdataRead l, fEmq l) : Instr × Nat).2) ∧ awake s = true ∧ m < 4 ∧
      l < 16 ∧ 72 < x ∧ (fifo s f).errs = [(0, x)]) ∧
    (∃ (s : State), awake s = false) ∧
    (∃ (s : State), s.power.vhb = 0) ∧
    (∃ (s : State) (v : Word) (m : Nat), awake s = true ∧ m < 4 ∧ bits v 9 0 ≤ 512 ∧ bits v 25 16 ≤ 512) ∧
    (∃ (s : State) (v : Word) (l : Nat), awake s = true ∧ l < 16 ∧ bits v 9 0 ≤ 64 ∧ bits v 25 16 ≤ 64) ∧
    (∃ (s : State) (v : Word) (k : Nat), awake s = true ∧ k < 2 ∧ bits v 9 0 ≤ 128 ∧ bits v 25 16 ≤ 128) ∧
    (∃ (s : State) (v : Word), awake s = true ∧ bits v 9 0 ≤ 64 ∧ bits v 25 16 ≤ 64) ∧
    (∃ (s : State) (v : Word) (k : Nat) (l : Nat), awake s = true ∧ k < 4 ∧ l < 16 ∧ (((FifoId.hmbIn k, 512, aHb 0x00,
      8) : FifoId × Nat × Nat × Nat).2.1 < bits v 9 0 ∨ ((FifoId.hmbIn k, 512, aHb 0x00,
      8) : FifoId × Nat × Nat × Nat).2.1 < bits v 25 16)) ∧
    (∃ (s : State) (m : Nat) (h : Word) (body : List Byte) (n : Nat), m < 4 ∧ awake s = true ∧ fifoHead s (fIn m) = some (h, body, n) ∧
      (∃ e ∈ (fifo s (fIn m)).errs, e.1 < n ∧ 72 < e.2) ∧ (itemBad h = true ∨ bits h 31 28 ≠ 3 ∨ s.recGate.length < 16)) ∧
    (∃ (s : State) (m : Nat) (h : Word) (body : List Byte) (n : Nat), m < 4 ∧ awake s = true ∧ fifoHead s (fIn m) = some (h, body, n) ∧
      itemBad h = false ∧ bits h 31 28 = 3 ∧ 16 ≤ s.recGate.length) ∧
    (∃ (s : State) (m : Nat) (h : Word) (body : List Byte) (n : Nat), m < 4 ∧ awake s = true ∧ fifoHead s (fIn m) = some (h, body, n) ∧
      (∀ e ∈ (fifo s (fIn m)).errs, n ≤ e.1) ∧ (itemBad h = true ∨ bits h 31 28 ≠ 3 ∨ s.recGate.length < 16)) ∧
    (∃ (s : State) (m : Nat) (h : Word) (body : List Byte) (n : Nat), m < 4 ∧ awake s = true ∧ fifoHead s (fIn m) = some (h, body, n) ∧
      (∀ e ∈ (fifo s (fIn m)).errs, n ≤ e.1) ∧ (itemBad h = true ∨ (bits h 31 28 = 2 ∧ (bits h 27 16 = 0xFFF ∨ (bits h 27 16 ≠ 0 ∧
      bits h 27 16 ≠ s.nodeId ∧ originates s = false))))) ∧
    (∃ (s : State) (m : Nat) (h : Word) (body : List Byte) (n : Nat), m < 4 ∧ awake s = true ∧ fifoHead s (fIn m) = some (h, body, n) ∧
      (∀ e ∈ (fifo s (fIn m)).errs, n ≤ e.1) ∧ itemBad h = false ∧ bits h 31 28 = 1 ∧
      (fifo s (fEmq (bits h 27 16))).words.length + 1 + bodyWords body.length ≤ 64) ∧
    (∃ (s : State) (m : Nat) (h : Word) (body : List Byte) (n : Nat), m < 4 ∧ awake s = true ∧ fifoHead s (fIn m) = some (h, body, n) ∧
      (∀ e ∈ (fifo s (fIn m)).errs, n ≤ e.1) ∧ itemBad h = false ∧ bits h 31 28 = 3 ∧ s.recGate.length < 16) ∧
    (∃ (s : State) (m : Nat), m < 4 ∧ awake s = true ∧ fifoHead s (fIn m) = none ∧ fld s (aHmb m 0x08) 25 16 ≠ 0 ∧
      fld s (aHmb m 0x08) 25 16 ≤ (fifo s (fIn m)).words.length ∧ (fifo s (fIn m)).begun = false) :=
  ⟨⟨ff (fIn 3) (List.replicate 512 0) up, 0, by decide +kernel⟩,
   ⟨ff (fIn 3) (List.replicate 512 0) up, 3, by decide +kernel⟩,
   ⟨ff (fEmq 15) [7] up, 3, 15, _, 7, [], rfl, by decide +kernel⟩,
   ⟨ff (fIn 3) (List.replicate 512 0) up, 3, 15, _, rfl, by decide +kernel⟩,
   ⟨setFifo up (fEmq 15) { words := [7], errs := [(0, 73)] }, 3, 15, _, 73, rfl, by decide +kernel⟩,
   ⟨node .stabled, by decide +kernel⟩,
   ⟨pw (fun p => { p with vhb := 0 }) up, by decide +kernel⟩,
   ⟨ff (fIn 3) (List.replicate 512 0) up, 0x00400040, 3, by decide +kernel⟩,
   ⟨ff (fIn 3) (List.replicate 512 0) up, 0x00400040, 15, by decide +kernel⟩,
   ⟨ff (fIn 3) (List.replicate 512 0) up, 0x00400040, 1, by decide +kernel⟩,
   ⟨ff (fIn 3) (List.replicate 512 0) up, 0x00400040, by decide +kernel⟩,
   ⟨ff (fIn 3) (List.replicate 512 0) up, 0x5A5A000F, 1, 15, by decide +kernel⟩,
   ⟨setFifo up (fIn 3) { words := [0x30000000], errs := [(0, 73)] }, 3, 0x30000000, [], 1, by decide +kernel, by decide +kernel,
     by decide +kernel, ⟨(0, 73), by decide +kernel⟩, by decide +kernel⟩,
   ⟨{ ff (fIn 3) [0x30000000] up with recGate := List.replicate 16 (0, false, []) }, 3, 0x30000000, [], 1, by decide +kernel⟩,
   ⟨ff (fIn 3) (List.replicate 512 0) up, 3, 0, ([] : List Byte), 1, by decide +kernel⟩,
   ⟨ff (fIn 3) [0xF0000000] up, 3, 0xF0000000#32, ([] : List Byte), 1, by decide +kernel⟩,
   ⟨ff (fIn 3) [0x100F0001, 0x41] up, 3, 0x100F0001#32, [0x41#8], 2, by decide +kernel⟩,
   ⟨ff (fIn 3) [0x30000000] up, 3, 0x30000000, [], 1, by decide +kernel⟩,
   ⟨ff (fIn 3) [0x10000005] (rg (aHmb 3 8) 0x10000 up), 3, by decide +kernel⟩⟩

/-- Every clause of Obligations.RegisterWrites has a state and operands that meet its hypotheses. -/
theorem test_registerWrites_clauses :
    (∃ (s : State) (a : Nat) (be : BitVec 4), a % 4 = 0 ∧ (awake s = false ∨ s.power.vhb = 0 ∨ mapped s a = false ∨ a < 0x00010000 ∨
      be = 0 ∨ 0x02000000 ≤ a ∨ (isImem a = true ∧ bit (engStatWord s (memEng a)) 0 = false) ∨ unusedGate s a = true)) ∧
    (∃ (s : State) (a : Nat) (v : Word) (be : BitVec 4) (W : _), W = (laneMerge s a v be) ∧ a % 4 = 0 ∧ awake s = true ∧ s.power.vhb ≠ 0 ∧
      mapped s a = true ∧ 0x00010000 ≤ a ∧ a < 0x02000000 ∧ isMem a = false ∧ isTbl a = false ∧ be ≠ 0 ∧ unusedGate s a = false ∧
      actsOn a = false ∧ writeRefused s a W = false) ∧
    (∃ (s : State) (a : Nat) (v : Word) (be : BitVec 4) (W : _), W = (laneMerge s a v be) ∧ a % 4 = 0 ∧ awake s = true ∧ s.power.vhb ≠ 0 ∧
      mapped s a = true ∧ 0x00010000 ≤ a ∧ a < 0x02000000 ∧ isMem a = false ∧ isTbl a = false ∧ be ≠ 0 ∧ unusedGate s a = false ∧
      (actsOn a = false ∨ (0x00100000 ≤ a ∧ a < 0x00200000)) ∧ writeRefused s a W = true) ∧
    (∃ (s : State) (a : Nat) (v : Word) (be : BitVec 4) (W : _) (n : Nat), W = (laneMerge s a v be) ∧ a % 4 = 0 ∧ awake s = true ∧
      s.power.vhb ≠ 0 ∧ mapped s a = true ∧ 0x00010000 ≤ a ∧ a < 0x02000000 ∧ isMem a = false ∧ isTbl a = false ∧ be ≠ 0 ∧
      unusedGate s a = false ∧ n < 272 ∧ (a = aPort n 0x04 ∨ a = aPort n 0x08) ∧ writeRefused s a W = false) ∧
    (∃ (s : State) (a : Nat) (v : Word) (be : BitVec 4) (W : _) (n : Nat), W = (laneMerge s a v be) ∧ (∀ k, (parser s k).cur = none) ∧
      a % 4 = 0 ∧ awake s = true ∧ s.power.vhb ≠ 0 ∧ mapped s a = true ∧ 0x00010000 ≤ a ∧ a < 0x02000000 ∧ isMem a = false ∧
      isTbl a = false ∧ be ≠ 0 ∧ unusedGate s a = false ∧ n < 272 ∧ a = aPort n 0x6C ∧ writeRefused s a W = false) ∧
    (∃ (s : State) (a : Nat) (v : Word) (be : BitVec 4) (W : _) (p : Nat), W = (laneMerge s a v be) ∧ a % 4 = 0 ∧ awake s = true ∧
      s.power.vhb ≠ 0 ∧ mapped s a = true ∧ 0x00010000 ≤ a ∧ a < 0x02000000 ∧ isMem a = false ∧ isTbl a = false ∧ be ≠ 0 ∧
      unusedGate s a = false ∧ p < 16 ∧ a = aLine p 0x00 ∧ writeRefused s a W = false) ∧
    (∃ (s : State) (x : FieldLimit) (k : Nat) (v : Word), x ∈ fieldLimits ∧ k < x.count ∧ x.broken v = true ∧ awake s = true ∧
      s.power.vhb ≠ 0 ∧ mapped s (x.base + x.step * k) = true) ∧
    (∃ (s : State) (a : Nat) (be : BitVec 4), a % 4 = 0 ∧ awake s = true ∧ s.power.vhb ≠ 0 ∧ be ≠ 0 ∧ a < 0x02000000 ∧ isMem a = true ∧
      (¬ (0x00061000 ≤ a ∧ a < 0x00062000)) ∧ (isImem a = true → bit (engStatWord s (memEng a)) 0 = true)) ∧
    (∃ (s : State) (a : Nat) (be : BitVec 4) (src : _), src = ((s.nodeId, 288)) ∧ a % 4 = 0 ∧ awake s = true ∧ s.power.vhb ≠ 0 ∧ be ≠ 0 ∧
      a < 0x02000000 ∧ 0x00061000 ≤ a ∧ a < 0x00062000 ∧ (ownedByOther s src = true ∨ (s.power.bootMode = 2 ∧ ownTag s src = true))) ∧
    (∃ (s : State) (a : Nat) (be : BitVec 4) (src : _), src = ((s.nodeId, 288)) ∧ a % 4 = 0 ∧ awake s = true ∧ s.power.vhb ≠ 0 ∧ be ≠ 0 ∧
      a < 0x02000000 ∧ 0x00061000 ≤ a ∧ a < 0x00062000 ∧ ownedByOther s src = false ∧ (¬ (s.power.bootMode = 2 ∧ ownTag s src = true))) ∧
    (∃ (s : State) (a : Nat) (v : Word) (be : BitVec 4) (tbl : _) (o : _) (w : _) (bank : _) (W : _) (hits : _) (bad : _),
      tbl = ((tblPos a).1) ∧ o = ((tblPos a).2) ∧ w = (o % tblEntry tbl / 4) ∧ bank = (winBank s) ∧
      W = (mergeBytes (tblWord s bank tbl o) v be) ∧ hits = (decide (tblHits tbl = some (4 * w))) ∧
      bad = (imageRefused s tbl (o / tblEntry tbl) (listSet (tblImage s bank tbl (o / tblEntry tbl)) w W)) ∧ a % 4 = 0 ∧ awake s = true ∧
      s.power.vhb ≠ 0 ∧ be ≠ 0 ∧ a < 0x02000000 ∧ isTbl a = true ∧ bad = false ∧
      (if bank = s.tables.active then hits = true else s.tables.busy = false)) ∧
    (∃ (s : State) (a : Nat) (v : Word) (be : BitVec 4) (tbl : _) (o : _) (w : _) (bank : _) (W : _) (hits : _) (bad : _),
      tbl = ((tblPos a).1) ∧ o = ((tblPos a).2) ∧ w = (o % tblEntry tbl / 4) ∧ bank = (winBank s) ∧
      W = (mergeBytes (tblWord s bank tbl o) v be) ∧ hits = (decide (tblHits tbl = some (4 * w))) ∧
      bad = (imageRefused s tbl (o / tblEntry tbl) (listSet (tblImage s bank tbl (o / tblEntry tbl)) w W)) ∧ a % 4 = 0 ∧ awake s = true ∧
      s.power.vhb ≠ 0 ∧ be ≠ 0 ∧ a < 0x02000000 ∧ isTbl a = true ∧ (bad = true ∨
      (if bank = s.tables.active then hits = false else s.tables.busy = true))) :=
  ⟨⟨node .stabled, 0x01000000, 9, by decide +kernel⟩,
   ⟨pw (fun p => { p with vhb := 1 }) up, 0x00010010, 1, 3, _, rfl, by decide +kernel⟩,
   ⟨pw (fun p => { p with vhb := 1 }) up, 0x00010010, 0, 15, _, rfl, by decide +kernel⟩,
   ⟨pw (fun p => { p with vhb := 1 }) up, aPort 271 8, getReg (pw (fun p => { p with vhb := 1 }) up) (aPort 271 8), 15, _, 271, rfl,
     by decide +kernel⟩,
   ⟨pw (fun p => { p with vhb := 1 }) up, aPort 271 0x6C, getReg (pw (fun p => { p with vhb := 1 }) up) (aPort 271 0x6C), 15, _, 271, rfl,
     fun _ => rfl, by decide +kernel⟩,
   ⟨pw (fun p => { p with vhb := 1 }) up, aLine 15 0, 0, 15, _, 15, rfl, by decide +kernel⟩,
   ⟨pw (fun p => { p with vhb := 1 }) up, ⟨0x00021118, 0x20, 32, 23, 0, 1, 0xFFFFFF⟩, 31, 0, by decide +kernel⟩,
   ⟨up, 0x01000000, 9, by decide +kernel⟩,
   ⟨up' (fun f => { f with owner := some (7, 0) }) (pw (fun p => { p with vhb := 1 }) up), 0x00061FFC, 8, _, rfl, by decide +kernel⟩,
   ⟨pw (fun p => { p with vhb := 1 }) up, 0x00061FFC, 8, _, rfl, by decide +kernel⟩,
   ⟨rg (aSw 0x200) 2 (pw (fun p => { p with vhb := 1 }) up), 0x00210004, 7, 1, _, _, _, _, _, _, _, rfl, rfl, rfl, rfl, rfl, rfl, rfl,
     by decide +kernel⟩,
   ⟨rg (aSw 0x200) 0 (pw (fun p => { p with vhb := 1 }) up), 0x00210004, 7, 1, _, _, _, _, _, _, _, rfl, rfl, rfl, rfl, rfl, rfl, rfl,
     by decide +kernel⟩⟩

/-- Every clause of Obligations.TimeSetting has a state and operands that meet its hypotheses. -/
theorem test_timeSetting_clauses :
    (∃ (s : State) (ns : _), ns = ((setVal s).toNat % 2 ^ 30) ∧ awake s = true ∧ flag s (aTime 0x20) 31 = false ∧ ns ≤ 999999999) ∧
    (∃ (s : State) (ns : _), ns = ((setVal s).toNat % 2 ^ 30) ∧ awake s = true ∧ flag s (aTime 0x20) 31 = false ∧ ns = 0 ∧
      timeSrc s ≠ 0 ∧ timeSrc s ≠ 4) ∧
    (∃ (s : State) (ns : _), ns = ((setVal s).toNat % 2 ^ 30) ∧ awake s = true ∧ (flag s (aTime 0x20) 31 = true ∨ ((.timeAtSample,
      decide (ns ≠ 0 ∨ timeSrc s = 0 ∨ timeSrc s = 4)) : Instr × Bool).2 = true)) ∧
    (∃ (s : State) (v : Word), awake s = true ∧ sgn v ≤ 2147484 ∧ -2147484 ≤ sgn v) ∧
    (∃ (s : State) (v : Word), awake s = true ∧ (2147484 < sgn v ∨ sgn v < -2147484)) :=
  ⟨⟨rg (aTime 0x18) 999999999 up, _, rfl, by decide +kernel⟩,
   ⟨rg (aTime 0) 3 up, _, rfl, by decide +kernel⟩,
   ⟨rg (aTime 0x18) 999999999 up, _, rfl, by decide +kernel⟩,
   ⟨rg (aTime 0x18) 999999999 up, BitVec.ofInt 32 (-2147484), by decide +kernel⟩,
   ⟨rg (aTime 0x18) 999999999 up, BitVec.ofInt 32 (-2147485), by decide +kernel⟩⟩

/-- Every clause of Obligations.Refresh has a state and operands that meet its hypotheses. -/
theorem test_refresh_clauses :
    (∃ (s : State), awake s = true) ∧
    (∃ (s : State) (clk : Nat), awake s = true ∧ clk ≤ canClock ∧ pulseSt s (128 + clk) = .request) ∧
    (∃ (s : State) (clk : Nat), awake s = true ∧ clk ≤ canClock ∧ pulseSt s (128 + clk) = .ack) ∧
    (∃ (s : State) (clk : Nat), awake s = true ∧ clk ≤ canClock ∧ pulseSt s (128 + clk) = .idle) :=
  ⟨⟨tm (fun t => { t with pAdj := some (-1), pRho := some 2147484 }) up, by decide +kernel⟩,
   ⟨{ up with pulses := [(145, .request)] }, 17, by decide +kernel⟩,
   ⟨{ up with pulses := [(145, .ack)] }, 17, by decide +kernel⟩,
   ⟨tm (fun t => { t with pAdj := some (-1), pRho := some 2147484 }) up, 17, by decide +kernel⟩⟩

/-- Every clause of Obligations.TimeSource has a state and operands that meet its hypotheses. -/
theorem test_timeSource_clauses :
    (∃ (s : State) (v : Word), awake s = true ∧ bits v 2 0 ≤ 4 ∧ (bit v 9 = true → bits v 2 0 ≠ 4) ∧ bits v 2 0 ≠ timeSrc s) ∧
    (∃ (s : State) (v : Word), awake s = true ∧ bits v 2 0 ≤ 4 ∧ (bit v 9 = true → bits v 2 0 ≠ 4) ∧ bits v 2 0 = timeSrc s) ∧
    (∃ (s : State) (v : Word), awake s = true ∧ (4 < bits v 2 0 ∨ (bit v 9 = true ∧ bits v 2 0 = 4))) :=
  ⟨⟨up, 4, by decide +kernel⟩,
   ⟨up, 0, by decide +kernel⟩,
   ⟨up, 0x204, by decide +kernel⟩⟩

/-- Every clause of Obligations.TimeSamples has a state and operands that meet its hypotheses. -/
theorem test_timeSamples_clauses :
    (∃ (s : State) (b : Bool), awake s = true ∧ flag s (aTime 0x108) (b2n b) = false) ∧
    (∃ (s : State) (lost : _), (lost = ([(Instr.ppsWindowMiss, decide (loopState s = 2 ∧ (ppsInUse s).isSome = true ∧
      s.time.accSec ≠ some ((ftNs s.time.ft - fld s (aTime 0x28) 19 0) / 1000000000))), (.syncMiss, decide (timeSrc s = 4 ∧
      s.time.syncAt ≠ some s.time.clk))])) ∧ awake s = true ∧ (((Instr.ppsWindowMiss, decide (loopState s = 2 ∧
      (ppsInUse s).isSome = true ∧
      s.time.accSec ≠ some ((ftNs s.time.ft - fld s (aTime 0x28) 19 0) / 1000000000))) : Instr × Bool).2 = false)) ∧
    (∃ (s : State) (lost : _), (lost = ([(Instr.ppsWindowMiss, decide (loopState s = 2 ∧ (ppsInUse s).isSome = true ∧
      s.time.accSec ≠ some ((ftNs s.time.ft - fld s (aTime 0x28) 19 0) / 1000000000))), (.syncMiss, decide (timeSrc s = 4 ∧
      s.time.syncAt ≠ some s.time.clk))])) ∧ awake s = true ∧ (((.syncMiss, decide (timeSrc s = 4 ∧
      s.time.syncAt ≠ some s.time.clk)) : Instr × Bool).2 = true)) ∧
    (∃ (s : State), flag s (aTime 0x00) 9 = true ∧ s.power.phase = .running) ∧
    (∃ (s : State) (m : Nat) (f : Frame), m < 4 ∧ awake s = true ∧ (ringQ s m).find? (isTime 0) = some f) ∧
    (∃ (s : State), s.power.phase = .running) ∧
    (∃ (s : State) (m : Nat) (f : Frame), m < 4 ∧ awake s = true ∧ (ringQ s m).find? (isTime 1) = some f) ∧
    (∃ (s : State) (m : Nat) (f : Frame), m < 4 ∧ awake s = true ∧ (ringQ s m).find? (isTime 2) = some f) ∧
    (∃ (s : State) (m : Nat), m < 4 ∧ awake s = true ∧ (pdOf s m).asked = true) ∧
    (∃ (s : State) (m : Nat), m < 4 ∧ awake s = true ∧ (pdOf s m).asked = false) :=
  ⟨⟨rg (aTime 0) 0x200 up, true, by decide +kernel⟩,
   ⟨rg (aTime 0) 0x200 up, _, rfl, by decide +kernel⟩,
   ⟨rq 3 [timeFr 0 1] (rg (aTime 0) 4 up), _, rfl, by decide +kernel⟩,
   ⟨rg (aTime 0) 0x200 up, by decide +kernel⟩,
   ⟨rq 3 [timeFr 0 1] (rg (aTime 0) 4 up), 3, timeFr 0 1, by decide +kernel⟩,
   ⟨rg (aTime 0) 0x200 up, by decide +kernel⟩,
   ⟨rq 3 [timeFr 1 1] up, 3, timeFr 1 1, by decide +kernel⟩,
   ⟨rq 3 [timeFr 2 1] (rg (aTime 0x98) 0xFFFFFFFF (tm (fun t => { t with pd := [(3, { asked := true, t1 := some 7 })] }) up)), 3,
     timeFr 2 1, by decide +kernel⟩,
   ⟨rq 3 [timeFr 2 1] (rg (aTime 0x98) 0xFFFFFFFF (tm (fun t => { t with pd := [(3, { asked := true, t1 := some 7 })] }) up)), 3,
     by decide +kernel⟩,
   ⟨rg (aTime 0) 0x200 up, 3, by decide +kernel⟩⟩

/-- Every clause of Obligations.Shutter has a state and operands that meet its hypotheses. -/
theorem test_shutter_clauses :
    (∃ (s : State) (e : ShutEntry) (r : List ShutEntry), awake s = true ∧ s.time.shut = e :: r) ∧
    (∃ (s : State), awake s = true ∧ s.time.shut = []) :=
  ⟨⟨tm (fun t => { t with shut := [{ ft := 0, desc := 0 }] }) up, { ft := 0, desc := 0 }, [], by decide +kernel⟩,
   ⟨up, by decide +kernel⟩⟩

/-- Every clause of Obligations.DiscreteInputs has a state and operands that meet its hypotheses. -/
theorem test_discreteInputs_clauses :
    (∃ (s : State) (k : Nat), k < 32 ∧ awake s = false) ∧
    (∃ (s : State) (k : Nat) (more : BitVec 32) (accept : BitVec 32) (edge : _) (taken : _),
      edge = (fun (j : Nat) => decide (j = k) || more.getLsbD j) ∧
      taken = (fun (j : Nat) => !edge j && accept.getLsbD j && (dlSt s j).run.isSome) ∧ k < 32 ∧ awake s = true ∧ (∀ j < 32, edge j = true →
      fld s (aDl j 0x00) 21 20 = 0 ∧ fld s (aDl j 0x00) 7 0 ≠ 0) ∧ (∀ j < 32, taken j = true → OnlyCounts s j)) ∧
    (∃ (s : State) (k : Nat), k < 32 ∧ awake s = true ∧ fld s (aDl k 0x00) 21 20 = 0 ∧ fld s (aDl k 0x00) 7 0 = 0 ∧
      flag s (aDl k 0x00) 24 = false ∧ edgeSel (fld s (aDl k 0x00) 19 18) (!(dlSt s k).ball) = false) ∧
    (∃ (s : State) (k : Nat), k < 32 ∧ awake s = true ∧ (dlSt s k).run = none) ∧
    (∃ (s : State) (k : Nat) (more : BitVec 32) (taken : _),
      taken = (fun (j : Nat) => (decide (j = k) || more.getLsbD j) && (dlSt s j).run.isSome) ∧ k < 32 ∧ awake s = true ∧ (∀ j < 32,
      taken j = true → OnlyCounts s j)) ∧
    (∃ (s : State) (k : Nat), k < 32 ∧ awake s = true ∧ (dlSt s k).run ≠ none ∧ fld s (aDl k 0x00) 21 20 = 0 ∧
      edgeSel (fld s (aDl k 0x00) 19 18) (dlSt s k).ball = false ∧ edgeSel (fld s (aDl k 0x00) 23 22) (dlSt s k).ball = true ∧
      flag s (aDl k 0x00) 24 = true ∧ getReg s (aDl k 0x08) + 1 = getReg s (aDl k 0x0C)) ∧
    (∃ (s : State) (k : Nat) (c : Word), k < 32 ∧ awake s = true ∧ (dlSt s k).run = some c ∧ fld s (aDl k 0x00) 21 20 = 0 ∧
      flag s (aDl k 0x00) 24 = false) ∧
    (∃ (s : State) (k : Nat), k < 32 ∧ awake s = true ∧ (dlSt s k).grp ≠ none) ∧
    (∃ (s : State) (k : Nat), k < 32 ∧ (awake s = false ∨ (dlSt s k).grp = none)) ∧
    (∃ (s : State) (v : Word) (k : Nat), k < 32 ∧ awake s = true ∧ bits v 19 18 ≠ 3 ∧ (bits v 19 18 ≠ 0 → bits v 15 8 ≠ 0) ∧
      (bit v 25 = true → getReg s (aDl k 0x0C) ≠ 0)) ∧
    (∃ (s : State) (v : Word) (k : Nat), k < 32 ∧ awake s = true ∧ (bits v 19 18 = 3 ∨ (bits v 19 18 ≠ 0 ∧ bits v 15 8 = 0) ∨
      (bit v 25 = true ∧ getReg s (aDl k 0x0C) = 0))) ∧
    (∃ (s : State), awake s = true) ∧
    (∃ (s : State), awake s = false) :=
  ⟨⟨node .stabled, 31, by decide +kernel⟩,
   ⟨rg (aDl 31 0) 1 (di 0 { run := some 9 } up), 31, 0, 1, _, _, rfl, rfl, by decide +kernel⟩,
   ⟨up, 31, by decide +kernel⟩,
   ⟨rg (aDl 31 0) 1 up, 31, by decide +kernel⟩,
   ⟨rg (aDl 31 0) 1 (di 0 { run := some 9 } up), 31, 1, _, rfl, by decide +kernel⟩,
   ⟨di 31 { run := some 9 } (rg (aDl 31 0x0C) 1 (rg (aDl 31 0) 0x01C00001 up)), 31, by decide +kernel⟩,
   ⟨di 31 { run := some 9, ball := true } (rg (aDl 31 0) 0x004000FF up), 31, 9, by decide +kernel⟩,
   ⟨di 31 { grp := some (0, 1) } up, 31, by decide +kernel⟩,
   ⟨node .stabled, 31, by decide +kernel⟩,
   ⟨rg (aDl 31 0) 1 up, 0xC0000001, 31, by decide +kernel⟩,
   ⟨rg (aDl 31 0) 1 up, 0x02040100, 31, by decide +kernel⟩,
   ⟨rg (aDl 31 0) 1 up, by decide +kernel⟩,
   ⟨node .stabled, by decide +kernel⟩⟩

/-- Every clause of Obligations.DiscreteOutputs has a state and operands that meet its hypotheses. -/
theorem test_discreteOutputs_clauses :
    (∃ (s : State), awake s = false) ∧
    (∃ (s : State), awake s = true) :=
  ⟨⟨node .stabled, by decide +kernel⟩,
   ⟨rg (aDl 31 0) 0x40000000 up, by decide +kernel⟩⟩

/-- Every clause of Obligations.DiscreteTimers has a state and operands that meet its hypotheses. -/
theorem test_discreteTimers_clauses :
    (∃ (s : State) (k : Nat), k < 32 ∧ awake s = true ∧ dlMode s k = 2) ∧
    (∃ (s : State) (k : Nat), k < 32 ∧ awake s = true ∧ dlMode s k ≠ 2) ∧
    (∃ (s : State) (k : Nat), k < 32 ∧ awake s = true ∧ dlMode s k = 3 ∧ flag s (aDl k 0x04) 0 = true ∧ (dlSt s k).t2 ≠ 0) ∧
    (∃ (s : State) (k : Nat), k < 32 ∧ awake s = true ∧ (dlMode s k ≠ 3 ∨ flag s (aDl k 0x04) 0 = false)) ∧
    (∃ (s : State) (k : Nat), k < 32 ∧ awake s = true ∧ dlDriven s k = true ∧ (dlSt s k).faulty = false ∧ (dlSt s k).ball ≠ dlLevel s k) ∧
    (∃ (s : State) (k : Nat), k < 32 ∧ awake s = true ∧ (dlDriven s k = false ∨ (dlSt s k).faulty = true ∨ (dlSt s k).ball = dlLevel s k)) ∧
    (∃ (s : State) (k : Nat), k < 32 ∧ awake s = true) :=
  ⟨⟨rg (aDl 31 0) 0x80000000 up, 31, by decide +kernel⟩,
   ⟨rg (aDl 31 0) 0x80000000 up, 3, by decide +kernel⟩,
   ⟨di 31 { t2 := 1 } (rg (aDl 31 0) 0xC0000000 (rg (aDl 31 4) 1 up)), 31, by decide +kernel⟩,
   ⟨rg (aDl 31 0) 0x80000000 up, 31, by decide +kernel⟩,
   ⟨di 31 { ball := true } (rg (aDl 31 0) 0x40000000 up), 31, by decide +kernel⟩,
   ⟨rg (aDl 31 0) 0x80000000 up, 31, by decide +kernel⟩,
   ⟨up, 31, by decide +kernel⟩⟩

/-- Every clause of Obligations.ContextControl has a state and operands that meet its hypotheses. -/
theorem test_contextControl_clauses :
    (∃ (s : State) (l : Nat) (c : Nat) (v : Word), l < 16 ∧ c < 8 ∧ awake s = true ∧ bit v 30 = false ∧ ctxStartable s l c = true) ∧
    (∃ (s : State) (l : Nat) (c : Nat) (v : Word), l < 16 ∧ c < 8 ∧ awake s = true ∧ (((Instr.ctxStart l c v,
      decide (ctxStartable s l c = false ∨ bit v 30 = true)) : Instr × Bool).2 = true)) ∧
    (∃ (s : State) (l : Nat) (c : Nat) (v : Word), l < 16 ∧ c < 8 ∧ awake s = true ∧ bit v 31 = false ∧ (ctx s l c).held = none) ∧
    (∃ (s : State) (l : Nat) (c : Nat) (v : Word) (k : Nat), l < 16 ∧ c < 8 ∧ awake s = true ∧ bit v 31 = false ∧
      (ctx s l c).held = some k) ∧
    (∃ (s : State) (l : Nat) (c : Nat) (v : Word), l < 16 ∧ c < 8 ∧ awake s = true ∧ 16 ≤ bits v 27 8 ∧ engPhys s l ≠ 31) ∧
    (∃ (s : State) (l : Nat) (c : Nat) (v : Word), l < 16 ∧ c < 8 ∧ awake s = true ∧ ((Instr.engineHold l v,
      decide (bits v 27 8 < 16)) : Instr × Bool).2 = true) :=
  ⟨⟨cx 15 7 { st := .wait } up, 15, 0, 0x80000301, by decide +kernel⟩,
   ⟨cx 15 7 { st := .wait } up, 15, 7, 0x80000301, by decide +kernel⟩,
   ⟨cx 15 7 { st := .wait } up, 15, 7, 0x40000000, by decide +kernel⟩,
   ⟨cx 15 7 { st := .run, held := some 9 } up, 15, 7, 0x40000000, 9, by decide +kernel⟩,
   ⟨cx 15 7 { st := .wait } up, 15, 7, 0x00001001, by decide +kernel⟩,
   ⟨cx 15 7 { st := .wait } up, 15, 7, 0x80000301, by decide +kernel⟩⟩

/-- Every clause of Obligations.SchedulingAndDispatch has a state and operands that meet its hypotheses. -/
theorem test_schedulingAndDispatch_clauses :
    (∃ (s : State) (l : Nat) (c : Nat), l < 16 ∧ c < 8 ∧ engRuns s l = true ∧ runCtx s l = none ∧ (ctx s l c).st = .ready) ∧
    (∃ (s : State) (l : Nat) (c : Nat), (∃ k < 8, (ctx s l k).st = .ready ∧ (ctx s l k).hi = true) ∧ l < 16 ∧ c < 8 ∧ engRuns s l = true ∧
      runCtx s l = some c ∧ (ctx s l c).hi = false ∧ (ctx s l c).nopre = false) ∧
    (∃ (s : State) (l : Nat) (c : Nat) (w : WaitSt), l < 16 ∧ c < 8 ∧ awake s = true ∧ (eng s l).moving = true ∧
      (ctx s l c).wait = some w) ∧
    (∃ (s : State) (l : Nat) (c : Nat) (w : WaitSt), (∃ k < c, ∃ x, (ctx s l k).wait = some x ∧ x.cond.getLsbD 1 = true) ∧ l < 16 ∧ c < 8 ∧
      awake s = true ∧ (eng s l).moving = false ∧ (ctx s l c).wait = some w ∧ w.cond.getLsbD 1 = true ∧ msgHolds s l = true) ∧
    (∃ (s : State) (l : Nat) (c : Nat) (w : WaitSt), l < 16 ∧ c < 8 ∧ awake s = true ∧ (eng s l).moving = false ∧
      (ctx s l c).wait = some w ∧ w.cond.getLsbD 1 = true ∧ msgHolds s l = true ∧ (∀ k < c, ∀ x, (ctx s l k).wait = some x →
      x.cond.getLsbD 1 = false)) ∧
    (∃ (s : State) (l : Nat) (c : Nat) (w : WaitSt), l < 16 ∧ c < 8 ∧ awake s = true ∧ (eng s l).moving = false ∧
      (ctx s l c).wait = some w ∧ (w.cond.getLsbD 1 && msgHolds s l) = false ∧ w.cond.getLsbD 2 = true ∧ latchOf s l c = true) ∧
    (∃ (s : State) (l : Nat) (c : Nat) (w : WaitSt), l < 16 ∧ c < 8 ∧ awake s = true ∧ (eng s l).moving = false ∧
      (ctx s l c).wait = some w ∧ (w.cond.getLsbD 1 && msgHolds s l) = false ∧ (w.cond.getLsbD 2 && latchOf s l c) = false ∧
      w.cond.getLsbD 3 = true) ∧
    (∃ (s : State) (l : Nat) (c : Nat) (k : Nat) (cell : Nat) (r : List Nat) (w : WaitSt), (∀ i ≤ 16, eccOf s (aCell cell / 8 + i) = 0) ∧
      l < 16 ∧ c < 8 ∧ engRuns s l = true ∧ s.power.entering = false ∧ liveStops s l = false ∧ dispChoice s l = some (k, c) ∧
      iq s l k = cell :: r ∧ isStale s (cellDeadline s cell) = false ∧ (ctx s l c).wait = some w) ∧
    (∃ (s : State) (l : Nat) (c : Nat) (k : Nat) (cell : Nat), l < 16 ∧ c < 8 ∧ engRuns s l = true ∧ s.power.entering = false ∧
      liveStops s l = false ∧ dispChoice s l = some (k, c) ∧ iq s l k = [cell] ∧ iq s l (1 - k) = [] ∧
      isStale s (cellDeadline s cell) = true) ∧
    (∃ (s : State) (l : Nat) (c : Nat) (cell : Nat), l < 16 ∧ c < 8 ∧ engRuns s l = true ∧ (ctx s l c).held = some cell ∧
      (ctx s l c).exl = true ∧ (ctx s l c).st = .run) ∧
    (∃ (s : State) (l : Nat) (c : Nat) (cell : Nat), l < 16 ∧ c < 8 ∧ engRuns s l = true ∧ (ctx s l c).held = some cell ∧
      (ctx s l c).exl = false ∧ ((ctx s l c).st = .run ∨ (ctx s l c).st = .block ∨ (ctx s l c).st = .wait)) :=
  ⟨⟨cx 15 7 { st := .ready } up, 15, 7, by decide +kernel⟩,
   ⟨setCtx 15 7 { st := .ready, hi := true } (cx 15 6 { st := .run } up), 15, 6, ⟨7, by decide +kernel⟩, by decide +kernel⟩,
   ⟨setEng (cx 15 7 { wait := some { cond := 8, t := 1, gd := 15 } } up) 15 { eng (cx 15 7 { wait := some { cond := 8, t := 1, gd := 15 } } up) 15 with moving := true },
     15, 7, { cond := 8, t := 1, gd := 15 }, by decide +kernel⟩,
   ⟨ff (fEmq 15) [0] (setCtx 15 6 { st := .wait, wait := some { cond := 2, t := 1, gd := 15 } } (cx 15 7 { st := .wait, wait := some { cond := 15, t := 1, gd := 15 } } up)),
     15, 7, { cond := 15, t := 1, gd := 15 }, ⟨6, by decide, { cond := 2, t := 1, gd := 15 }, by decide +kernel⟩, by decide +kernel⟩,
   ⟨ff (fEmq 15) [0] (cx 15 7 { st := .wait, wait := some { cond := 15, t := 1, gd := 15 } } up), 15, 7, { cond := 15, t := 1, gd := 15 },
     by decide +kernel⟩,
   ⟨setLatch 15 7 (cx 15 7 { st := .wait, wait := some { cond := 15, t := 1, gd := 15 } } up), 15, 7, { cond := 15, t := 1, gd := 15 },
     by decide +kernel⟩,
   ⟨cx 15 7 { st := .wait, wait := some { cond := 15, t := 1, gd := 15 } } up, 15, 7, { cond := 15, t := 1, gd := 15 }, by decide +kernel⟩,
   ⟨setEng (cx 15 7 { st := .wait, mask := 3, wait := some { cond := 1, t := 0, gd := 15 } } up) 15 { eng (cx 15 7 { st := .wait, mask := 3, wait := some { cond := 1, t := 0, gd := 15 } } up) 15 with q1 := [32767] },
     15, 7, 1, 32767, [], { cond := 1, t := 0, gd := 15 }, fun _ _ => rfl, by decide +kernel⟩,
   ⟨tm (fun t => { t with dnow := 1 }) (mw (aCell 32767 + 0x10) 4 1 (setEng (cx 15 7 { st := .wait, mask := 3, wait := some { cond := 1, t := 0, gd := 15 } } up) 15 { eng (cx 15 7 { st := .wait, mask := 3, wait := some { cond := 1, t := 0, gd := 15 } } up) 15 with q1 := [32767] })),
     15, 7, 1, 32767, by decide +kernel⟩,
   ⟨cx 15 7 { st := .run, exl := true, held := some 9 } up, 15, 7, 9, by decide +kernel⟩,
   ⟨cx 15 7 { st := .block, held := some 9 } up, 15, 7, 9, by decide +kernel⟩⟩

/-- Every clause of Obligations.AluResults has a state and operands that meet its hypotheses. -/
theorem test_aluResults_clauses :
    (∃ (s : State) (l : Nat) (c : Nat) (gd : BitVec 4) (ga : BitVec 4) (gb : BitVec 4) (a : _) (b : _), a = (gv s l c ga) ∧
      b = (gv s l c gb) ∧ Fetches l c (encRR 0x00 gd ga gb ((0x001#14, Instr.add l c gd ga gb, a + b) : BitVec 14 × Instr × Word).1) s) ∧
    (∃ (s : State) (l : Nat) (c : Nat) (gd : BitVec 4) (ga : BitVec 4) (gb : BitVec 4) (a : _) (b : _), a = (gv s l c ga) ∧
      b = (gv s l c gb) ∧ b ≠ 0 ∧ (Fetches l c (encRR 0x00 gd ga gb ((0x00F#14, Instr.div l c gd ga gb, if a.toInt = -2 ^ 31 ∧
      b.toInt = -1 then 0x7FFFFFFF#32 else BitVec.ofInt 32 (a.toInt.tdiv b.toInt)) : BitVec 14 × Instr × BitVec 32).1) s)) ∧
    (∃ (s : State) (l : Nat) (c : Nat) (gd : BitVec 4) (ga : BitVec 4), Fetches l c (encRR 0x00 gd ga 0 0x017) s) ∧
    (∃ (s : State) (l : Nat) (c : Nat) (gd : BitVec 4) (ga : BitVec 4), Fetches l c (encRR 0x00 gd ga 0 0x018) s) ∧
    (∃ (gb : BitVec 4), gb ≠ 0) ∧
    (∃ (s : State) (l : Nat) (c : Nat) (gd : BitVec 4) (ga : BitVec 4) (imm : BitVec 18), Fetches l c (encRI 0x01 gd ga imm) s) ∧
    (∃ (s : State) (l : Nat) (c : Nat) (gd : BitVec 4) (ga : BitVec 4) (imm : BitVec 18), Fetches l c (encRI 0x02 gd ga imm) s) ∧
    (∃ (s : State) (l : Nat) (c : Nat) (gd : BitVec 4) (ga : BitVec 4) (imm : BitVec 18), Fetches l c (encRI 0x03 gd ga imm) s) ∧
    (∃ (s : State) (l : Nat) (c : Nat) (gd : BitVec 4) (ga : BitVec 4) (imm : BitVec 18), Fetches l c (encRI 0x04 gd ga imm) s) ∧
    (∃ (s : State) (l : Nat) (c : Nat) (gd : BitVec 4) (ga : BitVec 4) (imm : BitVec 18), Fetches l c (encRI 0x07 gd ga imm) s) ∧
    (∃ (s : State) (l : Nat) (c : Nat) (gd : BitVec 4) (imm : BitVec 22), Fetches l c (encLI 0x06 gd imm) s) ∧
    (∃ (s : State) (l : Nat) (c : Nat) (gd : BitVec 4) (ga : BitVec 4) (amt : BitVec 5),
      Fetches l c (encRI 0x05 gd ga (BitVec.ofNat 18 amt.toNat)) s) ∧
    (∃ (s : State) (l : Nat) (c : Nat) (gd : BitVec 4) (ga : BitVec 4) (amt : BitVec 5),
      Fetches l c (encRI 0x05 gd ga (BitVec.ofNat 18 (32 + amt.toNat))) s) ∧
    (∃ (s : State) (l : Nat) (c : Nat) (gd : BitVec 4) (ga : BitVec 4) (amt : BitVec 5),
      Fetches l c (encRI 0x05 gd ga (BitVec.ofNat 18 (64 + amt.toNat))) s) :=
  ⟨⟨fz (encRR 0x00 15 14 13 1) [] up, 15, 7, 15, 14, 13, _, _, rfl, rfl, by decide +kernel⟩,
   ⟨fz (encRR 0x00 15 14 13 0xF) [(13, 0xFFFFFFFF), (14, 0x80000000)] up, 15, 7, 15, 14, 13, _, _, rfl, rfl, by decide +kernel⟩,
   ⟨fz (encRR 0x00 15 14 0 0x17) [] up, 15, 7, 15, 14, by decide +kernel⟩,
   ⟨fz (encRR 0x00 15 14 0 0x18) [] up, 15, 7, 15, 14, by decide +kernel⟩,
   ⟨13, by decide +kernel⟩,
   ⟨fz (encRI 0x01 15 14 0x20000) [] up, 15, 7, 15, 14, 0x20000, by decide +kernel⟩,
   ⟨fz (encRI 0x02 15 14 0x20000) [] up, 15, 7, 15, 14, 0x20000, by decide +kernel⟩,
   ⟨fz (encRI 0x03 15 14 0x20000) [] up, 15, 7, 15, 14, 0x20000, by decide +kernel⟩,
   ⟨fz (encRI 0x04 15 14 0x20000) [] up, 15, 7, 15, 14, 0x20000, by decide +kernel⟩,
   ⟨fz (encRI 0x07 15 14 0x20000) [] up, 15, 7, 15, 14, 0x20000, by decide +kernel⟩,
   ⟨fz (encLI 0x06 15 0x3FFFFF) [] up, 15, 7, 15, 0x3FFFFF, by decide +kernel⟩,
   ⟨fz (encRI 0x05 15 14 31) [] up, 15, 7, 15, 14, 31, by decide +kernel⟩,
   ⟨fz (encRI 0x05 15 14 63) [] up, 15, 7, 15, 14, 31, by decide +kernel⟩,
   ⟨fz (encRI 0x05 15 14 95) [] up, 15, 7, 15, 14, 31, by decide +kernel⟩⟩

/-- Every clause of Obligations.ExceptionEntry has a state and operands that meet its hypotheses. -/
theorem test_exceptionEntry_clauses :
    (∃ (s : State) (l : Nat) (c : Nat) (w : Word), l < 16 ∧ fzLegal w = false ∧ Fetches l c w s) ∧
    (∃ (s : State) (l : Nat) (c : Nat) (gd : BitVec 4) (ga : BitVec 4) (gb : BitVec 4), l < 16 ∧ gv s l c gb = 0 ∧
      Fetches l c (encRR 0x00 gd ga gb ((0x00F#14, Instr.div l c gd ga gb) : BitVec 14 × Instr).1) s) ∧
    (∃ (s : State) (l : Nat) (c : Nat) (r : BitVec 4) (ga : BitVec 4) (imm : BitVec 18), l < 16 ∧ Fetches l c (encRI ((0x08#6, 4,
      Instr.lw l c r ga imm) : BitVec 6 × Nat × Instr).1 r ga imm) s ∧ effAddr s l c ga imm % ((0x08#6, 4,
      Instr.lw l c r ga imm) : BitVec 6 × Nat × Instr).2.1 ≠ 0) ∧
    (∃ (s : State) (l : Nat) (c : Nat) (r : BitVec 4) (ga : BitVec 4) (imm : BitVec 18), l < 16 ∧ Fetches l c (encRI ((0x08#6, 4,
      Instr.lw l c r ga imm) : BitVec 6 × Nat × Instr).1 r ga imm) s ∧ effAddr s l c ga imm % ((0x08#6, 4,
      Instr.lw l c r ga imm) : BitVec 6 × Nat × Instr).2.1 = 0 ∧ localView l c (effAddr s l c ga imm) = none) ∧
    (∃ (s : State) (l : Nat) (c : Nat) (gd : BitVec 4) (ga : BitVec 4) (imm : BitVec 18) (x : _),
      x = ((gv s l c ga + imm.signExtend 32).toNat) ∧ l < 16 ∧ Fetches l c (encRI 0x17 gd ga imm) s ∧ x % 4 ≠ 0) ∧
    (∃ (s : State) (l : Nat) (c : Nat) (gd : BitVec 4) (ga : BitVec 4) (imm : BitVec 18) (x : _),
      x = ((gv s l c ga + imm.signExtend 32).toNat) ∧ l < 16 ∧ Fetches l c (encRI 0x17 gd ga imm) s ∧ x % 4 = 0 ∧ 2 ^ 16 ≤ x) ∧
    (∃ (s : State) (l : Nat) (c : Nat) (w : Word), l < 16 ∧ issues l c w s = true ∧ (fetch l c s).1 = true) ∧
    (∃ (s : State) (l : Nat) (c : Nat), l < 16 ∧ issues l c (encSys 0 0 0 0 0) s = true ∧ (fetch l c s).1 = true ∧
      (ctx s l c).exl = false) ∧
    (∃ (s : State) (l : Nat) (c : Nat) (k : BitVec 8), l < 16 ∧ Fetches l c (encSys 0 0 0 0x01 k) s) ∧
    (∃ (s : State) (l : Nat) (c : Nat), l < 16 ∧ Fetches l c (encSys 0 0 0 0x02 0) s ∧ (ctx s l c).exl = false) :=
  ⟨⟨fz 0 [] up, 15, 7, 0x00000000#32, by decide +kernel⟩,
   ⟨fz (encRR 0x00 15 14 13 0xF) [] up, 15, 7, 15, 14, 13, by decide +kernel⟩,
   ⟨fz (encRI 8 15 14 0x3FFFF) [] up, 15, 7, 15, 14, 0x3FFFF, by decide +kernel⟩,
   ⟨fz (encRI 8 15 14 0x3FFFC) [] up, 15, 7, 15, 14, 0x3FFFC, by decide +kernel⟩,
   ⟨fz (encRI 0x17 15 14 2) [] up, 15, 7, 15, 14, 2, _, rfl, by decide +kernel⟩,
   ⟨fz (encRI 0x17 15 14 4) [(14, 0xFFFC)] up, 15, 7, 15, 14, 4, _, rfl, by decide +kernel⟩,
   ⟨{ fz (encSys 0 0 0 0 0) [] up with ecc := [((aEngMem 15 + 0xFFFC) / 8, 100)] }, 15, 7, encSys 0 0 0 0 0, by decide +kernel⟩,
   ⟨{ fz (encSys 0 0 0 0 0) [] up with ecc := [((aEngMem 15 + 0xFFFC) / 8, 100)] }, 15, 7, by decide +kernel⟩,
   ⟨fz (encSys 0 0 0 0x01 0xFF) [] up, 15, 7, 0xFF#8, by decide +kernel⟩,
   ⟨fz (encSys 0 0 0 0x02 0) [] up, 15, 7, by decide +kernel⟩⟩

/-- Every clause of Obligations.LoadsAndStores has a state and operands that meet its hypotheses. -/
theorem test_loadsAndStores_clauses :
    (∃ (s : State) (l : Nat) (c : Nat) (r : BitVec 4) (ga : BitVec 4) (imm : BitVec 18) (ea : _) (n : _), ea = (effAddr s l c ga imm) ∧
      n = (((0x08#6, 4, false, Instr.lw l c r ga imm) : BitVec 6 × Nat × Bool × Instr).2.1) ∧ Fetches l c (encRI ((0x08#6, 4, false,
      Instr.lw l c r ga imm) : BitVec 6 × Nat × Bool × Instr).1 r ga imm) s ∧ ea % n = 0 ∧ ea < 0x20000 ∧
      eccOf s ((aEngMem l + ea) / 8) = 0) ∧
    (∃ (s : State) (l : Nat) (c : Nat) (r : BitVec 4) (ga : BitVec 4) (imm : BitVec 18) (ea : _) (n : _), ea = (effAddr s l c ga imm) ∧
      n = (((0x08#6, 4, false, Instr.lw l c r ga imm) : BitVec 6 × Nat × Bool × Instr).2.1) ∧ Fetches l c (encRI ((0x08#6, 4, false,
      Instr.lw l c r ga imm) : BitVec 6 × Nat × Bool × Instr).1 r ga imm) s ∧ ea % n = 0 ∧ 0x20000 ≤ ea ∧ ea < 0x20080 ∧
      eccOf s ((aCtxWin l c + (ea - 0x20000)) / 8) = 0) ∧
    (∃ (s : State) (l : Nat) (c : Nat) (r : BitVec 4) (ga : BitVec 4) (imm : BitVec 18) (ea : _) (n : _) (k : Nat),
      ea = (effAddr s l c ga imm) ∧ n = (((0x08#6, 4, false, Instr.lw l c r ga imm) : BitVec 6 × Nat × Bool × Instr).2.1) ∧
      Fetches l c (encRI ((0x08#6, 4, false, Instr.lw l c r ga imm) : BitVec 6 × Nat × Bool × Instr).1 r ga imm) s ∧ ea % n = 0 ∧ k < 8 ∧
      0x20400 + 0x80 * k ≤ ea ∧ ea < 0x20480 + 0x80 * k ∧ eccOf s ((aCtxWin l k + (ea - (0x20400 + 0x80 * k))) / 8) = 0) ∧
    (∃ (s : State) (l : Nat) (c : Nat) (r : BitVec 4) (ga : BitVec 4) (imm : BitVec 18) (ea : _) (n : _), ea = (effAddr s l c ga imm) ∧
      n = (((0x08#6, 4, false, Instr.lw l c r ga imm) : BitVec 6 × Nat × Bool × Instr).2.1) ∧ Fetches l c (encRI ((0x08#6, 4, false,
      Instr.lw l c r ga imm) : BitVec 6 × Nat × Bool × Instr).1 r ga imm) s ∧ ea % n = 0 ∧ 0x30200 ≤ ea ∧ ea < 0x30204) ∧
    (∃ (s : State) (l : Nat) (c : Nat) (r : BitVec 4) (ga : BitVec 4) (imm : BitVec 18) (ea : _) (far : _) (n : _),
      ea = (effAddr s l c ga imm) ∧ far = (ea - 0x10000000 + 0x01000000) ∧ n = (((0x08#6, 4, false,
      Instr.lw l c r ga imm) : BitVec 6 × Nat × Bool × Instr).2.1) ∧ Fetches l c (encRI ((0x08#6, 4, false,
      Instr.lw l c r ga imm) : BitVec 6 × Nat × Bool × Instr).1 r ga imm) s ∧ ea % n = 0 ∧ 0x10000000 ≤ ea ∧ ea < 0x10400000 ∧
      (eng s l).gate = [] ∧ eccOf s (far / 8) = 0) ∧
    (∃ (s : State) (l : Nat) (c : Nat) (r : BitVec 4) (ga : BitVec 4) (imm : BitVec 18) (ea : _) (n : _), ea = (effAddr s l c ga imm) ∧
      n = (((0x0D#6, 4, Instr.sw l c r ga imm) : BitVec 6 × Nat × Instr).2.1) ∧ Fetches l c (encRI ((0x0D#6, 4,
      Instr.sw l c r ga imm) : BitVec 6 × Nat × Instr).1 r ga imm) s ∧ ea % n = 0 ∧ ea < 0x20000) ∧
    (∃ (s : State) (l : Nat) (c : Nat) (r : BitVec 4) (ga : BitVec 4) (imm : BitVec 18) (ea : _) (n : _), ea = (effAddr s l c ga imm) ∧
      n = (((0x0D#6, 4, Instr.sw l c r ga imm) : BitVec 6 × Nat × Instr).2.1) ∧ Fetches l c (encRI ((0x0D#6, 4,
      Instr.sw l c r ga imm) : BitVec 6 × Nat × Instr).1 r ga imm) s ∧ ea % n = 0 ∧ 0x20000 ≤ ea ∧ ea < 0x20080) ∧
    (∃ (s : State) (l : Nat) (c : Nat) (r : BitVec 4) (ga : BitVec 4) (imm : BitVec 18) (ea : _) (n : _), ea = (effAddr s l c ga imm) ∧
      n = (((0x0D#6, 4, Instr.sw l c r ga imm) : BitVec 6 × Nat × Instr).2.1) ∧ Fetches l c (encRI ((0x0D#6, 4,
      Instr.sw l c r ga imm) : BitVec 6 × Nat × Instr).1 r ga imm) s ∧ ea % n = 0 ∧ 0x10000000 ≤ ea ∧ ea < 0x10400000 ∧
      (eng s l).gate = []) :=
  ⟨⟨fz (encRI 8 15 14 0x1FFFC) [] up, 15, 7, 15, 14, 0x1FFFC, _, _, rfl, rfl, by decide +kernel⟩,
   ⟨fz (encRI 8 15 14 0x1FFFC) [(14, 0x80)] up, 15, 7, 15, 14, 0x1FFFC, _, _, rfl, rfl, by decide +kernel⟩,
   ⟨fz (encRI 8 15 14 0) [(14, 0x207FC)] up, 15, 7, 15, 14, 0, _, _, 7, rfl, rfl, by decide +kernel⟩,
   ⟨fz (encRI 8 15 14 0) [(14, 0x30200)] up, 15, 7, 15, 14, 0, _, _, rfl, rfl, by decide +kernel⟩,
   ⟨fz (encRI 8 15 14 0x3FFFC) [(14, 0x10400000)] up, 15, 7, 15, 14, 0x3FFFC, _, _, _, rfl, rfl, rfl, by decide +kernel⟩,
   ⟨fz (encRI 0xD 15 14 0x1FFFC) [] up, 15, 7, 15, 14, 0x1FFFC, _, _, rfl, rfl, by decide +kernel⟩,
   ⟨fz (encRI 0xD 15 14 0x1FFFC) [(14, 0x80)] up, 15, 7, 15, 14, 0x1FFFC, _, _, rfl, rfl, by decide +kernel⟩,
   ⟨fz (encRI 0x0D 13 14 0) [(14, 0x103FFFFC)] up, 15, 7, 13, 14, 0, _, _, rfl, rfl, by decide +kernel⟩⟩

/-- Every clause of Obligations.BranchesAndJumps has a state and operands that meet its hypotheses. -/
theorem test_branchesAndJumps_clauses :
    (∃ (s : State) (l : Nat) (c : Nat) (ga : BitVec 4) (gb : BitVec 4) (off : BitVec 18) (a : _) (b : _), a = (gv s l c ga) ∧
      b = (gv s l c gb) ∧ Fetches l c (encBR ((0x10#6, Instr.beq l c ga gb off,
      decide (a = b)) : BitVec 6 × Instr × Bool).1 ga gb off) s) ∧
    (∃ (s : State) (l : Nat) (c : Nat) (gd : BitVec 4) (imm : BitVec 22), Fetches l c (encLI 0x16 gd imm) s) ∧
    (∃ (s : State) (l : Nat) (c : Nat) (gd : BitVec 4) (ga : BitVec 4) (imm : BitVec 18) (x : _), x = (gv s l c ga + imm.signExtend 32) ∧
      Fetches l c (encRI 0x17 gd ga imm) s ∧ x.toNat % 4 = 0 ∧ x.toNat < 2 ^ 16) :=
  ⟨⟨fz (encBR 0x10 14 13 0x20000) [] up, 15, 7, 14, 13, 0x20000, _, _, rfl, rfl, by decide +kernel⟩,
   ⟨fz (encLI 0x16 15 0x200000) [] up, 15, 7, 15, 0x200000, by decide +kernel⟩,
   ⟨fz (encRI 0x17 15 14 0x1FFFC) [(14, 0xFFFF0000)] up, 15, 7, 15, 14, 0x1FFFC, _, rfl, by decide +kernel⟩⟩

/-- Every clause of Obligations.SystemInstructions has a state and operands that meet its hypotheses. -/
theorem test_systemInstructions_clauses :
    (∃ (s : State) (l : Nat) (c : Nat), Fetches l c (encSys 0 0 0 0x00 0) s) ∧
    (∃ (s : State) (l : Nat) (c : Nat) (v : _), v = (ctx s l c) ∧ Fetches l c (encSys 0 0 0 0x02 0) s ∧ v.exl = true) ∧
    (∃ (s : State) (l : Nat) (c : Nat), Fetches l c (encSys 0 0 0 0x03 0) s) ∧
    (∃ (s : State) (l : Nat) (c : Nat), Fetches l c (encSys 0 0 0 0x04 0) s) ∧
    (∃ (s : State) (l : Nat) (c : Nat) (gd : BitVec 4) (n : BitVec 2), Fetches l c (encSys gd 0 (n.setWidth 4) 0x05 0) s) ∧
    (∃ (s : State) (l : Nat) (c : Nat) (ga : BitVec 4) (n : BitVec 2), Fetches l c (encSys 0 ga (n.setWidth 4) 0x06 0) s) ∧
    (∃ (s : State) (l : Nat) (c : Nat) (ga : BitVec 4), Fetches l c (encSys 0 ga 0 0x10 0) s ∧ gv s l c ga ≠ 0 ∧
      (gv s l c ga).toNat ≤ fld s (aEng l 0x00) 27 8) ∧
    (∃ (s : State) (l : Nat) (c : Nat) (gd : BitVec 4), Fetches l c (encSys gd 0 0 0x11 0) s) ∧
    (∃ (s : State) (l : Nat) (c : Nat) (gd : BitVec 4) (ga : BitVec 4) (gb : BitVec 4) (k : Nat), k < 8 ∧ gv s l c ga = wd k ∧
      (gv s l c gb).toNat % 4 = 0 ∧ (gv s l c gb).toNat < 2 ^ 16 ∧ Fetches l c (encSys gd ga gb 0x12 0) s ∧ ctxStartable s l k = true) ∧
    (∃ (s : State) (l : Nat) (c : Nat) (gd : BitVec 4) (ga : BitVec 4) (gb : BitVec 4) (k : Nat), k < 8 ∧ gv s l c ga = wd k ∧
      (gv s l c gb).toNat % 4 = 0 ∧ (gv s l c gb).toNat < 2 ^ 16 ∧ Fetches l c (encSys gd ga gb 0x12 0) s ∧ ctxStartable s l k = false ∧
      l < 16) ∧
    (∃ (s : State) (l : Nat) (c : Nat) (ga : BitVec 4) (k : Nat), k < 8 ∧ gv s l c ga = wd k ∧ Fetches l c (encSys 0 ga 0 0x13 0) s ∧
      (ctx s l k).held = none) ∧
    (∃ (s : State) (l : Nat) (c : Nat) (ga : BitVec 4) (k : Nat) (h : Nat), k < 8 ∧ k ≠ c ∧ gv s l c ga = wd k ∧
      Fetches l c (encSys 0 ga 0 0x13 0) s ∧ (ctx s l k).held = some h) ∧
    (∃ (s : State) (l : Nat) (c : Nat) (gd : BitVec 4) (ga : BitVec 4) (k : Nat), k < 8 ∧ gv s l c ga = wd k ∧
      Fetches l c (encSys gd ga 0 0x14 0) s) ∧
    (∃ (s : State) (l : Nat) (c : Nat) (ga : BitVec 4), l < 16 ∧ Fetches l c (encSys 0 ga 0 0x10 0) s ∧
      (gv s l c ga = 0 ∨ fld s (aEng l 0x00) 27 8 < (gv s l c ga).toNat)) ∧
    (∃ (s : State) (l : Nat) (c : Nat) (gd : BitVec 4) (ga : BitVec 4) (gb : BitVec 4), l < 16 ∧ 7 < (gv s l c ga).toNat ∧
      Fetches l c (encSys gd ga gb 0x12 0) s) ∧
    (∃ (s : State) (l : Nat) (c : Nat) (ga : BitVec 4), l < 16 ∧ 7 < (gv s l c ga).toNat ∧ Fetches l c (encSys 0 ga 0 0x13 0) s) ∧
    (∃ (s : State) (l : Nat) (c : Nat) (gd : BitVec 4) (ga : BitVec 4), l < 16 ∧ 7 < (gv s l c ga).toNat ∧
      Fetches l c (encSys gd ga 0 0x14 0) s) :=
  ⟨⟨fz (encSys 0 0 0 0 0) [] up, 15, 7, by decide +kernel⟩,
   ⟨fzX (encSys 0 0 0 2 0) [] up, 15, 7, _, rfl, by decide +kernel⟩,
   ⟨fz (encSys 0 0 0 3 0) [] up, 15, 7, by decide +kernel⟩,
   ⟨fz (encSys 0 0 0 4 0) [] up, 15, 7, by decide +kernel⟩,
   ⟨fz (encSys 15 0 3 5 0) [] up, 15, 7, 15, 3, by decide +kernel⟩,
   ⟨fz (encSys 0 15 3 6 0) [] up, 15, 7, 15, 3, by decide +kernel⟩,
   ⟨fz (encSys 0 15 0 0x10 0) [(15, 0x1000)] up, 15, 7, 15, by decide +kernel⟩,
   ⟨fz (encSys 15 0 0 0x11 0) [] up, 15, 7, 15, by decide +kernel⟩,
   ⟨fz (encSys 15 14 13 0x12 0) [(13, 0xFFFC)] up, 15, 7, 15, 14, 13, 0, by decide +kernel⟩,
   ⟨fz (encSys 15 14 13 0x12 0) [(13, 0xFFFC), (14, 7)] up, 15, 7, 15, 14, 13, 7, by decide +kernel⟩,
   ⟨fz (encSys 0 14 0 0x13 0) [(14, 7)] up, 15, 7, 14, 7, by decide +kernel⟩,
   ⟨setCtx 15 6 { held := some 9 } (fz (encSys 0 14 0 0x13 0) [(14, 6)] up), 15, 7, 14, 6, 9, by decide +kernel⟩,
   ⟨fz (encSys 15 14 0 0x14 0) [(14, 7)] up, 15, 7, 15, 14, 7, by decide +kernel⟩,
   ⟨fz (encSys 0 14 0 0x10 0) [(14, 0)] up, 15, 7, 14, by decide +kernel⟩,
   ⟨fz (encSys 15 14 13 0x12 0) [(14, 8)] up, 15, 7, 15, 14, 13, by decide +kernel⟩,
   ⟨fz (encSys 0 14 0 0x13 0) [(14, 8)] up, 15, 7, 14, by decide +kernel⟩,
   ⟨fz (encSys 15 14 0 0x14 0) [(14, 8)] up, 15, 7, 15, 14, by decide +kernel⟩⟩

/-- Every clause of Obligations.ResponseArrivals has a state and operands that meet its hypotheses. -/
theorem test_responseArrivals_clauses :
    (∃ (s : State) (l : Nat) (c : Nat) (b : Blk), ((b.space = true ∧ hasEntered s l c b.id = false) ∨ (b.fence = none ∧ b.res = none) ∨
      ∃ gd seqs, b.fence = some (gd, seqs) ∧ ∃ x ∈ incomplete s, isEngPost l x.owner = true ∧ x.tseq ∈ seqs) ∧ l < 16 ∧ c < 8 ∧
      awake s = true ∧ gateDrain l s = s ∧ (ctx s l c).orphans = 0 ∧ (ctx s l c).blk = some b) ∧
    (∃ (s : State) (l : Nat) (c : Nat) (n : Nat), l < 16 ∧ c < 8 ∧ awake s = true ∧ (eng s l).gate = [] ∧ (ctx s l c).orphans = n + 1) ∧
    (∃ (s : State) (l : Nat) (c : Nat) (b : Blk) (r : BlkRes), l < 16 ∧ c < 8 ∧ awake s = true ∧ (eng s l).gate = [] ∧
      (ctx s l c).orphans = 0 ∧ (ctx s l c).blk = some b ∧ b.fence = none ∧ b.res = some r ∧ r.exc = none ∧ r.win = none ∧ r.mem = []) ∧
    (∃ (s : State) (l : Nat) (c : Nat) (b : Blk) (r : BlkRes) (a : Nat) (bs : List Byte), l < 16 ∧ c < 8 ∧ awake s = true ∧
      (eng s l).gate = [] ∧ (ctx s l c).orphans = 0 ∧ (ctx s l c).blk = some b ∧ b.fence = none ∧ b.res = some r ∧ r.exc = none ∧
      r.win = none ∧ r.mem = [(a, bs)]) ∧
    (∃ (s : State) (l : Nat) (c : Nat) (b : Blk) (r : BlkRes) (bs : List Byte), l < 16 ∧ c < 8 ∧ awake s = true ∧ (eng s l).gate = [] ∧
      (ctx s l c).orphans = 0 ∧ (ctx s l c).blk = some b ∧ b.fence = none ∧ b.res = some r ∧ r.exc = none ∧ r.win = some bs ∧ r.mem = []) ∧
    (∃ (s : State) (l : Nat) (c : Nat) (b : Blk) (r : BlkRes) (code : Nat), l < 16 ∧ c < 8 ∧ awake s = true ∧ (eng s l).gate = [] ∧
      (ctx s l c).orphans = 0 ∧ (ctx s l c).blk = some b ∧ b.fence = none ∧ b.res = some r ∧ r.exc = some code ∧ (ctx s l c).exl = false) ∧
    (∃ (s : State) (l : Nat) (c : Nat) (b : Blk) (gd : Nat) (seqs : List Nat), l < 16 ∧ c < 8 ∧ awake s = true ∧ (eng s l).gate = [] ∧
      (ctx s l c).orphans = 0 ∧ (ctx s l c).blk = some b ∧ b.fence = some (gd, seqs) ∧ (∀ x ∈ incomplete s, ¬ (isEngPost l x.owner = true ∧
      x.tseq ∈ seqs))) :=
  ⟨⟨cx 15 7 { st := .block, blk := some { id := 0 } } up, 15, 7, { id := 0 }, .inr (.inl ⟨rfl, rfl⟩), by decide +kernel⟩,
   ⟨cx 15 7 { st := .block, orphans := 256 } up, 15, 7, 255, by decide +kernel⟩,
   ⟨cx 15 7 { st := .block, blk := some { id := 3, res := some { regs := [(15, 7)] } } } up, 15, 7,
     { id := 3, res := some { regs := [(15, 7)] } }, { regs := [(15, 7)] }, by decide +kernel⟩,
   ⟨cx 15 7 { st := .block, blk := some { id := 3, res := some { regs := [(15, 7)], mem := [(0x00600000, [1#8])] } } } up, 15, 7,
     { id := 3, res := some { regs := [(15, 7)], mem := [(0x00600000, [1#8])] } }, { regs := [(15, 7)], mem := [(0x00600000, [1#8])] },
     0x00600000, [1#8], by decide +kernel⟩,
   ⟨cx 15 7 { st := .block, blk := some { id := 0, res := some { win := some [1] } } } up, 15, 7,
     { id := 0, res := some { win := some [1] } }, { win := some [1] }, [1], by decide +kernel⟩,
   ⟨cx 15 7 { st := .block, blk := some { id := 3, res := some { exc := some 3 } } } up, 15, 7, { id := 3, res := some { exc := some 3 } },
     { exc := some 3 }, 3, by decide +kernel⟩,
   ⟨cx 15 7 { st := .block, blk := some { id := 3, fence := some (15, [1, 2]) } } up, 15, 7, { id := 3, fence := some (15, [1, 2]) }, 15,
     [1, 2], by decide +kernel⟩⟩

/-- Every clause of Obligations.FieldInstructions has a state and operands that meet its hypotheses. -/
theorem test_fieldInstructions_clauses :
    (∃ (s : State) (l : Nat) (c : Nat) (gd : BitVec 4) (ga : BitVec 4) (v : _) (txt : _) (tag : _) (sel : BitVec 8), v = (ctx s l c) ∧
      txt = (txText s v) ∧ tag = (txTag v) ∧ (∀ w, eccOf s w = 0) ∧ (eng s l).gate = [] ∧ l < 16 ∧
      Fetches l c (encFX 0x18 gd ga sel 0 0) s ∧ (fieldNo s l c ga sel = none ∨ ∃ k, fieldNo s l c ga sel = some k ∧
      txBad v (fieldOf txt tag k).2 = true)) ∧
    (∃ (s : State) (l : Nat) (c : Nat) (gd : BitVec 4) (ga : BitVec 4) (v : _) (txt : _) (tag : _) (sel : BitVec 8) (k : Nat) (f : _),
      v = (ctx s l c) ∧ txt = (txText s v) ∧ tag = (txTag v) ∧ f = (fieldOf txt tag k) ∧ (∀ w, eccOf s w = 0) ∧ (eng s l).gate = [] ∧
      fieldNo s l c ga sel = some k ∧ txBad v f.2 = false ∧ Fetches l c (encFX 0x18 gd ga sel 0 0) s) ∧
    (∃ (s : State) (l : Nat) (c : Nat) (gd : BitVec 4) (ga : BitVec 4) (v : _) (txt : _) (tag : _) (sel : BitVec 8) (k : Nat) (f : _) (str : List Byte),
      v = (ctx s l c) ∧ txt = (txText s v) ∧ tag = (txTag v) ∧ f = (fieldOf txt tag k) ∧ (∀ w, eccOf s w = 0) ∧ (eng s l).gate = [] ∧
      fieldNo s l c ga sel = some k ∧ txBad v f.2 = false ∧ Fetches l c (encFX 0x18 gd ga sel 5 0) s ∧ sel ≠ 0xFF#8 ∧
      cstr s l (gv s l c ga).toNat = some str) ∧
    (∃ (s : State) (l : Nat) (c : Nat) (gd : BitVec 4) (ga : BitVec 4) (v : _) (txt : _) (tag : _) (sel : BitVec 8) (k : Nat) (f : _),
      v = (ctx s l c) ∧ txt = (txText s v) ∧ tag = (txTag v) ∧ f = (fieldOf txt tag k) ∧ (∀ w, eccOf s w = 0) ∧ (eng s l).gate = [] ∧
      fieldNo s l c ga sel = some k ∧ txBad v f.2 = false ∧ Fetches l c (encFX 0x18 gd ga sel 3 0) s ∧ sel ≠ 0xFF#8 ∧ f.1 = none) ∧
    (∃ (s : State) (l : Nat) (c : Nat) (gd : BitVec 4) (ga : BitVec 4) (v : _) (txt : _) (tag : _) (sel : BitVec 8) (k : Nat) (f : _) (st : Nat) (n : Nat),
      v = (ctx s l c) ∧ txt = (txText s v) ∧ tag = (txTag v) ∧ f = (fieldOf txt tag k) ∧ (∀ w, eccOf s w = 0) ∧ (eng s l).gate = [] ∧
      fieldNo s l c ga sel = some k ∧ txBad v f.2 = false ∧ Fetches l c (encFX 0x18 gd ga sel 3 0) s ∧ sel ≠ 0xFF#8 ∧ f.1 = some (st,
      n) ∧ inDmem (gv s l c ga).toNat (fieldBytes txt (st, n)).length = true ∧ 96 < f.2) ∧
    (∃ (s : State) (l : Nat) (c : Nat) (gd : BitVec 4) (ga : BitVec 4) (v : _) (txt : _) (tag : _) (sel : BitVec 8) (k : Nat) (f : _) (st : Nat) (n : Nat),
      v = (ctx s l c) ∧ txt = (txText s v) ∧ tag = (txTag v) ∧ f = (fieldOf txt tag k) ∧ (∀ w, eccOf s w = 0) ∧ (eng s l).gate = [] ∧
      fieldNo s l c ga sel = some k ∧ txBad v f.2 = false ∧ Fetches l c (encFX 0x18 gd ga sel 3 0) s ∧ sel ≠ 0xFF#8 ∧ f.1 = some (st,
      n) ∧ inDmem (gv s l c ga).toNat (fieldBytes txt (st, n)).length = true ∧ f.2 ≤ 96) ∧
    (∃ (s : State) (l : Nat) (c : Nat) (gd : BitVec 4) (ga : BitVec 4) (v : _) (sel : BitVec 8) (i : _), v = (ctx s l c) ∧
      i = ((gv s l c ga).toNat + sel.toNat) ∧ (∀ w, eccOf s w = 0) ∧ (eng s l).gate = [] ∧ Fetches l c (encFX 0x18 gd ga sel 1 0) s ∧
      i < txLen v ∧ txBad v (i + 1) = false) ∧
    (∃ (s : State) (l : Nat) (c : Nat) (gd : BitVec 4) (ga : BitVec 4) (v : _) (txt : _) (tag : _) (e : _), v = (ctx s l c) ∧
      txt = (txText s v) ∧ tag = (txTag v) ∧ e = (if tag < txLen v then (commaCount (txt.drop tag) tag).2 else 0) ∧ (∀ w,
      eccOf s w = 0) ∧ (eng s l).gate = [] ∧ Fetches l c (encFX 0x18 gd ga 0 2 0) s ∧ txBad v e = false) ∧
    (∃ (s : State) (l : Nat) (c : Nat) (gd : BitVec 4) (ga : BitVec 4) (v : _), v = (ctx s l c) ∧ (∀ w, eccOf s w = 0) ∧
      (eng s l).gate = [] ∧ Fetches l c (encFX 0x18 gd ga 0 3 1) s ∧ 96 < txLen v ∧ txBad v (txLen v) = false ∧
      inDmem (gv s l c ga).toNat (txLen v) = true) ∧
    (∃ (s : State) (l : Nat) (c : Nat) (gd : BitVec 4) (ga : BitVec 4) (v : _) (tag : _), v = (ctx s l c) ∧ tag = (txTag v) ∧ (∀ w,
      eccOf s w = 0) ∧ (eng s l).gate = [] ∧ Fetches l c (encFX 0x18 gd ga 0 3 1) s ∧ txLen v ≤ 96 ∧ tag ≤ txLen v ∧
      inDmem (gv s l c ga).toNat (txLen v) = true) ∧
    (∃ (s : State) (l : Nat) (c : Nat) (gd : BitVec 4) (ga : BitVec 4) (v : _) (txt : _) (tag : _) (x : BitVec 8) (b : BitVec 8) (r : List Byte),
      v = (ctx s l c) ∧ txt = (txText s v) ∧ tag = (txTag v) ∧ (∀ w, eccOf s w = 0) ∧ (eng s l).gate = [] ∧
      Fetches l c (encFX 0x18 gd ga x 4 0) s ∧ txt.take tag = b :: r ∧ txBad v (tagScan x b r 1).2 = false) ∧
    (∃ (s : State) (l : Nat) (text : List Byte) (tg : Nat) (k : Nat) (st : Nat) (n : Nat) (e : Nat) (i : Nat), (∀ w, eccOf s w = 0) ∧
      (eng s l).gate = [] ∧ fieldOf text tg (k + 1) = (some (st, n), e) ∧ i < n) :=
  ⟨⟨tx (encFX 0x18 15 14 255 0 0) [(14, 256)] snt 0, 15, 7, 15, 14, _, _, _, 255, rfl, rfl, rfl, fun _ => rfl, by decide +kernel,
    by decide +kernel, by decide +kernel, .inl (by decide +kernel)⟩,
   ⟨tx (encFX 0x18 15 14 1 0 0) [] snt 0, 15, 7, 15, 14, _, _, _, 1, 1, _, rfl, rfl, rfl, rfl, fun _ => rfl, by decide +kernel⟩,
   ⟨mw (aEngMem 15 + 0x1FFFC) 4 0x00352E31 (tx (encFX 0x18 15 14 1 5 0) [(14, 0x1FFFC)] snt 0), 15, 7, 15, 14, _, _, _, 1, 1, _, [0x31#8,
     0x2E#8, 0x35#8], rfl, rfl, rfl, rfl, fun _ => rfl, by decide +kernel⟩,
   ⟨tx (encFX 0x18 15 14 254 3 0) [] snt 0, 15, 7, 15, 14, _, _, _, 254, 254, _, rfl, rfl, rfl, rfl, fun _ => rfl, by decide +kernel⟩,
   ⟨txLong (encFX 0x18 15 14 0 3 0) [(14, 0x10000)], 15, 7, 15, 14, _, _, _, 0, 0, _, 1, 96, rfl, rfl, rfl, rfl, fun _ => rfl,
     by decide +kernel⟩,
   ⟨tx (encFX 0x18 15 14 1 3 0) [(14, 0x1FFFD)] snt 0, 15, 7, 15, 14, _, _, _, 1, 1, _, 2, 3, rfl, rfl, rfl, rfl, fun _ => rfl,
     by decide +kernel⟩,
   ⟨tx (encFX 0x18 15 14 8 1 0) [] snt 0, 15, 7, 15, 14, _, 8, _, rfl, rfl, fun _ => rfl, by decide +kernel⟩,
   ⟨tx (encFX 0x18 15 14 0 2 0) [] tgd 5, 15, 7, 15, 14, _, _, _, _, rfl, rfl, rfl, rfl, fun _ => rfl, by decide +kernel⟩,
   ⟨txLong (encFX 0x18 15 14 0 3 1) [(14, 0x10000)], 15, 7, 15, 14, _, rfl, fun _ => rfl, by decide +kernel⟩,
   ⟨tx (encFX 0x18 15 14 0 3 1) [(14, 0x1FFF7)] snt 0, 15, 7, 15, 14, _, _, rfl, rfl, fun _ => rfl, by decide +kernel⟩,
   ⟨tx (encFX 0x18 15 14 0x73 4 0) [] tgd 5, 15, 7, 15, 14, _, _, _, 0x73#8, 0x5C#8, [0x73#8, 0x3A#8, 0x37#8, 0x5C#8], rfl, rfl, rfl,
     fun _ => rfl, by decide +kernel⟩,
   ⟨tx (encFX 0x18 15 14 1 0 0) [] snt 0, 15, [0x41#8, 0x2C#8, 0x31#8, 0x2A#8], 0, 0, 2, 1, 4, 0, fun _ => rfl, by decide +kernel⟩⟩

/-- Every clause of Obligations.NumbersAndCharacters has a state and operands that meet its hypotheses. -/
theorem test_numbersAndCharacters_clauses :
    (∃ (s : State) (l : Nat) (c : Nat) (gd : BitVec 4) (ga : BitVec 4) (v : _) (txt : _) (sel : BitVec 8) (k : Nat) (f : _) (sc : BitVec 6) (w : Word),
      v = (ctx s l c) ∧ txt = (txText s v) ∧ f = (fieldOf txt (txTag v) k) ∧ (∀ w, eccOf s w = 0) ∧ (eng s l).gate = [] ∧
      fieldNo s l c ga sel = some k ∧ txBad v f.2 = false ∧ sc.toNat ≤ 9 ∧
      ndecVal ((f.1.map (fieldBytes txt)).getD []) sc.toNat = some w ∧ Fetches l c (encFX 0x19 gd ga sel 0 sc) s) ∧
    (∃ (s : State) (l : Nat) (c : Nat) (gd : BitVec 4) (ga : BitVec 4) (v : _) (txt : _) (sel : BitVec 8) (k : Nat) (f : _) (w : Word),
      v = (ctx s l c) ∧ txt = (txText s v) ∧ f = (fieldOf txt (txTag v) k) ∧ (∀ w, eccOf s w = 0) ∧ (eng s l).gate = [] ∧
      fieldNo s l c ga sel = some k ∧ txBad v f.2 = false ∧ nhexVal ((f.1.map (fieldBytes txt)).getD []) = some w ∧
      Fetches l c (encFX 0x19 gd ga sel 1 0) s) ∧
    (∃ (s : State) (l : Nat) (c : Nat) (gd : BitVec 4) (ga : BitVec 4) (v : _) (txt : _) (sel : BitVec 8) (k : Nat) (f : _) (sc : BitVec 6),
      v = (ctx s l c) ∧ txt = (txText s v) ∧ f = (fieldOf txt (txTag v) k) ∧ (∀ w, eccOf s w = 0) ∧ (eng s l).gate = [] ∧
      fieldNo s l c ga sel = some k ∧ txBad v f.2 = false ∧ sc.toNat ≤ 9 ∧ Fetches l c ((Instr.ndec l c gd ga sel sc,
      encFX 0x19 gd ga sel 0 sc, ndecVal ((f.1.map (fieldBytes txt)).getD []) sc.toNat) : Instr × Word × Option Word).2.1 s ∧
      ((Instr.ndec l c gd ga sel sc, encFX 0x19 gd ga sel 0 sc,
      ndecVal ((f.1.map (fieldBytes txt)).getD []) sc.toNat) : Instr × Word × Option Word).2.2 = none ∧ f.2 ≤ 96 ∧ l < 16) ∧
    (∃ (s : State) (l : Nat) (c : Nat) (gd : BitVec 4) (ga : BitVec 4) (v : _) (txt : _) (sel : BitVec 8) (k : Nat) (f : _) (sc : BitVec 6),
      v = (ctx s l c) ∧ txt = (txText s v) ∧ f = (fieldOf txt (txTag v) k) ∧ (∀ w, eccOf s w = 0) ∧ (eng s l).gate = [] ∧
      fieldNo s l c ga sel = some k ∧ txBad v f.2 = false ∧ sc.toNat ≤ 9 ∧ Fetches l c ((Instr.ndec l c gd ga sel sc,
      encFX 0x19 gd ga sel 0 sc, ndecVal ((f.1.map (fieldBytes txt)).getD []) sc.toNat) : Instr × Word × Option Word).2.1 s ∧
      ((Instr.ndec l c gd ga sel sc, encFX 0x19 gd ga sel 0 sc,
      ndecVal ((f.1.map (fieldBytes txt)).getD []) sc.toNat) : Instr × Word × Option Word).2.2 = none ∧ 96 < f.2) ∧
    (∃ (s : State) (l : Nat) (bs : List Byte) (w : Nat) (d : Nat) (sc : Nat), (∀ w, eccOf s w = 0) ∧ (eng s l).gate = [] ∧
      decParse bs = some (w, d) ∧ bs.length ≤ 23 ∧ scaleDec w d sc ≤ 0x7FFFFFFF ∧ sc < d) ∧
    (∃ (s : State) (l : Nat) (c : Nat) (gd : BitVec 4) (ga : BitVec 4) (a : _) (wid : BitVec 8) (d : BitVec 8) (sc : BitVec 6) (bs : _),
      a = (gv s l c ga) ∧ bs = (((Instr.nfmt l c gd ga wid sc, encFX 0x19 gd ga wid 2 sc,
      nfmtText a sc.toNat wid.toNat) : Instr × Word × List Byte).2.2) ∧ (∀ w, eccOf s w = 0) ∧ (eng s l).gate = [] ∧ wid.toNat ≤ 10 ∧
      sc.toNat ≤ 9 ∧ 1 ≤ d.toNat ∧ d.toNat ≤ 8 ∧ Fetches l c ((Instr.nfmt l c gd ga wid sc, encFX 0x19 gd ga wid 2 sc,
      nfmtText a sc.toNat wid.toNat) : Instr × Word × List Byte).2.1 s ∧ inDmem (gv s l c gd).toNat bs.length = true) ∧
    (∃ (s : State) (l : Nat) (c : Nat) (gd : BitVec 4) (ga : BitVec 4) (a : _) (n : BitVec 8), a = (gv s l c ga) ∧ (∀ w, eccOf s w = 0) ∧
      (eng s l).gate = [] ∧ inDmem a.toNat n.toNat = true ∧ Fetches l c (encFX 0x1A gd ga n 0 0) s) ∧
    (∃ (s : State) (l : Nat) (c : Nat) (gd : BitVec 4) (ga : BitVec 4) (a : _) (n : BitVec 8), a = (gv s l c ga) ∧ (∀ w, eccOf s w = 0) ∧
      (eng s l).gate = [] ∧ inDmem a.toNat n.toNat = true ∧ Fetches l c (encFX 0x1A gd ga n 0 1) s) ∧
    (∃ (s : State) (l : Nat) (c : Nat) (gd : BitVec 4) (ga : BitVec 4), (∀ w, eccOf s w = 0) ∧ (eng s l).gate = [] ∧
      Fetches l c (encFX 0x1A gd ga 0 1 0) s) ∧
    (∃ (s : State) (l : Nat) (c : Nat) (gd : BitVec 4) (ga : BitVec 4) (a : _) (h : Nat) (o : Nat), a = (gv s l c ga) ∧ (∀ w,
      eccOf s w = 0) ∧ (eng s l).gate = [] ∧ Fetches l c (encFX 0x1A gd ga 0 2 0) s ∧ hexValue (BitVec.ofNat 8 a.toNat) = some h ∧
      hexValue (BitVec.ofNat 8 (a.toNat / 256)) = some o) ∧
    (∃ (s : State) (l : Nat) (c : Nat) (gd : BitVec 4) (ga : BitVec 4) (a : _), a = (gv s l c ga) ∧ (∀ w, eccOf s w = 0) ∧
      (eng s l).gate = [] ∧ Fetches l c (encFX 0x1A gd ga 0 2 0) s ∧
      (hexValue (BitVec.ofNat 8 a.toNat) = none ∨ hexValue (BitVec.ofNat 8 (a.toNat / 256)) = none)) ∧
    (∃ (s : State) (l : Nat) (c : Nat) (gd : BitVec 4) (ga : BitVec 4), (∀ w, eccOf s w = 0) ∧ (eng s l).gate = [] ∧
      Fetches l c (encFX 0x1A gd ga 0 3 0) s) :=
  ⟨⟨tx (encFX 0x19 15 14 1 0 9) [] snt 0, 15, 7, 15, 14, _, _, 1, 1, _, 9, 1500000000, rfl, rfl, rfl, fun _ => rfl, by decide +kernel⟩,
   ⟨tx (encFX 0x19 15 14 2 1 0) [] snt 0, 15, 7, 15, 14, _, _, 2, 2, _, 255, rfl, rfl, rfl, fun _ => rfl, by decide +kernel⟩,
   ⟨tx (encFX 0x19 15 14 2 0 9) [] snt 0, 15, 7, 15, 14, _, _, 2, 2, _, 9, rfl, rfl, rfl, fun _ => rfl, by decide +kernel⟩,
   ⟨txLong (encFX 0x19 15 14 0 0 9) [], 15, 7, 15, 14, _, _, 0, 0, _, 9, rfl, rfl, rfl, fun _ => rfl, by decide +kernel⟩,
   ⟨tx (encFX 0x19 15 14 1 0 9) [] snt 0, 15, [0x31#8, 0x2E#8, 0x35#8], 15, 1, 0, fun _ => rfl, by decide +kernel⟩,
   ⟨fz (encFX 0x19 15 14 10 2 9) [(15, 0x1FF00)] up, 15, 7, 15, 14, _, 10, 1, 9, _, rfl, rfl, fun _ => rfl, by decide +kernel⟩,
   ⟨fz (encFX 0x1A 15 14 255 0 0) [(14, 0x1FF01)] up, 15, 7, 15, 14, _, 255, rfl, fun _ => rfl, by decide +kernel⟩,
   ⟨fz (encFX 0x1A 15 14 255 0 1) [(14, 0x1FF01)] up, 15, 7, 15, 14, _, 255, rfl, fun _ => rfl, by decide +kernel⟩,
   ⟨fz (encFX 0x1A 15 14 0 1 0) [] up, 15, 7, 15, 14, fun _ => rfl, by decide +kernel⟩,
   ⟨fz (encFX 0x1A 15 14 0 2 0) [(14, 0x4130)] up, 15, 7, 15, 14, _, 0, 10, rfl, fun _ => rfl, by decide +kernel⟩,
   ⟨fz (encFX 0x1A 15 14 0 2 0) [(14, 0x4730)] up, 15, 7, 15, 14, _, rfl, fun _ => rfl, by decide +kernel⟩,
   ⟨fz (encFX 0x1A 15 14 0 3 0) [] up, 15, 7, 15, 14, fun _ => rfl, by decide +kernel⟩⟩

/-- Every clause of Obligations.Emissions has a state and operands that meet its hypotheses. -/
theorem test_emissions_clauses :
    (∃ (s : State) (l : Nat) (c : Nat) (gd : BitVec 4) (ga : BitVec 4) (a : _) (d : List Byte) (f : _), a = (gv s l c ga) ∧
      f = (dByte d 4) ∧ (∀ w, eccOf s w = 0) ∧ (eng s l).gate = [] ∧ Fetches l c (encFX 0x1B gd ga 0 0 0) s ∧ a.toNat % 4 = 0 ∧
      inDmem a.toNat 16 = true ∧ d = memBytes s (aEngMem l + a.toNat) 16 ∧ dNat d 2 2 ≤ 511 ∧ f ≤ 15 ∧ dByte d 5 = 0 ∧
      dNat d 6 2 ≤ 4095 ∧ (f.testBit 1 = true → (ctx s l c).held ≠ none) ∧ (dNat d 2 2 = 0 ∨ 352 < dNat d 2 2)) ∧
    (∃ (s : State) (l : Nat) (c : Nat) (gd : BitVec 4) (ga : BitVec 4) (a : _) (d : List Byte) (txt : List Byte) (f : _) (q : EmitReq),
      a = (gv s l c ga) ∧ f = (dByte d 4) ∧
      q = ({ text := txt, ckadd := f.testBit 0, stamp := if f.testBit 1 then heldStamp s l c else none, dl := if f.testBit 2 then some (dNat d 8 4) else none, direct := if f.testBit 3 then some (dNat d 6 2) else none, user := dNat d 12 4 }) ∧
      (∀ w, eccOf s w = 0) ∧ (eng s l).gate = [] ∧ Fetches l c (encFX 0x1B gd ga 0 0 0) s ∧ a.toNat % 4 = 0 ∧ inDmem a.toNat 16 = true ∧
      d = memBytes s (aEngMem l + a.toNat) 16 ∧ dNat d 2 2 ≤ 511 ∧ f ≤ 15 ∧ dByte d 5 = 0 ∧ dNat d 6 2 ≤ 4095 ∧
      (f.testBit 1 = true → (ctx s l c).held ≠ none) ∧ dNat d 2 2 ≤ 352 ∧ dNat d 2 2 ≠ 0 ∧
      inDmem (0x10000 + dNat d 0 2) (dNat d 2 2) = true ∧ txt = memBytes s (aEngMem l + 0x10000 + dNat d 0 2) (dNat d 2 2) ∧
      checkText q.ckadd txt = none ∧ txt.length + (if q.ckadd then 3 else 0) ≤ 352) ∧
    (∃ (s : State) (l : Nat) (c : Nat) (gd : BitVec 4) (ga : BitVec 4) (f : BitVec 2) (cell : Nat), (∀ w, eccOf s w = 0) ∧
      (eng s l).gate = [] ∧ Fetches l c (encFX 0x1B gd ga 0 1 (f.setWidth 6)) s ∧ (ctx s l c).held = some cell) ∧
    (∃ (s : State) (l : Nat) (c : Nat) (gd : BitVec 4) (ga : BitVec 4) (f : BitVec 2), (∀ w, eccOf s w = 0) ∧ (eng s l).gate = [] ∧
      l < 16 ∧ Fetches l c (encFX 0x1B gd ga 0 1 (f.setWidth 6)) s ∧ (ctx s l c).held = none) ∧
    (∃ (s : State) (l : Nat) (c : Nat) (gd : BitVec 4) (ga : BitVec 4) (a : _) (f : BitVec 2), a = (gv s l c ga) ∧ (∀ w, eccOf s w = 0) ∧
      (eng s l).gate = [] ∧ l < 16 ∧ Fetches l c (encFX 0x1B gd ga 0 2 (f.setWidth 6)) s ∧ (32767 < a.toNat ∨ (f.getLsbD 1 = true ∧
      (ctx s l c).held = none))) ∧
    (∃ (s : State) (l : Nat) (c : Nat) (gd : BitVec 4) (ga : BitVec 4) (a : _) (f : BitVec 2) (n : _), a = (gv s l c ga) ∧
      n = (cellNat s a.toNat 0x18 2 % 32768) ∧ (∀ w, eccOf s w = 0) ∧ (eng s l).gate = [] ∧
      Fetches l c (encFX 0x1B gd ga 0 2 (f.setWidth 6)) s ∧ a.toNat ≤ 32767 ∧ (f.getLsbD 1 = true → (ctx s l c).held ≠ none) ∧
      engOwns s l a.toNat = true ∧ 32768 ≤ cellNat s a.toNat 0x18 2 ∧ engOwns s l n = true ∧ engOwns s l (n + 1) = true ∧
      cellLen s a.toNat ≤ 352) ∧
    (∃ (s : State) (l : Nat) (c : Nat) (gd : BitVec 4) (ga : BitVec 4) (a : _) (f : BitVec 2), a = (gv s l c ga) ∧ (∀ w, eccOf s w = 0) ∧
      (eng s l).gate = [] ∧ Fetches l c (encFX 0x1B gd ga 0 2 (f.setWidth 6)) s ∧ a.toNat ≤ 32767 ∧
      (f.getLsbD 1 = true → (ctx s l c).held ≠ none) ∧ engOwns s l a.toNat = false) ∧
    (∃ (s : State) (l : Nat) (c : Nat) (gd : BitVec 4) (ga : BitVec 4) (a : _) (f : BitVec 2), a = (gv s l c ga) ∧ (∀ w, eccOf s w = 0) ∧
      (eng s l).gate = [] ∧ Fetches l c (encFX 0x1B gd ga 0 2 (f.setWidth 6)) s ∧ a.toNat ≤ 32767 ∧
      (f.getLsbD 1 = true → (ctx s l c).held ≠ none) ∧ engOwns s l a.toNat = true ∧ cellNat s a.toNat 0x18 2 < 32768 ∧
      cellLen s a.toNat ≤ 96) ∧
    (∃ (s : State) (l : Nat) (c : Nat) (gd : BitVec 4) (ga : BitVec 4) (a : _) (d : List Byte) (body : List Byte), a = (gv s l c ga) ∧
      (∀ w, eccOf s w = 0) ∧ (eng s l).gate = [] ∧ Fetches l c (encFX 0x1B gd ga 0 3 0) s ∧ a.toNat % 4 = 0 ∧ inDmem a.toNat 8 = true ∧
      d = memBytes s (aEngMem l + a.toNat) 8 ∧ 1 ≤ dNat d 2 2 ∧ dNat d 2 2 ≤ 252 ∧ dByte d 4 ≤ 15 ∧ dByte d 5 = 0 ∧ dNat d 6 2 ≤ 4095 ∧
      inDmem (0x10000 + dNat d 0 2) (dNat d 2 2) = true ∧ body = memBytes s (aEngMem l + 0x10000 + dNat d 0 2) (dNat d 2 2) ∧
      dNat d 6 2 = 0xFFF) ∧
    (∃ (s : State) (l : Nat) (c : Nat) (gd : BitVec 4) (ga : BitVec 4) (a : _) (d : List Byte) (body : List Byte), a = (gv s l c ga) ∧
      (∀ w, eccOf s w = 0) ∧ (eng s l).gate = [] ∧ Fetches l c (encFX 0x1B gd ga 0 3 0) s ∧ a.toNat % 4 = 0 ∧ inDmem a.toNat 8 = true ∧
      d = memBytes s (aEngMem l + a.toNat) 8 ∧ 1 ≤ dNat d 2 2 ∧ dNat d 2 2 ≤ 252 ∧ dByte d 4 ≤ 15 ∧ dByte d 5 = 0 ∧ dNat d 6 2 ≤ 4095 ∧
      inDmem (0x10000 + dNat d 0 2) (dNat d 2 2) = true ∧ body = memBytes s (aEngMem l + 0x10000 + dNat d 0 2) (dNat d 2 2) ∧
      dNat d 6 2 = 0) ∧
    (∃ (s : State) (l : Nat) (c : Nat) (gd : BitVec 4) (ga : BitVec 4) (a : _) (d : List Byte) (body : List Byte), a = (gv s l c ga) ∧
      (∀ w, eccOf s w = 0) ∧ (eng s l).gate = [] ∧ Fetches l c (encFX 0x1B gd ga 0 3 0) s ∧ a.toNat % 4 = 0 ∧ inDmem a.toNat 8 = true ∧
      d = memBytes s (aEngMem l + a.toNat) 8 ∧ 1 ≤ dNat d 2 2 ∧ dNat d 2 2 ≤ 252 ∧ dByte d 4 ≤ 15 ∧ dByte d 5 = 0 ∧ dNat d 6 2 ≤ 4095 ∧
      inDmem (0x10000 + dNat d 0 2) (dNat d 2 2) = true ∧ body = memBytes s (aEngMem l + 0x10000 + dNat d 0 2) (dNat d 2 2) ∧
      dNat d 6 2 ≠ 0xFFF ∧ dNat d 6 2 ≠ 0 ∧ dNat d 6 2 ≠ s.nodeId ∧ originates s = false) ∧
    (∃ (s : State) (l : Nat) (c : Nat) (gd : BitVec 4) (ga : BitVec 4) (a : _) (d : List Byte) (body : List Byte), a = (gv s l c ga) ∧
      (∀ w, eccOf s w = 0) ∧ (eng s l).gate = [] ∧ Fetches l c (encFX 0x1B gd ga 0 3 0) s ∧ a.toNat % 4 = 0 ∧ inDmem a.toNat 8 = true ∧
      d = memBytes s (aEngMem l + a.toNat) 8 ∧ 1 ≤ dNat d 2 2 ∧ dNat d 2 2 ≤ 252 ∧ dByte d 4 ≤ 15 ∧ dByte d 5 = 0 ∧ dNat d 6 2 ≤ 4095 ∧
      inDmem (0x10000 + dNat d 0 2) (dNat d 2 2) = true ∧ body = memBytes s (aEngMem l + 0x10000 + dNat d 0 2) (dNat d 2 2) ∧
      dNat d 6 2 ≠ 0xFFF ∧ dNat d 6 2 ≠ 0 ∧ dNat d 6 2 ≠ s.nodeId ∧ originates s = true) :=
  ⟨⟨mw (aEngMem 15 + 0x1FFF0) 8 0x0FFF000D01FF0000 (fz (encFX 0x1B 15 14 0 0 0) [(14, 0x1FFF0)] up), 15, 7, 15, 14, _,
    memBytes (mw (aEngMem 15 + 0x1FFF0) 8 0x0FFF000D01FF0000 (fz (encFX 0x1B 15 14 0 0 0) [(14, 0x1FFF0)] up)) (aEngMem 15 + 0x1FFF0) 16,
    _, rfl, rfl, fun _ => rfl, by decide +kernel⟩,
   ⟨mw (aEngMem 15 + 0x1FFF0) 8 0x0FFF000D00010000 (fz (encFX 0x1B 15 14 0 0 0) [(14, 0x1FFF0)] up), 15, 7, 15, 14, _,
     memBytes (mw (aEngMem 15 + 0x1FFF0) 8 0x0FFF000D00010000 (fz (encFX 0x1B 15 14 0 0 0) [(14,
     0x1FFF0)] up)) (aEngMem 15 + 0x1FFF0) 16,
     memBytes (mw (aEngMem 15 + 0x1FFF0) 8 0x0FFF000D00010000 (fz (encFX 0x1B 15 14 0 0 0) [(14, 0x1FFF0)] up)) (aEngMem 15 + 0x10000) 1,
     _, _, rfl, rfl, rfl, fun _ => rfl, by decide +kernel⟩,
   ⟨hd 32767 (fz (encFX 0x1B 15 14 0 1 3) [] up), 15, 7, 15, 14, 3, 32767, fun _ => rfl, by decide +kernel⟩,
   ⟨fz (encFX 0x1B 15 14 0 1 3) [] up, 15, 7, 15, 14, 3, fun _ => rfl, by decide +kernel⟩,
   ⟨fz (encFX 0x1B 15 14 0 2 1) [(14, 32768)] up, 15, 7, 15, 14, _, 1, rfl, fun _ => rfl, by decide +kernel⟩,
   ⟨mw (aCell 32767 + 0x18) 2 0x8000 { fz (encFX 0x1B 15 14 0 2 1) [(14, 32767)] up with cells := [(0, .filling 287 1), (1, .filling 287 1), (32767, .filling 287 1)] },
     15, 7, 15, 14, _, 1, _, rfl, rfl, fun _ => rfl, by decide +kernel⟩,
   ⟨fz (encFX 0x1B 15 14 0 2 1) [(14, 32767)] up, 15, 7, 15, 14, _, 1, rfl, fun _ => rfl, by decide +kernel⟩,
   ⟨{ fz (encFX 0x1B 15 14 0 2 1) [(14, 32767)] up with cells := [(32767, .filling 287 1)] }, 15, 7, 15, 14, _, 1, rfl, fun _ => rfl,
     by decide +kernel⟩,
   ⟨mw (aEngMem 15 + 0x1FFF8) 8 0x0FFF000F00FC0000 (fz (encFX 0x1B 15 14 0 3 0) [(14, 0x1FFF8)] up), 15, 7, 15, 14, _,
     memBytes (mw (aEngMem 15 + 0x1FFF8) 8 0x0FFF000F00FC0000 (fz (encFX 0x1B 15 14 0 3 0) [(14, 0x1FFF8)] up)) (aEngMem 15 + 0x1FFF8) 8,
     memBytes (mw (aEngMem 15 + 0x1FFF8) 8 0x0FFF000F00FC0000 (fz (encFX 0x1B 15 14 0 3 0) [(14,
     0x1FFF8)] up)) (aEngMem 15 + 0x10000) 252, rfl, fun _ => rfl, by decide +kernel⟩,
   ⟨mw (aEngMem 15 + 0x1FFF8) 8 0x0000000F00FC0000 (fz (encFX 0x1B 15 14 0 3 0) [(14, 0x1FFF8)] up), 15, 7, 15, 14, _,
     memBytes (mw (aEngMem 15 + 0x1FFF8) 8 0x0000000F00FC0000 (fz (encFX 0x1B 15 14 0 3 0) [(14, 0x1FFF8)] up)) (aEngMem 15 + 0x1FFF8) 8,
     memBytes (mw (aEngMem 15 + 0x1FFF8) 8 0x0000000F00FC0000 (fz (encFX 0x1B 15 14 0 3 0) [(14,
     0x1FFF8)] up)) (aEngMem 15 + 0x10000) 252, rfl, fun _ => rfl, by decide +kernel⟩,
   ⟨mw (aEngMem 15 + 0x1FFF8) 8 0x0FFE000F00FC0000 (fz (encFX 0x1B 15 14 0 3 0) [(14, 0x1FFF8)] (node .halter)), 15, 7, 15, 14, _,
     memBytes (mw (aEngMem 15 + 0x1FFF8) 8 0x0FFE000F00FC0000 (fz (encFX 0x1B 15 14 0 3 0) [(14,
     0x1FFF8)] (node .halter))) (aEngMem 15 + 0x1FFF8) 8,
     memBytes (mw (aEngMem 15 + 0x1FFF8) 8 0x0FFE000F00FC0000 (fz (encFX 0x1B 15 14 0 3 0) [(14,
     0x1FFF8)] (node .halter))) (aEngMem 15 + 0x10000) 252, rfl, fun _ => rfl, by decide +kernel⟩,
   ⟨mw (aEngMem 15 + 0x1FFF8) 8 0x0FFE000F00FC0000 (fz (encFX 0x1B 15 14 0 3 0) [(14, 0x1FFF8)] up), 15, 7, 15, 14, _,
     memBytes (mw (aEngMem 15 + 0x1FFF8) 8 0x0FFE000F00FC0000 (fz (encFX 0x1B 15 14 0 3 0) [(14, 0x1FFF8)] up)) (aEngMem 15 + 0x1FFF8) 8,
     memBytes (mw (aEngMem 15 + 0x1FFF8) 8 0x0FFE000F00FC0000 (fz (encFX 0x1B 15 14 0 3 0) [(14,
     0x1FFF8)] up)) (aEngMem 15 + 0x10000) 252, rfl, fun _ => rfl, by decide +kernel⟩⟩

/-- Every clause of Obligations.TimeAndEventInstructions has a state and operands that meet its hypotheses. -/
theorem test_timeAndEventInstructions_clauses :
    (∃ (s : State) (l : Nat) (c : Nat) (gd : BitVec 4) (ga : BitVec 4), Fetches l c (encFX 0x1C gd ga 0 0 0) s ∧ isPair gd = true ∧
      (eng s l).gate = []) ∧
    (∃ (s : State) (l : Nat) (c : Nat) (gd : BitVec 4) (ga : BitVec 4) (d : _) (p : _), d = (gPair s l c gd) ∧ p = (gPair s l c ga) ∧
      Fetches l c (encFX 0x1C gd ga 0 1 0) s ∧ isPair gd = true ∧ isPair ga = true ∧ ftBad d = false ∧ ftBad p = false) ∧
    (∃ (s : State) (l : Nat) (c : Nat) (gd : BitVec 4) (ga : BitVec 4) (d : _), d = (gPair s l c gd) ∧
      Fetches l c (encFX 0x1C gd ga 0 2 0) s ∧ isPair gd = true ∧ ftBad d = false) ∧
    (∃ (s : State) (l : Nat) (c : Nat) (gd : BitVec 4) (ga : BitVec 4) (p : _), p = (gPair s l c ga) ∧
      Fetches l c (encFX 0x1C gd ga 0 3 0) s ∧ isPair ga = true ∧ ftBad p = false) ∧
    (∃ (s : State) (l : Nat) (c : Nat) (gd : BitVec 4) (ga : BitVec 4) (d : _), d = (gPair s l c gd) ∧ l < 16 ∧ isPair gd = true ∧
      ftBad d = true ∧ Fetches l c (encFX 0x1C gd ga 0 2 0) s) ∧
    (∃ (s : State) (l : Nat) (c : Nat) (gd : BitVec 4) (ga : BitVec 4) (d : _) (p : _), d = (gPair s l c gd) ∧ p = (gPair s l c ga) ∧
      l < 16 ∧ isPair gd = true ∧ isPair ga = true ∧ (ftBad d = true ∨ ftBad p = true) ∧ Fetches l c (encFX 0x1C gd ga 0 1 0) s) ∧
    (∃ (s : State) (l : Nat) (c : Nat) (gd : BitVec 4) (ga : BitVec 4) (p : _), p = (gPair s l c ga) ∧ l < 16 ∧ isPair ga = true ∧
      ftBad p = true ∧ Fetches l c (encFX 0x1C gd ga 0 3 0) s) ∧
    (∃ (s : State) (l : Nat) (c : Nat) (gd : BitVec 4) (ga : BitVec 4) (a : _) (cond : BitVec 4), a = (gv s l c ga) ∧ l < 16 ∧
      cond.getLsbD 3 = true ∧ (a = 0 ∨ 16777215 < a.toNat) ∧ Fetches l c (encFX 0x1D gd ga (cond.setWidth 8) 0 0) s) ∧
    (∃ (s : State) (l : Nat) (c : Nat) (gd : BitVec 4) (ga : BitVec 4) (a : _) (k : BitVec 3), a = (gv s l c ga) ∧ l < 16 ∧
      15 < a.toNat ∧ Fetches l c (encFX 0x1D gd ga (k.setWidth 8) 1 0) s) ∧
    (∃ (s : State) (l : Nat) (c : Nat) (gd : BitVec 4) (ga : BitVec 4) (v : _) (a : _) (cond : BitVec 4) (h : Nat), v = (ctx s l c) ∧
      a = (gv s l c ga) ∧ Fetches l c (encFX 0x1D gd ga (cond.setWidth 8) 0 0) s ∧ cond.getLsbD 0 = true ∧
      (cond.getLsbD 3 = true → a ≠ 0 ∧ a.toNat ≤ 16777215) ∧ v.held = some h ∧ (cond.getLsbD 1 && msgHolds s l) = false ∧
      (cond.getLsbD 2 && latchOf s l c) = false) ∧
    (∃ (s : State) (l : Nat) (c : Nat) (gd : BitVec 4) (ga : BitVec 4) (v : _) (a : _) (cond : BitVec 4), v = (ctx s l c) ∧
      a = (gv s l c ga) ∧ Fetches l c (encFX 0x1D gd ga (cond.setWidth 8) 0 0) s ∧ cond ≠ 0 ∧ (cond.getLsbD 3 = true → a ≠ 0 ∧
      a.toNat ≤ 16777215) ∧ v.held = none ∧ (cond.getLsbD 1 && msgHolds s l) = false ∧ (cond.getLsbD 2 && latchOf s l c) = false) ∧
    (∃ (s : State) (l : Nat) (c : Nat) (gd : BitVec 4) (ga : BitVec 4) (v : _) (a : _) (cond : BitVec 4), v = (ctx s l c) ∧
      a = (gv s l c ga) ∧ Fetches l c (encFX 0x1D gd ga (cond.setWidth 8) 0 0) s ∧ cond ≠ 0 ∧ (cond.getLsbD 3 = true → a ≠ 0 ∧
      a.toNat ≤ 16777215) ∧ v.held = none ∧ cond.getLsbD 1 = true ∧ msgHolds s l = true) ∧
    (∃ (s : State) (l : Nat) (c : Nat) (gd : BitVec 4) (ga : BitVec 4) (v : _) (a : _) (cond : BitVec 4), v = (ctx s l c) ∧
      a = (gv s l c ga) ∧ Fetches l c (encFX 0x1D gd ga (cond.setWidth 8) 0 0) s ∧ cond ≠ 0 ∧ (cond.getLsbD 3 = true → a ≠ 0 ∧
      a.toNat ≤ 16777215) ∧ v.held = none ∧ (cond.getLsbD 1 && msgHolds s l) = false ∧ cond.getLsbD 2 = true ∧ latchOf s l c = true) ∧
    (∃ (s : State) (l : Nat) (c : Nat) (gd : BitVec 4) (ga : BitVec 4) (a : _) (k : BitVec 3), a = (gv s l c ga) ∧
      Fetches l c (encFX 0x1D gd ga (k.setWidth 8) 1 0) s ∧ a.toNat ≤ 15 ∧ (a.toNat = l ∨ (eng s l).gate = [])) ∧
    (∃ (s : State) (l : Nat) (c : Nat) (gd : BitVec 4) (ga : BitVec 4), Fetches l c (encFX 0x1D gd ga 0 2 0) s) ∧
    (∃ (s : State) (l : Nat) (c : Nat) (gd : BitVec 4) (ga : BitVec 4) (n : BitVec 4),
      Fetches l c (encFX 0x1D gd ga (n.setWidth 8) 3 0) s ∧ (eng s l).gate = []) ∧
    (∃ (s : State) (l : Nat) (c : Nat) (gd : BitVec 4) (ga : BitVec 4) (op : _), op = (((0#6,
      Instr.dlwrClr l c gd ga) : BitVec 6 × Instr).1) ∧ Fetches l c (encFX 0x1E gd ga 0 0 op) s ∧ (eng s l).gate = []) ∧
    (∃ (s : State) (l : Nat) (c : Nat) (gd : BitVec 4) (ga : BitVec 4), Fetches l c (encFX 0x1E gd ga 0 1 0) s ∧ (eng s l).gate = []) :=
  ⟨⟨fz (encFX 0x1C 14 12 0 0 0) [] up, 15, 7, 14, 12, by decide +kernel⟩,
   ⟨fz (encFX 0x1C 14 12 0 1 0) [(14, 999999999)] up, 15, 7, 14, 12, _, _, rfl, rfl, by decide +kernel⟩,
   ⟨fz (encFX 0x1C 14 12 0 2 0) [(14, 999999999)] up, 15, 7, 14, 12, _, rfl, by decide +kernel⟩,
   ⟨fz (encFX 0x1C 14 12 0 3 0) [(12, 999999999)] up, 15, 7, 14, 12, _, rfl, by decide +kernel⟩,
   ⟨fz (encFX 0x1C 14 12 0 2 0) [(14, 1000000000)] up, 15, 7, 14, 12, _, rfl, by decide +kernel⟩,
   ⟨fz (encFX 0x1C 14 12 0 1 0) [(14, 1000000000)] up, 15, 7, 14, 12, _, _, rfl, rfl, by decide +kernel⟩,
   ⟨fz (encFX 0x1C 14 12 0 3 0) [(12, 1000000000)] up, 15, 7, 14, 12, _, rfl, by decide +kernel⟩,
   ⟨fz (encFX 0x1D 14 12 15 0 0) [(12, 16777216)] up, 15, 7, 14, 12, _, 15, rfl, by decide +kernel⟩,
   ⟨fz (encFX 0x1D 14 12 7 1 0) [(12, 16)] up, 15, 7, 14, 12, _, 7, rfl, by decide +kernel⟩,
   ⟨hd 9 (fz (encFX 0x1D 14 12 15 0 0) [(12, 16777215)] up), 15, 7, 14, 12, _, _, 15, 9, rfl, rfl, by decide +kernel⟩,
   ⟨fz (encFX 0x1D 14 12 15 0 0) [(12, 16777215)] up, 15, 7, 14, 12, _, _, 15, rfl, rfl, by decide +kernel⟩,
   ⟨ff (fEmq 15) [0] (fz (encFX 0x1D 14 12 15 0 0) [(12, 16777215)] up), 15, 7, 14, 12, _, _, 15, rfl, rfl, by decide +kernel⟩,
   ⟨setLatch 15 7 (fz (encFX 0x1D 14 12 15 0 0) [(12, 16777215)] up), 15, 7, 14, 12, _, _, 15, rfl, rfl, by decide +kernel⟩,
   ⟨fz (encFX 0x1D 14 12 7 1 0) [(12, 15)] up, 15, 7, 14, 12, _, 7, rfl, by decide +kernel⟩,
   ⟨fz (encFX 0x1D 14 12 0 2 0) [] up, 15, 7, 14, 12, by decide +kernel⟩,
   ⟨fz (encFX 0x1D 14 12 15 3 0) [] up, 15, 7, 14, 12, 15, by decide +kernel⟩,
   ⟨fz (encFX 0x1E 14 12 0 0 0) [] up, 15, 7, 14, 12, _, rfl, by decide +kernel⟩,
   ⟨fz (encFX 0x1E 14 12 0 1 0) [] up, 15, 7, 14, 12, by decide +kernel⟩⟩

/-- Every clause of Obligations.CellInstructions has a state and operands that meet its hypotheses. -/
theorem test_cellInstructions_clauses :
    (∃ (s : State) (l : Nat) (c : Nat) (gd : BitVec 4) (ga : BitVec 4) (g : GateReq) (r : List GateReq), (∀ w, eccOf s w = 0) ∧
      Fetches l c (encFX 0x1F gd ga 0 4 0) s ∧ (eng s l).gate = g :: r ∧ (eng s l).gate.length = 16 ∧ reqReady s l g.req = false) ∧
    (∃ (s : State) (l : Nat) (c : Nat) (gd : BitVec 4) (ga : BitVec 4) (a : _), a = ((gv s l c ga).toNat) ∧ (∀ w, eccOf s w = 0) ∧
      Fetches l c (encFX 0x1F gd ga 0 1 0) s ∧ l < 16 ∧ 32767 < a) ∧
    (∃ (s : State) (l : Nat) (c : Nat) (gd : BitVec 4) (ga : BitVec 4) (a : _), a = ((gv s l c ga).toNat) ∧ (∀ w, eccOf s w = 0) ∧
      Fetches l c (encFX 0x1F gd ga 0 2 0) s ∧ l < 16 ∧ 32767 < a) ∧
    (∃ (s : State) (l : Nat) (c : Nat) (gd : BitVec 4) (ga : BitVec 4) (a : _), a = ((gv s l c ga).toNat) ∧ (∀ w, eccOf s w = 0) ∧
      Fetches l c (encFX 0x1F gd ga 0 3 0) s ∧ l < 16 ∧ 32767 < a) ∧
    (∃ (s : State) (l : Nat) (c : Nat) (gd : BitVec 4) (ga : BitVec 4) (k : Nat), (∀ w, eccOf s w = 0) ∧ (eng s l).gate = [] ∧
      Fetches l c (encFX 0x1F gd ga 0 0 0) s ∧ 1 ≤ poolFree s ∧ poolFirst s = some k) ∧
    (∃ (s : State) (l : Nat) (c : Nat) (gd : BitVec 4) (ga : BitVec 4) (k : Nat), (∀ w, eccOf s w = 0) ∧ (eng s l).gate = [] ∧
      Fetches l c (encFX 0x1F gd ga 1 0 0) s ∧ 2 ≤ poolFree s ∧ poolPair s = some k) ∧
    (∃ (s : State) (l : Nat) (c : Nat) (gd : BitVec 4) (ga : BitVec 4) (pair : Bool), (∀ w, eccOf s w = 0) ∧ (eng s l).gate = [] ∧
      Fetches l c (encFX 0x1F gd ga (if pair then 1 else 0) 0 0) s ∧ (if pair then poolFree s < 2 ∨ poolPair s = none else poolFree s < 1 ∨
      poolFirst s = none)) ∧
    (∃ (s : State) (l : Nat) (c : Nat) (gd : BitVec 4) (ga : BitVec 4) (a : _) (two : Bool), a = ((gv s l c ga).toNat) ∧ (∀ w,
      eccOf s w = 0) ∧ (eng s l).gate = [] ∧ Fetches l c (encFX 0x1F gd ga 0 1 (if two then 1 else 0)) s ∧ a + b2n two ≤ 32767 ∧
      (engOwns s l a && (!two || engOwns s l (a + 1))) = true) ∧
    (∃ (s : State) (l : Nat) (c : Nat) (gd : BitVec 4) (ga : BitVec 4) (a : _) (two : Bool), a = ((gv s l c ga).toNat) ∧ (∀ w,
      eccOf s w = 0) ∧ (eng s l).gate = [] ∧ Fetches l c (encFX 0x1F gd ga 0 1 (if two then 1 else 0)) s ∧ a + b2n two ≤ 32767 ∧
      (engOwns s l a && (!two || engOwns s l (a + 1))) = false) ∧
    (∃ (s : State) (l : Nat) (c : Nat) (gd : BitVec 4) (ga : BitVec 4) (a : _), a = ((gv s l c ga).toNat) ∧ (∀ w, eccOf s w = 0) ∧
      (eng s l).gate = [] ∧ Fetches l c (encFX 0x1F gd ga 0 2 0) s ∧ a ≤ 32767) ∧
    (∃ (s : State) (l : Nat) (c : Nat) (gd : BitVec 4) (ga : BitVec 4) (a : _), a = ((gv s l c ga).toNat) ∧ (∀ w, eccOf s w = 0) ∧
      (eng s l).gate = [] ∧ Fetches l c (encFX 0x1F gd ga 0 3 0) s ∧ a ≤ 32767 ∧ (engOwns s l a || decide (a < poolRsv s)) = true) ∧
    (∃ (s : State) (l : Nat) (c : Nat) (gd : BitVec 4) (ga : BitVec 4) (a : _), a = ((gv s l c ga).toNat) ∧ (∀ w, eccOf s w = 0) ∧
      (eng s l).gate = [] ∧ Fetches l c (encFX 0x1F gd ga 0 3 0) s ∧ a ≤ 32767 ∧ (engOwns s l a || decide (a < poolRsv s)) = false) ∧
    (∃ (s : State) (l : Nat) (c : Nat) (gd : BitVec 4) (ga : BitVec 4), (∀ w, eccOf s w = 0) ∧ (eng s l).gate = [] ∧
      Fetches l c (encFX 0x1F gd ga 0 4 0) s) ∧
    (∃ (s : State) (l : Nat) (c : Nat) (gd : BitVec 4) (ga : BitVec 4) (a : _) (d : List Byte), a = ((gv s l c ga).toNat) ∧ (∀ w,
      eccOf s w = 0) ∧ (eng s l).gate = [] ∧ a % 4 = 0 ∧ inDmem a 8 = true ∧ d = memBytes s (aEngMem l + a) 8 ∧ camCmd d = none ∧
      dNat d 4 2 % 4 = 0 ∧ l < 16 ∧ Fetches l c (encFX 0x20 gd ga 0 0 0) s) ∧
    (∃ (s : State) (l : Nat) (c : Nat) (gd : BitVec 4) (ga : BitVec 4) (a : _) (d : List Byte), a = ((gv s l c ga).toNat) ∧ (∀ w,
      eccOf s w = 0) ∧ (eng s l).gate = [] ∧ a % 4 = 0 ∧ inDmem a 8 = true ∧ d = memBytes s (aEngMem l + a) 8 ∧ camCmd d = none ∧
      dNat d 4 2 % 4 = 0 ∧ l < 16 ∧ Fetches l c (encFX 0x20 gd ga 0 1 0) s) ∧
    (∃ (s : State) (l : Nat) (c : Nat) (gd : BitVec 4) (ga : BitVec 4) (a : _) (d : List Byte), a = ((gv s l c ga).toNat) ∧ (∀ w,
      eccOf s w = 0) ∧ (eng s l).gate = [] ∧ a % 4 = 0 ∧ inDmem a 8 = true ∧ d = memBytes s (aEngMem l + a) 8 ∧ camCmd d = none ∧
      dNat d 4 2 % 4 = 0 ∧ l < 16 ∧ Fetches l c (encFX 0x20 gd ga 0 2 0) s) ∧
    (∃ (s : State) (l : Nat) (c : Nat) (gd : BitVec 4) (ga : BitVec 4) (a : _) (k : CamCmd) (d : List Byte), a = ((gv s l c ga).toNat) ∧
      (∀ w, eccOf s w = 0) ∧ (eng s l).gate = [] ∧ a % 4 = 0 ∧ inDmem a 8 = true ∧ d = memBytes s (aEngMem l + a) 8 ∧ camCmd d = some k ∧
      k.image % 4 = 0 ∧ Fetches l c (encFX 0x20 gd ga 0 0 0) s ∧ inDmem k.image (tblEntry k.tbl) = true) ∧
    (∃ (s : State) (l : Nat) (c : Nat) (gd : BitVec 4) (ga : BitVec 4) (a : _) (k : CamCmd) (d : List Byte), a = ((gv s l c ga).toNat) ∧
      (∀ w, eccOf s w = 0) ∧ (eng s l).gate = [] ∧ a % 4 = 0 ∧ inDmem a 8 = true ∧ d = memBytes s (aEngMem l + a) 8 ∧ camCmd d = some k ∧
      k.image % 4 = 0 ∧ Fetches l c (encFX 0x20 gd ga 0 1 0) s ∧ l < 16 ∧ k.inactive = true ∧ (k.clrDec = true ∨ k.clrHits = true)) ∧
    (∃ (s : State) (l : Nat) (c : Nat) (gd : BitVec 4) (ga : BitVec 4) (a : _) (k : CamCmd) (d : List Byte) (ws : _),
      a = ((gv s l c ga).toNat) ∧ ws = (packWords (memBytes s (aEngMem l + k.image) (tblEntry k.tbl))) ∧ (∀ w, eccOf s w = 0) ∧
      (eng s l).gate = [] ∧ a % 4 = 0 ∧ inDmem a 8 = true ∧ d = memBytes s (aEngMem l + a) 8 ∧ camCmd d = some k ∧ k.image % 4 = 0 ∧
      Fetches l c (encFX 0x20 gd ga 0 1 0) s ∧ inDmem k.image (tblEntry k.tbl) = true ∧ (k.inactive = true → k.clrDec = false ∧
      k.clrHits = false) ∧ (s.tables.busy = true ∨ imageRefused s k.tbl k.idx ws = true)) ∧
    (∃ (s : State) (l : Nat) (c : Nat) (gd : BitVec 4) (ga : BitVec 4) (a : _) (k : CamCmd) (d : List Byte) (ws : _),
      a = ((gv s l c ga).toNat) ∧ ws = (packWords (memBytes s (aEngMem l + k.image) (tblEntry k.tbl))) ∧ (∀ w, eccOf s w = 0) ∧
      (k.inactive = true → k.clrDec = false ∧ k.clrHits = false) ∧ (eng s l).gate = [] ∧ a % 4 = 0 ∧ inDmem a 8 = true ∧
      d = memBytes s (aEngMem l + a) 8 ∧ camCmd d = some k ∧ k.image % 4 = 0 ∧ Fetches l c (encFX 0x20 gd ga 0 1 0) s ∧
      inDmem k.image (tblEntry k.tbl) = true ∧ s.tables.busy = false ∧ imageRefused s k.tbl k.idx ws = false ∧ k.inactive = false) ∧
    (∃ (s : State) (l : Nat) (c : Nat) (gd : BitVec 4) (ga : BitVec 4) (a : _) (k : CamCmd) (d : List Byte) (ws : _),
      a = ((gv s l c ga).toNat) ∧ ws = (packWords (memBytes s (aEngMem l + k.image) (tblEntry k.tbl))) ∧ (∀ w, eccOf s w = 0) ∧
      (eng s l).gate = [] ∧ a % 4 = 0 ∧ inDmem a 8 = true ∧ d = memBytes s (aEngMem l + a) 8 ∧ camCmd d = some k ∧ k.image % 4 = 0 ∧
      Fetches l c (encFX 0x20 gd ga 0 1 0) s ∧ inDmem k.image (tblEntry k.tbl) = true ∧ (k.inactive = true → k.clrDec = false ∧
      k.clrHits = false) ∧ s.tables.busy = false ∧ imageRefused s k.tbl k.idx ws = false ∧ k.inactive = true) ∧
    (∃ (s : State) (l : Nat) (c : Nat) (gd : BitVec 4) (ga : BitVec 4) (a : _) (k : CamCmd) (d : List Byte), a = ((gv s l c ga).toNat) ∧
      (∀ w, eccOf s w = 0) ∧ (eng s l).gate = [] ∧ a % 4 = 0 ∧ inDmem a 8 = true ∧ d = memBytes s (aEngMem l + a) 8 ∧ camCmd d = some k ∧
      k.image % 4 = 0 ∧ Fetches l c (encFX 0x20 gd ga 0 2 0) s ∧ k.tbl = 0 ∧ inDmem k.image 8 = true) :=
  ⟨⟨posts 8 (setEng (fz (encFX 0x1F 15 14 0 4 0) [] up) 15 { eng (fz (encFX 0x1F 15 14 0 4 0) [] up) 15 with gate := List.replicate 16 gateFab }),
    15, 7, 15, 14, gateFab, List.replicate 15 gateFab, fun _ => rfl, by decide +kernel⟩,
   ⟨fz (encFX 0x1F 15 14 0 1 0) [(14, 32768)] up, 15, 7, 15, 14, _, rfl, fun _ => rfl, by decide +kernel⟩,
   ⟨fz (encFX 0x1F 15 14 0 2 0) [(14, 32768)] up, 15, 7, 15, 14, _, rfl, fun _ => rfl, by decide +kernel⟩,
   ⟨fz (encFX 0x1F 15 14 0 3 0) [(14, 32768)] up, 15, 7, 15, 14, _, rfl, fun _ => rfl, by decide +kernel⟩,
   ⟨fz (encFX 0x1F 15 14 0 0 0) [] up, 15, 7, 15, 14, (poolFirst up).getD 0, fun _ => rfl, by decide +kernel⟩,
   ⟨fz (encFX 0x1F 15 14 1 0 0) [] up, 15, 7, 15, 14, (poolPair up).getD 0, fun _ => rfl, by decide +kernel⟩,
   ⟨rg (aSw 0x08) 0x8000 (fz (encFX 0x1F 15 14 1 0 0) [] up), 15, 7, 15, 14, true, fun _ => rfl, by decide +kernel⟩,
   ⟨{ fz (encFX 0x1F 15 14 0 1 1) [(14, 32766)] up with cells := [(32766, .filling 287 1), (32767, .filling 287 1)] }, 15, 7, 15, 14, _,
     true, rfl, fun _ => rfl, by decide +kernel⟩,
   ⟨{ fz (encFX 0x1F 15 14 0 1 1) [(14, 32766)] up with cells := [(32766, .filling 287 1)] }, 15, 7, 15, 14, _, true, rfl, fun _ => rfl,
     by decide +kernel⟩,
   ⟨fz (encFX 0x1F 15 14 0 2 0) [(14, 32767)] up, 15, 7, 15, 14, _, rfl, fun _ => rfl, by decide +kernel⟩,
   ⟨{ fz (encFX 0x1F 15 14 0 3 0) [(14, 32767)] up with cells := [(32767, .filling 287 1)] }, 15, 7, 15, 14, _, rfl, fun _ => rfl,
     by decide +kernel⟩,
   ⟨fz (encFX 0x1F 15 14 0 3 0) [(14, 32767)] up, 15, 7, 15, 14, _, rfl, fun _ => rfl, by decide +kernel⟩,
   ⟨fz (encFX 0x1F 15 14 0 4 0) [] up, 15, 7, 15, 14, fun _ => rfl, by decide +kernel⟩,
   ⟨mw (aEngMem 15 + 0x1FFF8) 8 0x0000000000430FFF (fz (encFX 0x20 15 14 0 0 0) [(14, 0x1FFF8)] up), 15, 7, 15, 14, _,
     memBytes (mw (aEngMem 15 + 0x1FFF8) 8 0x0000000000430FFF (fz (encFX 0x20 15 14 0 0 0) [(14, 0x1FFF8)] up)) (aEngMem 15 + 0x1FFF8) 8,
     rfl, fun _ => rfl, by decide +kernel⟩,
   ⟨mw (aEngMem 15 + 0x1FFF8) 8 0x0000000000430FFF (fz (encFX 0x20 15 14 0 1 0) [(14, 0x1FFF8)] up), 15, 7, 15, 14, _,
     memBytes (mw (aEngMem 15 + 0x1FFF8) 8 0x0000000000430FFF (fz (encFX 0x20 15 14 0 1 0) [(14, 0x1FFF8)] up)) (aEngMem 15 + 0x1FFF8) 8,
     rfl, fun _ => rfl, by decide +kernel⟩,
   ⟨mw (aEngMem 15 + 0x1FFF8) 8 0x0000000000430FFF (fz (encFX 0x20 15 14 0 2 0) [(14, 0x1FFF8)] up), 15, 7, 15, 14, _,
     memBytes (mw (aEngMem 15 + 0x1FFF8) 8 0x0000000000430FFF (fz (encFX 0x20 15 14 0 2 0) [(14, 0x1FFF8)] up)) (aEngMem 15 + 0x1FFF8) 8,
     rfl, fun _ => rfl, by decide +kernel⟩,
   ⟨mw (aEngMem 15 + 0x1FFF8) 8 0x0000000000400FFF (fz (encFX 0x20 15 14 0 0 0) [(14, 0x1FFF8)] up), 15, 7, 15, 14, _,
     { tbl := 0, idx := 4095, inactive := true, clrDec := false, clrHits := false, image := 0x10000 },
     memBytes (mw (aEngMem 15 + 0x1FFF8) 8 0x0000000000400FFF (fz (encFX 0x20 15 14 0 0 0) [(14, 0x1FFF8)] up)) (aEngMem 15 + 0x1FFF8) 8,
     rfl, fun _ => rfl, by decide +kernel⟩,
   ⟨mw (aEngMem 15 + 0x1FFF8) 8 0x0000000000600FFF (fz (encFX 0x20 15 14 0 1 0) [(14, 0x1FFF8)] up), 15, 7, 15, 14, _,
     { tbl := 0, idx := 4095, inactive := true, clrDec := true, clrHits := false, image := 0x10000 },
     memBytes (mw (aEngMem 15 + 0x1FFF8) 8 0x0000000000600FFF (fz (encFX 0x20 15 14 0 1 0) [(14, 0x1FFF8)] up)) (aEngMem 15 + 0x1FFF8) 8,
     rfl, fun _ => rfl, by decide +kernel⟩,
   ⟨{ mw (aEngMem 15 + 0x1FFF8) 8 0x0000000000400FFF (fz (encFX 0x20 15 14 0 1 0) [(14, 0x1FFF8)] up) with tables := { busy := true } }, 15,
     7, 15, 14, _, { tbl := 0, idx := 4095, inactive := true, clrDec := false, clrHits := false, image := 0x10000 },
     memBytes ({ mw (aEngMem 15 + 0x1FFF8) 8 0x0000000000400FFF (fz (encFX 0x20 15 14 0 1 0) [(14, 0x1FFF8)] up) with tables := { busy := true } }) (aEngMem 15 + 0x1FFF8) 8,
     _, rfl, rfl, fun _ => rfl, by decide +kernel⟩,
   ⟨mw (aEngMem 15 + 0x1FFF8) 8 0x0000000000300FFF (fz (encFX 0x20 15 14 0 1 0) [(14, 0x1FFF8)] up), 15, 7, 15, 14, _,
     { tbl := 0, idx := 4095, inactive := false, clrDec := true, clrHits := true, image := 0x10000 },
     memBytes (mw (aEngMem 15 + 0x1FFF8) 8 0x0000000000300FFF (fz (encFX 0x20 15 14 0 1 0) [(14, 0x1FFF8)] up)) (aEngMem 15 + 0x1FFF8) 8, _,
     rfl, rfl, fun _ => rfl, fun h => absurd h (by decide), by decide +kernel⟩,
   ⟨mw (aEngMem 15 + 0x1FFF8) 8 0x0000000000400FFF (fz (encFX 0x20 15 14 0 1 0) [(14, 0x1FFF8)] up), 15, 7, 15, 14, _,
     { tbl := 0, idx := 4095, inactive := true, clrDec := false, clrHits := false, image := 0x10000 },
     memBytes (mw (aEngMem 15 + 0x1FFF8) 8 0x0000000000400FFF (fz (encFX 0x20 15 14 0 1 0) [(14, 0x1FFF8)] up)) (aEngMem 15 + 0x1FFF8) 8, _,
     rfl, rfl, fun _ => rfl, by decide +kernel⟩,
   ⟨mw (aEngMem 15 + 0x1FFF8) 8 0x0000000000400FFF (fz (encFX 0x20 15 14 0 2 0) [(14, 0x1FFF8)] up), 15, 7, 15, 14, _,
     { tbl := 0, idx := 4095, inactive := true, clrDec := false, clrHits := false, image := 0x10000 },
     memBytes (mw (aEngMem 15 + 0x1FFF8) 8 0x0000000000400FFF (fz (encFX 0x20 15 14 0 2 0) [(14, 0x1FFF8)] up)) (aEngMem 15 + 0x1FFF8) 8,
     rfl, fun _ => rfl, by decide +kernel⟩⟩

/-- Every clause of Obligations.FabricInstructions has a state and operands that meet its hypotheses. -/
theorem test_fabricInstructions_clauses :
    (∃ (s : State) (l : Nat) (c : Nat) (gd : BitVec 4) (ga : BitVec 4) (n : Nat) (o : Nat), isPair ga = true ∧ (eng s l).gate = [] ∧
      fabAddr s l c ga = some (n, o) ∧ o % 4 = 0 ∧ Fetches l c (encFX 0x21 gd ga 0 0 0) s ∧ (n = 0 ∨ n = s.nodeId) ∧ n ≠ 0xFFF) ∧
    (∃ (s : State) (l : Nat) (c : Nat) (gd : BitVec 4) (ga : BitVec 4) (n : Nat) (o : Nat), isPair ga = true ∧ (eng s l).gate = [] ∧
      fabAddr s l c ga = some (n, o) ∧ o % 4 = 0 ∧ Fetches l c (encFX 0x21 gd ga 0 0 0) s ∧ n ≠ 0 ∧ n ≠ s.nodeId ∧ n ≠ 0xFFF ∧
      originates s = false) ∧
    (∃ (s : State) (l : Nat) (c : Nat) (gd : BitVec 4) (ga : BitVec 4) (n : Nat) (o : Nat), isPair ga = true ∧ (eng s l).gate = [] ∧
      fabAddr s l c ga = some (n, o) ∧ o % 4 = 0 ∧ Fetches l c (encFX 0x21 gd ga 0 0 0) s ∧ n ≠ 0 ∧ n ≠ s.nodeId ∧ n ≠ 0xFFF ∧
      originates s = true) ∧
    (∃ (s : State) (l : Nat) (c : Nat) (gd : BitVec 4) (ga : BitVec 4) (n : Nat) (o : Nat), isPair ga = true ∧ (eng s l).gate = [] ∧
      fabAddr s l c ga = some (n, o) ∧ o % 4 = 0 ∧ Fetches l c (encFX 0x21 gd ga 0 0 0) s ∧ n = 0xFFF ∧ l < 16) ∧
    (∃ (s : State) (l : Nat) (c : Nat) (gd : BitVec 4) (ga : BitVec 4) (n : Nat) (o : Nat), isPair ga = true ∧ (eng s l).gate = [] ∧
      fabAddr s l c ga = some (n, o) ∧ o % 4 = 0 ∧ Fetches l c (encFX 0x21 gd ga 0 1 0) s ∧ (n = 0 ∨ n = s.nodeId) ∧ n ≠ 0xFFF) ∧
    (∃ (s : State) (l : Nat) (c : Nat) (gd : BitVec 4) (ga : BitVec 4) (n : Nat) (o : Nat), isPair ga = true ∧ (eng s l).gate = [] ∧
      fabAddr s l c ga = some (n, o) ∧ o % 4 = 0 ∧ Fetches l c (encFX 0x21 gd ga 0 1 0) s ∧ n ≠ 0 ∧ n ≠ s.nodeId ∧ n ≠ 0xFFF ∧
      originates s = false) ∧
    (∃ (s : State) (l : Nat) (c : Nat) (gd : BitVec 4) (ga : BitVec 4) (n : Nat) (o : Nat), isPair ga = true ∧ (eng s l).gate = [] ∧
      fabAddr s l c ga = some (n, o) ∧ o % 4 = 0 ∧ Fetches l c (encFX 0x21 gd ga 0 1 0) s ∧ n = 0xFFF ∧ l < 16) ∧
    (∃ (s : State) (l : Nat) (c : Nat) (gd : BitVec 4) (ga : BitVec 4) (n : Nat) (o : Nat), isPair ga = true ∧ (eng s l).gate = [] ∧
      fabAddr s l c ga = some (n, o) ∧ o % 4 = 0 ∧ Fetches l c (encFX 0x21 gd ga 0 1 0) s ∧ n ≠ 0 ∧ n ≠ s.nodeId ∧ n ≠ 0xFFF ∧
      originates s = true) ∧
    (∃ (s : State) (l : Nat) (c : Nat) (gd : BitVec 4) (ga : BitVec 4) (n : Nat) (o : Nat), isPair ga = true ∧ (eng s l).gate = [] ∧
      fabAddr s l c ga = some (n, o) ∧ o % 4 = 0 ∧ Fetches l c (encFX 0x21 gd ga 0 1 1) s ∧ n ≠ 0 ∧ n ≠ s.nodeId ∧ originates s = true ∧
      8 ≤ engSlots s l) ∧
    (∃ (s : State) (l : Nat) (c : Nat) (gd : BitVec 4) (ga : BitVec 4) (n : Nat) (o : Nat), isPair ga = true ∧ (eng s l).gate = [] ∧
      fabAddr s l c ga = some (n, o) ∧ o % 4 = 0 ∧ Fetches l c (encFX 0x21 gd ga 0 1 1) s ∧ n ≠ 0 ∧ n ≠ s.nodeId ∧ n ≠ 0xFFF ∧
      (originates s = true → engSlots s l < 8)) ∧
    (∃ (s : State) (l : Nat) (c : Nat) (gd : BitVec 4) (ga : BitVec 4) (n : Nat) (o : Nat) (d : List Byte), isPair ga = true ∧
      (eng s l).gate = [] ∧ fabAddr s l c ga = some (n, o) ∧ o % 4 = 0 ∧ Fetches l c (encFX 0x21 gd ga 0 2 0) s ∧ (∀ w, eccOf s w = 0) ∧
      (gv s l c ga).toNat % 4 = 0 ∧ inDmem (gv s l c ga).toNat 16 = true ∧ d = memBytes s (aEngMem l + (gv s l c ga).toNat) 16 ∧
      1 ≤ dNat d 10 2 ∧ dNat d 10 2 ≤ 256 ∧ dNat d 0 6 % 256 + dNat d 10 2 ≤ 256 ∧ dByte d 12 = 0 ∧ dNat d 6 2 = 0 ∧ dNat d 13 3 = 0 ∧
      inDmem (0x10000 + dNat d 8 2) (dNat d 10 2) = true ∧ dNat d 0 6 / 2 ^ 36 ≠ 0 ∧ dNat d 0 6 / 2 ^ 36 ≠ s.nodeId ∧
      dNat d 0 6 / 2 ^ 36 ≠ 0xFFF ∧ originates s = true) ∧
    (∃ (s : State) (l : Nat) (c : Nat) (gd : BitVec 4) (ga : BitVec 4) (n : Nat) (o : Nat), isPair ga = true ∧ (eng s l).gate = [] ∧
      fabAddr s l c ga = some (n, o) ∧ o % 4 = 0 ∧ Fetches l c (encFX 0x21 gd ga 0 3 0) s) :=
  ⟨⟨fz (encFX 0x21 15 14 0 0 0) [(14, 0xFFFFFFFC), (15, 0xF)] up, 15, 7, 15, 14, 0, 0xFFFFFFFFC, by decide +kernel⟩,
   ⟨fz (encFX 0x21 15 14 0 0 0) [(14, 0xFFFFFFFC), (15, 0xFFEF)] (node .halter), 15, 7, 15, 14, 0xFFE, 0xFFFFFFFFC, by decide +kernel⟩,
   ⟨fz (encFX 0x21 15 14 0 0 0) [(14, 0xFFFFFFFC), (15, 0xFFEF)] up, 15, 7, 15, 14, 0xFFE, 0xFFFFFFFFC, by decide +kernel⟩,
   ⟨fz (encFX 0x21 15 14 0 0 0) [(14, 0xFFFFFFFC), (15, 0xFFFF)] up, 15, 7, 15, 14, 0xFFF, 0xFFFFFFFFC, by decide +kernel⟩,
   ⟨fz (encFX 0x21 13 14 0 1 0) [(14, 0xFFFFFFFC), (15, 0x5F)] up, 15, 7, 13, 14, 5, 0xFFFFFFFFC, by decide +kernel⟩,
   ⟨fz (encFX 0x21 13 14 0 1 0) [(14, 0xFFFFFFFC), (15, 0xFFEF)] (node .halter), 15, 7, 13, 14, 0xFFE, 0xFFFFFFFFC, by decide +kernel⟩,
   ⟨fz (encFX 0x21 13 14 0 1 0) [(14, 0xFFFFFFFC), (15, 0xFFFF)] up, 15, 7, 13, 14, 0xFFF, 0xFFFFFFFFC, by decide +kernel⟩,
   ⟨fz (encFX 0x21 13 14 0 1 0) [(14, 0xFFFFFFFC), (15, 0xFFEF)] up, 15, 7, 13, 14, 0xFFE, 0xFFFFFFFFC, by decide +kernel⟩,
   ⟨posts 8 (fz (encFX 0x21 13 14 0 1 1) [(14, 0xFFFFFFFC), (15, 0xFFEF)] up), 15, 7, 13, 14, 0xFFE, 0xFFFFFFFFC, by decide +kernel⟩,
   ⟨fz (encFX 0x21 13 14 0 1 1) [(14, 0xFFFFFFFC), (15, 0xFFEF)] up, 15, 7, 13, 14, 0xFFE, 0xFFFFFFFFC, by decide +kernel⟩,
   ⟨mw (aEngMem 15 + 0x1FFF0) 16 0x00000000010000000000001000000000 (fz (encFX 0x21 13 14 0 2 0) [(14, 0x1FFF0)] up), 15, 7, 13, 14, 0,
     0x1FFF0, memBytes (mw (aEngMem 15 + 0x1FFF0) 16 0x00000000010000000000001000000000 (fz (encFX 0x21 13 14 0 2 0) [(14,
     0x1FFF0)] up)) (aEngMem 15 + 0x1FFF0) 16, by decide +kernel, by decide +kernel, by decide +kernel, by decide +kernel,
     by decide +kernel, fun _ => rfl, by decide +kernel⟩,
   ⟨fz (encFX 0x21 13 14 0 3 0) [] up, 15, 7, 13, 14, 0, 0, by decide +kernel⟩⟩

/-- Every clause of Obligations.HostAccesses has a state and operands that meet its hypotheses. -/
theorem test_hostAccesses_clauses :
    (∃ (s : State) (a : Word) (ph : List HostPhase) (full : Bool) (k : _),
      k = (hostKind s (accessOf a 0 ph) ((Instr.hostOwnAccess a 0 false ph full, false, HostKind.own) : Instr × Bool × HostKind).2.1) ∧
      k = .dead) ∧
    (∃ (s : State) (a : Word) (ph : List HostPhase) (full : Bool) (k : _),
      k = (hostKind s (accessOf a 0 ph) ((Instr.hostOwnAccess a 0 false ph full, false, HostKind.own) : Instr × Bool × HostKind).2.1) ∧
      k = .asleep) ∧
    (∃ (s : State) (a : Word) (ph : List HostPhase) (full : Bool) (k : _),
      k = (hostKind s (accessOf a 0 ph) ((Instr.hostOwnAccess a 0 false ph full, false, HostKind.own) : Instr × Bool × HostKind).2.1) ∧
      k = .fault) ∧
    (∃ (s : State) (a : Word) (ph : List HostPhase) (full : Bool) (k : _),
      k = (hostKind s (accessOf a 0 ph) ((Instr.hostOwnAccess a 0 false ph full, false, HostKind.own) : Instr × Bool × HostKind).2.1) ∧
      k = ((Instr.hostOwnAccess a 0 false ph full, false, HostKind.own) : Instr × Bool × HostKind).2.2 ∧ full = true) ∧
    (∃ (s : State) (a : Word) (x : _) (off : Nat), x = (accessOf a 0 []) ∧ hostKind s x false = .own ∧ wordAt s x.a = .own off ∧
      off ≠ 0x00030014) ∧
    (∃ (s : State) (a : Word) (x : _) (off : Nat) (be : BitVec 4) (v : Word) (u : State), x = (accessOf a 0 []) ∧
      hostKind s x true = .own ∧ wordAt s x.a = .own off ∧ busWrite (s.nodeId, 288) off v be s = some u ∧ originates u = false) ∧
    (∃ (s : State) (a : Word) (x : _) (off : Nat) (be : BitVec 4) (v : Word) (u : State), x = (accessOf a 0 []) ∧
      hostKind s x true = .own ∧ wordAt s x.a = .own off ∧ busWrite (s.nodeId, 288) off v be s = some u ∧ originates u = true) ∧
    (∃ (s : State) (a : Word) (x : _) (off : Nat) (be : BitVec 4) (v : Word), x = (accessOf a 0 []) ∧ hostKind s x true = .own ∧
      wordAt s x.a = .own off ∧ busWrite (s.nodeId, 288) off v be s = none ∧ originates s = false) ∧
    (∃ (s : State) (a : Word) (x : _) (off : Nat) (be : BitVec 4) (v : Word), x = (accessOf a 0 []) ∧ hostKind s x true = .own ∧
      wordAt s x.a = .own off ∧ busWrite (s.nodeId, 288) off v be s = none ∧ originates s = true) ∧
    (∃ (s : State) (a : Word) (x : _) (w : Nat) (fab : Nat) (t : Nat), x = (accessOf a 0 []) ∧ hostKind s x false = .first ∧
      wordAt s x.a = .remote w fab ∧ originates s = true ∧ fab / 2 ^ 36 ≠ 0xFFF ∧ heldAll s x w = none ∧ t < 64 ∧ t ≠ 0 ∧
      tagGet s t = none ∧ (∀ j < t, j ≠ 0 → tagGet s j ≠ none)) ∧
    (∃ (s : State) (a : Word) (x : _) (w : Nat) (fab : Nat), x = (accessOf a 0 []) ∧ hostKind s x false = .first ∧
      wordAt s x.a = .remote w fab ∧ fab / 2 ^ 36 = 0xFFF) ∧
    (∃ (s : State) (a : Word) (x : _) (w : Nat) (fab : Nat), x = (accessOf a 0 []) ∧ hostKind s x false = .first ∧
      wordAt s x.a = .remote w fab ∧ originates s = false ∧ fab / 2 ^ 36 ≠ 0xFFF) ∧
    (∃ (s : State) (a : Word) (x : _) (t : Nat) (g : Tag), x = (accessOf a 0 []) ∧ hostKind s x false = .again ∧ matchTags s x = some (t,
      none) ∧ tagGet s t = some g ∧ g.fab / 2 ^ 36 ≠ 0xFFF ∧ originates s = true ∧ g.life = .fetch) ∧
    (∃ (s : State) (a : Word) (x : _) (t : Nat) (g : Tag), x = (accessOf a 0 []) ∧ hostKind s x false = .again ∧ matchTags s x = some (t,
      none) ∧ tagGet s t = some g ∧ g.fab / 2 ^ 36 ≠ 0xFFF ∧ originates s = true ∧ g.life = .ready ∧ g.fail = false ∧ g.bytes = 4 ∧
      g.ahead = 0) ∧
    (∃ (s : State) (a : Word) (x : _) (t : Nat) (g : Tag), x = (accessOf a 0 []) ∧ hostKind s x false = .again ∧ matchTags s x = some (t,
      none) ∧ tagGet s t = some g ∧ g.fab / 2 ^ 36 ≠ 0xFFF ∧ originates s = true ∧ g.life = .ready ∧ g.fail = true) ∧
    (∃ (s : State) (a : Word) (x : _) (t : Nat) (g : Tag), x = (accessOf a 0 []) ∧ hostKind s x false = .again ∧ matchTags s x = some (t,
      none) ∧ tagGet s t = some g ∧ g.fab / 2 ^ 36 ≠ 0xFFF ∧ originates s = false) ∧
    (∃ (s : State) (a : Word) (x : _) (w : Nat) (fab : Nat) (i : Nat), x = (accessOf a 0 []) ∧ wordAt s x.a = .remote w fab ∧
      fab % 4 = 0 ∧ fab / 2 ^ 36 ≠ 0xFFF ∧ (∀ e ∈ s.fab.tags, e.2.map (·.life) ≠ some .held) ∧ originates s = true ∧
      hostKind s x true = .posted ∧ flag s (aWin w 0x0C) 8 = false ∧ 2 ≤ (slotsFree s).length ∧ (slotsFree s).head? = some i) ∧
    (∃ (s : State) (a : Word) (x : _) (w : Nat) (fab : Nat), x = (accessOf a 0 []) ∧ wordAt s x.a = .remote w fab ∧ fab % 4 = 0 ∧
      fab / 2 ^ 36 ≠ 0xFFF ∧ (∀ e ∈ s.fab.tags, e.2.map (·.life) ≠ some .held) ∧ originates s = true ∧ hostKind s x true = .posted ∧
      flag s (aWin w 0x0C) 8 = false ∧ (slotsFree s).length < 2) ∧
    (∃ (s : State) (a : Word) (x : _) (w : Nat) (fab : Nat), x = (accessOf a 0 []) ∧ wordAt s x.a = .remote w fab ∧ fab % 4 = 0 ∧
      fab / 2 ^ 36 ≠ 0xFFF ∧ (∀ e ∈ s.fab.tags, e.2.map (·.life) ≠ some .held) ∧ originates s = false ∧ hostKind s x true = .posted ∧
      flag s (aWin w 0x0C) 8 = false) ∧
    (∃ (s : State) (a : Word) (x : _) (w : Nat) (fab : Nat), x = (accessOf a 0 []) ∧ wordAt s x.a = .remote w fab ∧ fab % 4 = 0 ∧
      fab / 2 ^ 36 ≠ 0xFFF ∧ (∀ e ∈ s.fab.tags, e.2.map (·.life) ≠ some .held) ∧ originates s = true ∧ hostKind s x true = .nonposted) ∧
    (∃ (s : State) (a : Word) (x : _) (w : Nat) (fab : Nat), x = (accessOf a 0 []) ∧ wordAt s x.a = .remote w fab ∧ fab % 4 = 0 ∧
      fab / 2 ^ 36 ≠ 0xFFF ∧ (∀ e ∈ s.fab.tags, e.2.map (·.life) ≠ some .held) ∧ originates s = false ∧ hostKind s x true = .nonposted) ∧
    (∃ (s : State) (full : Bool), s.power.phase ≠ .off ∧ s.power.vhb ≠ 0 ∧ s.fab.np = none ∧ (s.power.phase = .stabled ∨ full = true)) ∧
    (∃ (s : State), s.power.phase ≠ .off ∧ s.power.vhb ≠ 0 ∧ s.fab.np = none ∧ s.power.phase ≠ .stabled ∧ (∀ t ∈ s.fab.trans,
      isSlot t.owner = false)) ∧
    (∃ (s : State), s.power.phase ≠ .off ∧ s.power.vhb ≠ 0 ∧ s.fab.np = none ∧ s.power.phase ≠ .stabled ∧ s.fab.fenceOpen = false ∧
      (∃ t ∈ incomplete s, isSlot t.owner = true)) :=
  ⟨⟨node .off, 0xFFFFFFFC, [], true, _, rfl, by decide +kernel⟩,
   ⟨node .stabled, 0xFFFFFFFC, [], true, _, rfl, by decide +kernel⟩,
   ⟨wi 0x80000000 0 up, 0x80000000, [], true, _, rfl, by decide +kernel⟩,
   ⟨wi 0x80000000 0 up, 0xFFFFFFFC, [], true, _, rfl, by decide +kernel⟩,
   ⟨wi 0x80000000 0 up, 0xFFFFFFFC, _, 0xFFFC, rfl, by decide +kernel⟩,
   ⟨wi 0x80000000 0x01000000 (node .halter), 0xFFFFFFFC, _, 0x0100FFFC, 15, 0, wi 0x80000000 0x01000000 (node .halter), rfl,
     by decide +kernel⟩,
   ⟨wi 0x80000000 0 up, 0xFFFFFFFC, _, 0xFFFC, 15, 7, wi 0x80000000 0 up, rfl, by decide +kernel⟩,
   ⟨wi 0x80000000 0x0F000000 (node .halter), 0xFFFFFFFC, _, 0x0F00FFFC, 15, 7, rfl, by decide +kernel⟩,
   ⟨wi 0x80000000 0x0F000000 up, 0xFFFFFFFC, _, 0x0F00FFFC, 15, 7, rfl, by decide +kernel⟩,
   ⟨wi 0x80000000 (2 ^ 36) up, 0xFFFFFFFC, _, 7, 2 ^ 36 + 0xFFFC, 1, rfl, by decide +kernel⟩,
   ⟨wi 0x80000000 (0xFFF * 2 ^ 36) up, 0xFFFFFFFC, _, 7, 0xFFF * 2 ^ 36 + 0xFFFC, rfl, by decide +kernel⟩,
   ⟨wi 0x80000000 (2 ^ 36) (node .halter), 0xFFFFFFFC, _, 7, 2 ^ 36 + 0xFFFC, rfl, by decide +kernel⟩,
   ⟨fb (fun f => { f with tags := [(63, some (tag0 .fetch))] }) (wi 0x80000000 (2 ^ 36) up), 0xFFFFFFFC, _, 63, tag0 .fetch, rfl,
     by decide +kernel⟩,
   ⟨fb (fun f => { f with tags := [(63, some (tag0 .ready))] }) (wi 0x80000000 (2 ^ 36) up), 0xFFFFFFFC, _, 63, tag0 .ready, rfl,
     by decide +kernel⟩,
   ⟨fb (fun f => { f with tags := [(63, some { tag0 .ready with fail := true })] }) (wi 0x80000000 (2 ^ 36) up), 0xFFFFFFFC, _, 63,
     { tag0 .ready with fail := true }, rfl, by decide +kernel⟩,
   ⟨fb (fun f => { f with tags := [(63, some (tag0 .ready))] }) (wi 0x80000000 (2 ^ 36) (node .halter)), 0xFFFFFFFC, _, 63, tag0 .ready,
     rfl, by decide +kernel⟩,
   ⟨wi 0x80000000 (2 ^ 36) up, 0xFFFFFFFC, _, 7, 2 ^ 36 + 0xFFFC, 0, rfl, by decide +kernel⟩,
   ⟨fb (fun f => { f with trans := (List.range 63).map (fun i => { trSlot with owner := .slot i }) }) (wi 0x80000000 (2 ^ 36) up),
     0xFFFFFFFC, _, 7, 2 ^ 36 + 0xFFFC, rfl, by decide +kernel⟩,
   ⟨wi 0x80000000 (2 ^ 36) (node .halter), 0xFFFFFFFC, _, 7, 2 ^ 36 + 0xFFFC, rfl, by decide +kernel⟩,
   ⟨wi 0x80000100 (2 ^ 36) up, 0xFFFFFFFC, _, 7, 2 ^ 36 + 0xFFFC, rfl, by decide +kernel⟩,
   ⟨wi 0x80000100 (2 ^ 36) (node .halter), 0xFFFFFFFC, _, 7, 2 ^ 36 + 0xFFFC, rfl, by decide +kernel⟩,
   ⟨wi 0x80000000 0 up, true, by decide +kernel⟩,
   ⟨wi 0x80000000 0 up, by decide +kernel⟩,
   ⟨fb (fun f => { f with trans := [trSlot] }) (wi 0x80000000 (2 ^ 36) up), by decide +kernel⟩⟩

/-- Every clause of Obligations.Transactions has a state and operands that meet its hypotheses. -/
theorem test_transactions_clauses :
    (∃ (s : State) (w : BitVec 3) (v : Word) (size : _) (hb : _) (fb : _), size = (2 ^ (16 + bits v 3 0)) ∧
      hb = ((getReg s (aWin w.toNat 0)).toNat) ∧ fb = (fld s (aWin w.toNat 8) 15 0 * 2 ^ 32 + (getReg s (aWin w.toNat 4)).toNat) ∧
      awake s = true ∧ bits v 3 0 ≠ 15 ∧ bits v 11 10 ≠ 3 ∧ (∀ e ∈ s.fab.tags, e.2.map (·.win) ≠ some w.toNat) ∧ hb % size = 0 ∧
      fb % size = 0) ∧
    (∃ (s : State) (w : BitVec 3) (v : Word) (size : _) (hb : _) (fb : _), size = (2 ^ (16 + bits v 3 0)) ∧
      hb = ((getReg s (aWin w.toNat 0)).toNat) ∧ fb = (fld s (aWin w.toNat 8) 15 0 * 2 ^ 32 + (getReg s (aWin w.toNat 4)).toNat) ∧
      awake s = true ∧ (bits v 3 0 = 15 ∨ bits v 11 10 = 3 ∨ hb % size ≠ 0 ∨ fb % size ≠ 0)) ∧
    (∃ (s : State) (tseq : BitVec 16) (x : Trans), awake s = true ∧ transBySeq s tseq.toNat = some x ∧ isPosted x.owner = false ∧
      x.retx < fld s (aHb 0x0C) 17 16) ∧
    (∃ (s : State) (tseq : BitVec 16) (x : Trans), awake s = true ∧ transBySeq s tseq.toNat = some x ∧ isPosted x.owner = false ∧
      isBridge x.owner = true ∧ fld s (aHb 0x0C) 17 16 ≤ x.retx) ∧
    (∃ (s : State) (tseq : BitVec 16) (x : Trans) (l : Nat) (c : Nat) (id : Nat), awake s = true ∧ transBySeq s tseq.toNat = some x ∧
      x.owner = .eng l c id ∧ fld s (aHb 0x0C) 17 16 ≤ x.retx ∧ (ctx s l c).blk.map (·.id) = some id) ∧
    (∃ (s : State) (tseq : BitVec 16) (x : Trans) (i : Nat), awake s = true ∧ transBySeq s tseq.toNat = some x ∧ x.owner = .slot i) ∧
    (∃ (s : State) (tseq : BitVec 16) (x : Trans) (l : Nat) (c : Nat) (i : Nat), awake s = true ∧ transBySeq s tseq.toNat = some x ∧
      x.owner = .engPost l c i) ∧
    (∃ (s : State) (n : NpWrite), awake s = true ∧ s.fab.np = some n) ∧
    (∃ (s : State) (n : Nat) (g : Tag), awake s = true ∧ tagGet s n = some g ∧ g.life = .held) ∧
    (∃ (s : State) (n : Nat) (g : Tag), awake s = true ∧ tagGet s n = some g ∧ g.life = .ready ∧ g.fail = false) ∧
    (∃ (s : State) (n : Nat) (g : Tag), awake s = true ∧ tagGet s n = some g ∧ g.life = .fetch) ∧
    (∃ (s : State) (e : ErrEntry) (r : List ErrEntry), awake s = true ∧ s.fab.errlog = e :: r) ∧
    (∃ (s : State) (f : Frame) (s0 : _), s0 = ({ s with fab := { s.fab with arrived := s.fab.arrived.eraseP isResponse } }) ∧
      awake s = true ∧ s.fab.arrived.find? isResponse = some f ∧ transOf s0 f = none) ∧
    (∃ (s : State) (f : Frame) (s0 : _) (st : _) (x : Trans),
      s0 = ({ s with fab := { s.fab with arrived := s.fab.arrived.eraseP isResponse } }) ∧ st = (fieldLE f.payload 14 1) ∧ awake s = true ∧
      s.fab.arrived.find? isResponse = some f ∧ transOf s0 f = some x ∧ isBridge x.owner = true ∧ st = 0) ∧
    (∃ (s : State) (f : Frame) (s0 : _) (st : _) (x : Trans) (l : Nat) (c : Nat) (i : Nat),
      s0 = ({ s with fab := { s.fab with arrived := s.fab.arrived.eraseP isResponse } }) ∧ st = (fieldLE f.payload 14 1) ∧ awake s = true ∧
      s.fab.arrived.find? isResponse = some f ∧ transOf s0 f = some x ∧ x.owner = .engPost l c i ∧ st = 0) ∧
    (∃ (s : State) (f : Frame) (s0 : _) (st : _) (x : Trans),
      s0 = ({ s with fab := { s.fab with arrived := s.fab.arrived.eraseP isResponse } }) ∧ st = (fieldLE f.payload 14 1) ∧ awake s = true ∧
      s.fab.arrived.find? isResponse = some f ∧ transOf s0 f = some x ∧ isBridge x.owner = true ∧ isSlot x.owner = false ∧ (st = 1 ∨
      st = 3)) ∧
    (∃ (s : State) (f : Frame) (s0 : _) (st : _) (x : Trans),
      s0 = ({ s with fab := { s.fab with arrived := s.fab.arrived.eraseP isResponse } }) ∧ st = (fieldLE f.payload 14 1) ∧ awake s = true ∧
      s.fab.arrived.find? isResponse = some f ∧ transOf s0 f = some x ∧ isSlot x.owner = true ∧ (st = 1 ∨ st = 3)) ∧
    (∃ (s : State) (f : Frame) (s0 : _) (st : _) (x : Trans),
      s0 = ({ s with fab := { s.fab with arrived := s.fab.arrived.eraseP isResponse } }) ∧ st = (fieldLE f.payload 14 1) ∧ awake s = true ∧
      s.fab.arrived.find? isResponse = some f ∧ transOf s0 f = some x ∧ st = 2 ∧ x.spec = false) ∧
    (∃ (s : State) (f : Frame) (s0 : _) (st : _) (x : Trans) (n : Nat) (p : Nat) (g : Tag),
      s0 = ({ s with fab := { s.fab with arrived := s.fab.arrived.eraseP isResponse } }) ∧ st = (fieldLE f.payload 14 1) ∧ awake s = true ∧
      s.fab.arrived.find? isResponse = some f ∧ transOf s0 f = some x ∧ x.owner = .tag n p ∧ st = 2 ∧ x.spec = true ∧ x.typ = 2 ∧
      tagGet s n = some g ∧ originates s = true) ∧
    (∃ (s : State) (f : Frame) (s0 : _) (st : _) (x : Trans) (l : Nat) (c : Nat) (id : Nat),
      s0 = ({ s with fab := { s.fab with arrived := s.fab.arrived.eraseP isResponse } }) ∧ st = (fieldLE f.payload 14 1) ∧ awake s = true ∧
      s.fab.arrived.find? isResponse = some f ∧ transOf s0 f = some x ∧ x.owner = .eng l c id ∧ x.typ = 2 ∧ x.dmem = none ∧
      (ctx s l c).blk.map (·.id) = some id ∧ st = 0) ∧
    (∃ (s : State) (f : Frame) (s0 : _) (st : _) (x : Trans) (l : Nat) (c : Nat) (id : Nat),
      s0 = ({ s with fab := { s.fab with arrived := s.fab.arrived.eraseP isResponse } }) ∧ st = (fieldLE f.payload 14 1) ∧ awake s = true ∧
      s.fab.arrived.find? isResponse = some f ∧ transOf s0 f = some x ∧ x.owner = .eng l c id ∧ x.typ = 2 ∧ x.dmem = none ∧
      (ctx s l c).blk.map (·.id) = some id ∧ (st = 1 ∨ st = 3)) :=
  ⟨⟨node .halter, 7, 0x8000000E, _, _, _, rfl, rfl, rfl, by decide +kernel⟩,
   ⟨node .halter, 7, 15, _, _, _, rfl, rfl, rfl, by decide +kernel⟩,
   ⟨rg (aHb 0x0C) 0x10000 (fb (fun f => { f with trans := [trEng] }) up), 0xFFFF, trEng, by decide +kernel⟩,
   ⟨rg (aHb 0x0C) 0x20000 (fb (fun f => { f with trans := [{ trNp with retx := 2 }] }) up), 0xFFFF, { trNp with retx := 2 },
     by decide +kernel⟩,
   ⟨rg (aHb 0x0C) 0 (fb (fun f => { f with trans := [trEng] }) (cx 15 7 { st := .block, blk := some { id := 3 } } (node .halter))), 0xFFFF,
     trEng, 15, 7, 3, by decide +kernel⟩,
   ⟨fb (fun f => { f with trans := [trSlot] }) (node .halter), 0xFFFF, trSlot, 63, by decide +kernel⟩,
   ⟨fb (fun f => { f with trans := [{ trEng with owner := .engPost 15 7 127 }] }) up, 0xFFFF, { trEng with owner := .engPost 15 7 127 }, 15,
     7, 127, by decide +kernel⟩,
   ⟨fb (fun f => { f with np := some { open_ := 16, win := 7, addr := 0 } }) (node .halter), { open_ := 16, win := 7, addr := 0 },
     by decide +kernel⟩,
   ⟨fb (fun f => { f with tags := [(63, some (tag0 .held))] }) (node .halter), 63, tag0 .held, by decide +kernel⟩,
   ⟨fb (fun f => { f with tags := [(63, some (tag0 .ready))] }) (wi 0x80000000 (2 ^ 36) up), 63, tag0 .ready, by decide +kernel⟩,
   ⟨fb (fun f => { f with tags := [(63, some (tag0 .fetch))] }) (wi 0x80000000 (2 ^ 36) up), 63, tag0 .fetch, by decide +kernel⟩,
   ⟨fb (fun f => { f with errlog := [{ addr := 0, ft := 0, desc := 0 }] }) up, { addr := 0, ft := 0, desc := 0 }, [], by decide +kernel⟩,
   ⟨fb (fun f => { f with arrived := [rsp 0] }) up, rsp 0, _, rfl, by decide +kernel⟩,
   ⟨fb (fun f => { f with trans := [trSlot], arrived := [rspTo trSlot 0] }) up, rspTo trSlot 0, _, _, trSlot, rfl, rfl, by decide +kernel⟩,
   ⟨fb (fun f => { f with trans := [{ trEng with owner := .engPost 15 7 127 }], arrived := [rspTo { trEng with owner := .engPost 15 7 127 } 0] }) up,
     rspTo { trEng with owner := .engPost 15 7 127 } 0, _, _, { trEng with owner := .engPost 15 7 127 }, 15, 7, 127, rfl, rfl,
     by decide +kernel⟩,
   ⟨fb (fun f => { f with trans := [trNp], arrived := [rspTo trNp 3] }) up, rspTo trNp 3, _, _, trNp, rfl, rfl, by decide +kernel⟩,
   ⟨fb (fun f => { f with trans := [trSlot], arrived := [rspTo trSlot 1] }) up, rspTo trSlot 1, _, _, trSlot, rfl, rfl, by decide +kernel⟩,
   ⟨fb (fun f => { f with trans := [trSlot], arrived := [rspTo trSlot 2] }) up, rspTo trSlot 2, _, _, trSlot, rfl, rfl, by decide +kernel⟩,
   ⟨fb (fun f => { f with tags := [(63, some (tag0 .fetch))], trans := [{ trSlot with owner := .tag 63 1, typ := 2, spec := true }], arrived := [rspTo { trSlot with owner := .tag 63 1 } 2] }) up,
     rspTo { trSlot with owner := .tag 63 1 } 2, _, _, { trSlot with owner := .tag 63 1, typ := 2, spec := true }, 63, 1, tag0 .fetch, rfl,
     rfl, by decide +kernel⟩,
   ⟨fb (fun f => { f with trans := [trEng], arrived := [{ typ := 3, dest := 5, src := 1, payload := txHdr 0 4 (itagOf trEng.owner) 0xFFFF 0 0 ++ [1, 2, 3, 4] }] }) (cx 15 7 { st := .block, blk := some { id := 3 } } (node .halter)),
     { typ := 3, dest := 5, src := 1, payload := txHdr 0 4 (itagOf trEng.owner) 0xFFFF 0 0 ++ [1, 2, 3, 4] }, _, _, trEng, 15, 7, 3, rfl,
     rfl, by decide +kernel⟩,
   ⟨fb (fun f => { f with trans := [trEng], arrived := [rsp 1] }) (cx 15 7 { st := .block, blk := some { id := 3 } } up), rsp 1, _, _,
     trEng, 15, 7, 3, rfl, rfl, by decide +kernel⟩⟩

/-- Every clause of Obligations.TargetRequests has a state and operands that meet its hypotheses. -/
theorem test_targetRequests_clauses :
    (∃ (s : State) (f : Frame), awake s = true ∧ s.fab.arrived.find? isRequest = some f ∧ executes s f = true ∧ s.fab.target.length < 32) ∧
    (∃ (s : State) (f : Frame), awake s = true ∧ s.fab.arrived.find? isRequest = some f ∧ executes s f = true ∧ 32 ≤ s.fab.target.length) ∧
    (∃ (s : State) (f : Frame), awake s = true ∧ s.fab.arrived.find? isRequest = some f ∧ executes s f = false) ∧
    (∃ (s : State) (f : Frame) (r : List Frame) (k : ReplayKey) (at_ : Nat) (ans : Frame), awake s = true ∧ s.fab.target = f :: r ∧
      f.dest ≠ 0xFFF ∧ originates s = true ∧ s.fab.cache.find? (fun e => decide (e.1 = rqKey f)) = some (k, at_, ans)) ∧
    (∃ (s : State) (f : Frame) (r : List Frame), awake s = true ∧ s.fab.target = f :: r ∧ f.dest ≠ 0xFFF ∧ originates s = true ∧
      s.fab.cache.find? (fun e => decide (e.1 = rqKey f)) = none ∧ (∃ e ∈ s.fab.history, e.1 = rqKey f)) ∧
    (∃ (s : State) (f : Frame) (r : List Frame) (touched : _),
      touched = (wordsOf (rqAddr f) (if f.typ = 2 then rqLen f else (f.payload.drop 16).length)) ∧ (∃ w ∈ touched, rcMarked w = true ∨
      mapped s w = false) ∧ awake s = true ∧ s.fab.target = f :: r ∧ f.dest ≠ 0xFFF ∧ originates s = true ∧
      s.fab.cache.find? (fun e => decide (e.1 = rqKey f)) = none ∧ (∀ e ∈ s.fab.history, e.1 ≠ rqKey f) ∧ (f.typ = 4 ∨
      s.fab.cache.length < 256) ∧ f.typ = 2 ∧ f.spec = true) ∧
    (∃ (s : State) (f : Frame) (r : List Frame) (touched : _),
      touched = (wordsOf (rqAddr f) (if f.typ = 2 then rqLen f else (f.payload.drop 16).length)) ∧ (∃ w ∈ touched, mapped s w = false) ∧
      awake s = true ∧ s.fab.target = f :: r ∧ f.dest ≠ 0xFFF ∧ originates s = true ∧
      s.fab.cache.find? (fun e => decide (e.1 = rqKey f)) = none ∧ (∀ e ∈ s.fab.history, e.1 ≠ rqKey f) ∧ (f.typ = 4 ∨
      s.fab.cache.length < 256) ∧ (f.typ = 2 ∨ f.typ = 4 ∨ f.typ = 5) ∧ (f.typ = 2 → f.spec = false)) ∧
    (∃ (s : State) (f : Frame) (r : List Frame) (bs : List Byte), awake s = true ∧ s.fab.target = f :: r ∧ f.dest ≠ 0xFFF ∧
      originates s = true ∧ s.fab.cache.find? (fun e => decide (e.1 = rqKey f)) = none ∧ (∀ e ∈ s.fab.history, e.1 ≠ rqKey f) ∧
      rqAddr f % 4 = 0 ∧ 0x01000000 ≤ rqAddr f ∧ rqAddr f < 0x01400000 ∧ f.typ = 2 ∧ f.spec = false ∧ s.fab.cache.length < 256 ∧
      rqLen f = 4 ∧ eccOf s (rqAddr f / 8) = 0 ∧ bs = memBytes s (rqAddr f) 4) ∧
    (∃ (s : State) (f : Frame) (r : List Frame) (bs : List Byte), awake s = true ∧ s.fab.target = f :: r ∧ f.dest ≠ 0xFFF ∧
      originates s = true ∧ s.fab.cache.find? (fun e => decide (e.1 = rqKey f)) = none ∧ (∀ e ∈ s.fab.history, e.1 ≠ rqKey f) ∧
      rqAddr f % 4 = 0 ∧ 0x01000000 ≤ rqAddr f ∧ rqAddr f < 0x01400000 ∧ f.payload.drop 16 = bs ∧ bs.length = 4 ∧ (f.typ = 4 ∨ (f.typ = 5 ∧
      s.fab.cache.length < 256))) :=
  ⟨⟨fb (fun f => { f with arrived := [rqFr], target := List.replicate 31 rqFr }) up, rqFr, by decide +kernel⟩,
   ⟨fb (fun f => { f with arrived := [rqFr], target := List.replicate 32 rqFr }) up, rqFr, by decide +kernel⟩,
   ⟨fb (fun f => { f with arrived := [rqFr] }) (node .halter), rqFr, by decide +kernel⟩,
   ⟨fb (fun f => { f with target := [rqFr], cache := [(rqKey rqFr, 7, wrFr)] }) up, rqFr, [], rqKey rqFr, 7, wrFr, by decide +kernel⟩,
   ⟨fb (fun f => { f with target := [rqFr], history := [(rqKey rqFr, 7)] }) up, rqFr, [], by decide +kernel⟩,
   ⟨fb (fun f => { f with target := [rqTo 0x00020010 true] }) up, rqTo 0x00020010 true, [], _, rfl, ⟨0x00020010, by decide +kernel⟩,
     by decide +kernel⟩,
   ⟨fb (fun f => { f with target := [rqTo 0x0001F000 false] }) up, rqTo 0x0001F000 false, [], _, rfl, ⟨0x0001F000, by decide +kernel⟩,
     by decide +kernel⟩,
   ⟨fb (fun f => { f with target := [rqFr] }) up, rqFr, [], [0#8, 0#8, 0#8, 0#8], by decide +kernel⟩,
   ⟨fb (fun f => { f with target := [wrFr] }) up, wrFr, [], [1, 2, 3, 4], by decide +kernel⟩⟩

/-- Every clause of Obligations.LinkStates has a state and operands that meet its hypotheses. -/
theorem test_linkStates_clauses :
    (∃ (s : State) (m : Nat), m < 4 ∧ linkState s m = 4) ∧
    (∃ (s : State) (m : Nat), m < 4 ∧ linkState s m ≠ 4) ∧
    (∃ (s : State) (m : Nat) (rd : Bool) (codes : List Nat), m < 4 ∧ linkState s m = 3 ∧ gainsSync (rxSyms s m rd codes) = true) ∧
    (∃ (s : State) (m : Nat) (rd : Bool) (codes : List Nat), m < 4 ∧ 4 ≤ linkState s m ∧ losesSync (rxSyms s m rd codes) = true) ∧
    (∃ (s : State) (m : Nat) (rd : Bool) (codes : List Nat), m < 4 ∧ (linkState s m < 3 ∨ (linkState s m = 3 ∧
      gainsSync (rxSyms s m rd codes) = false) ∨ (4 ≤ linkState s m ∧ losesSync (rxSyms s m rd codes) = false))) ∧
    (∃ (s : State) (m : Nat) (los : Bool) (abs : Bool) (lost : _), lost = ((los || abs) && !((lnk s m).los || (lnk s m).absent)) ∧ m < 4 ∧
      lost = false ∧ linkState s m ≠ 5) ∧
    (∃ (s : State) (m : Nat) (los : Bool) (abs : Bool) (lost : _), lost = ((los || abs) && !((lnk s m).los || (lnk s m).absent)) ∧ m < 4 ∧
      lost = true) ∧
    (∃ (s : State) (m : Nat), m < 4 ∧ linkState s m = 5) ∧
    (∃ (s : State) (m : Nat), m < 4 ∧ linkState s m ≠ 5) ∧
    (∃ (s : State) (m : Nat), m < 4 ∧ awake s = false) ∧
    (∃ (s : State) (m : Nat), m < 4 ∧ awake s = true ∧ flag s (aRing 0x20) 31 = false) ∧
    (∃ (s : State) (m : Nat), m < 4 ∧ awake s = true ∧ flag s (aRing 0x20) 31 = true) ∧
    (∃ (s : State) (m : Nat) (b : ModBus), m < 4 ∧ awake s = true ∧ flag s (aRing 0x20) 31 = true ∧ s.ring.modBus = some b) ∧
    (∃ (s : State) (m : Nat), m < 4 ∧ (awake s = false ∨ flag s (aRing 0x20) 31 = false)) :=
  ⟨⟨lk 3 { sync := true } up, 3, by decide +kernel⟩,
   ⟨lk 3 { sync := true } up, 0, by decide +kernel⟩,
   ⟨lk 3 {} up, 3, false, encSyms false (List.replicate 8 idleR).flatten, by decide +kernel⟩,
   ⟨lk 3 upLink up, 3, false, [0, 0, 0, 0], by decide +kernel⟩,
   ⟨lk 3 { sync := true } up, 3, true, [], by decide +kernel⟩,
   ⟨lk 3 { sync := true } up, 3, false, false, _, rfl, by decide +kernel⟩,
   ⟨lk 3 { sync := true } up, 3, true, true, _, rfl, by decide +kernel⟩,
   ⟨lk 3 upLink up, 3, by decide +kernel⟩,
   ⟨lk 3 { sync := true } up, 3, by decide +kernel⟩,
   ⟨node .stabled, 3, by decide +kernel⟩,
   ⟨lk 3 { sync := true } up, 3, by decide +kernel⟩,
   ⟨rg (aRing 0x20) 0x80000000 up, 3, by decide +kernel⟩,
   ⟨rg (aRing 0x20) 0x80000000 { up with ring := { up.ring with modBus := some { switch := none, dev := 0, reg := 0, data := none } } }, 3,
     { switch := none, dev := 0, reg := 0, data := none }, by decide +kernel⟩,
   ⟨lk 3 { sync := true } up, 3, by decide +kernel⟩⟩

/-- Every clause of Obligations.RingFrames has a state and operands that meet its hypotheses. -/
theorem test_ringFrames_clauses :
    (∃ (s : State) (m : Nat) (w : Word), m < 4 ∧ 4 ≤ linkState s m ∧ (lnk s m).rx = [] ∧ s.nodeId ≠ 0 ∧ bits w 31 20 = s.nodeId) ∧
    (∃ (s : State) (m : Nat) (w : Word) (junc : Bool), m < 4 ∧ 4 ≤ linkState s m ∧ (lnk s m).rx = [] ∧ s.nodeId ≠ 0 ∧
      bits w 31 20 ≠ s.nodeId ∧ s.ring.stripOn = false ∧ (flag s (aRing 0x424) 0 && junc) = false ∧ word0Ok w = true ∧ bit w 5 = false ∧
      (bits w 19 8 = s.nodeId ∨ bits w 19 8 = 0)) ∧
    (∃ (s : State) (m : Nat) (p : _) (w : Word) (junc : Bool), p = (partner m) ∧ m < 4 ∧ 4 ≤ linkState s m ∧ (lnk s m).rx = [] ∧
      s.nodeId ≠ 0 ∧ bits w 31 20 ≠ s.nodeId ∧ s.ring.stripOn = false ∧ (flag s (aRing 0x424) 0 && junc) = false ∧ bit w 5 = false ∧
      bits w 19 8 ≠ s.nodeId ∧ bits w 19 8 ≠ 0 ∧ bits w 19 8 ≠ 0xFFF ∧ linkUp s p = true ∧ txOf s p = {} ∧ fwdQ s p = [] ∧ (bit w 4 = true ∨
      ∀ f ∈ txQ s p, ownReady s true f = false)) ∧
    (∃ (s : State) (m : Nat) (p : _) (w : Word) (junc : Bool), p = (partner m) ∧ m < 4 ∧ 4 ≤ linkState s m ∧ (lnk s m).rx = [] ∧
      s.nodeId ≠ 0 ∧ bits w 31 20 ≠ s.nodeId ∧ s.ring.stripOn = false ∧ (flag s (aRing 0x424) 0 && junc) = false ∧ bit w 5 = false ∧
      bits w 19 8 ≠ s.nodeId ∧ bits w 19 8 ≠ 0 ∧ bits w 19 8 ≠ 0xFFF ∧ linkUp s p = false) ∧
    (∃ (s : State) (m : Nat), m < 4 ∧ linkState s m < 4) ∧
    (∃ (s : State) (m : Nat) (bs : List Byte) (soe : Bool), m < 4 ∧ 4 ≤ linkState s m ∧ bs.length < 4 ∧ (soe = true ∨ (lnk s m).rx ≠ []) ∧
      bs = []) ∧
    (∃ (s : State) (m : Nat) (bs : List Byte) (soe : Bool), m < 4 ∧ 4 ≤ linkState s m ∧ bs.length < 4 ∧ ((soe = false ∧ (lnk s m).rx = []) ∨
      bs ≠ [])) ∧
    (∃ (s : State) (m : Nat) (bs : List Byte), m < 4 ∧ 4 ≤ linkState s m ∧ bs.length < 4) ∧
    (∃ (s : State) (m : Nat) (p : _) (rx : RxFrame) (r : List RxFrame) (bs : List Byte) (fin : FrameEnd) (cause : _), p = (partner m) ∧
      cause = (badCause (fwdRoom s p rx) bs fin) ∧ m < 4 ∧ 4 ≤ linkState s m ∧ (lnk s m).rx = rx :: r ∧ 4 ≤ bs.length ∧ rx.full = false ∧
      rx.startAt = none ∧ cause = some ((BadCause.hops, aRing 0x54) : BadCause × Nat).1) ∧
    (∃ (s : State) (m : Nat) (p : _) (rx : RxFrame) (r : List RxFrame) (bs : List Byte) (fin : FrameEnd) (cause : _), p = (partner m) ∧
      cause = (badCause (fwdRoom s p rx) bs fin) ∧ m < 4 ∧ 4 ≤ linkState s m ∧ (lnk s m).rx = rx :: r ∧ 4 ≤ bs.length ∧ rx.full = false ∧
      rx.startAt = none ∧ cause = some .plen) ∧
    (∃ (s : State) (m : Nat) (p : _) (rx : RxFrame) (r : List RxFrame) (bs : List Byte) (fin : FrameEnd) (cause : _) (c : Nat),
      p = (partner m) ∧ cause = (badCause (fwdRoom s p rx) bs fin) ∧ m < 4 ∧ 4 ≤ linkState s m ∧ (lnk s m).rx = rx :: r ∧ 4 ≤ bs.length ∧
      rx.full = false ∧ rx.startAt = none ∧ cause = some (.link c true)) ∧
    (∃ (s : State) (m : Nat) (p : _) (rx : RxFrame) (r : List RxFrame) (bs : List Byte) (fin : FrameEnd) (cause : _) (f : Frame) (ok : _),
      p = (partner m) ∧ cause = (badCause (fwdRoom s p rx) bs fin) ∧ f = ({ frameOf rx.word0 bs with rxAt := rx.rxAt, rxOn := m }) ∧
      (ok = (word0Ok rx.word0 = true ∧ hdrRestOk rx.word0 bs = true ∧ destFits f = true)) ∧ m < 4 ∧ 4 ≤ linkState s m ∧
      (lnk s m).rx = rx :: r ∧ 4 ≤ bs.length ∧ rx.full = false ∧ cause = none ∧ ok ∧ rx.pass = false ∧ rx.take = true ∧
      payloadOk f = true) ∧
    (∃ (s : State) (m : Nat) (p : _) (rx : RxFrame) (r : List RxFrame) (bs : List Byte) (fin : FrameEnd) (cause : _) (f : Frame) (ok : _),
      p = (partner m) ∧ cause = (badCause (fwdRoom s p rx) bs fin) ∧ f = ({ frameOf rx.word0 bs with rxAt := rx.rxAt, rxOn := m }) ∧
      (ok = (word0Ok rx.word0 = true ∧ hdrRestOk rx.word0 bs = true ∧ destFits f = true)) ∧ m < 4 ∧ 4 ≤ linkState s m ∧
      (lnk s m).rx = rx :: r ∧ 4 ≤ bs.length ∧ rx.full = false ∧ cause = none ∧ rx.pass = false ∧ rx.alone = false ∧ ¬ ok) ∧
    (∃ (s : State) (m : Nat) (p : _) (rx : RxFrame) (r : List RxFrame) (bs : List Byte) (fin : FrameEnd) (cause : _) (f : Frame) (ok : _) (t0 : Nat),
      p = (partner m) ∧ cause = (badCause (fwdRoom s p rx) bs fin) ∧ f = ({ frameOf rx.word0 bs with rxAt := rx.rxAt, rxOn := m }) ∧
      (ok = (word0Ok rx.word0 = true ∧ hdrRestOk rx.word0 bs = true ∧ destFits f = true)) ∧ m < 4 ∧ 4 ≤ linkState s m ∧
      (lnk s m).rx = rx :: r ∧ 4 ≤ bs.length ∧ rx.full = false ∧ cause = none ∧ ok ∧ rx.pass = true ∧ rx.take = false ∧ rx.gone = false ∧
      flag s (aRing 0x424) 0 = false ∧ rx.startAt = some t0 ∧ txOf s p = { cur := some (.onward rx.express none) }) ∧
    (∃ (s : State) (m : Nat) (p : _) (rx : RxFrame) (r : List RxFrame) (bs : List Byte) (fin : FrameEnd) (cause : _) (f : Frame) (ok : _),
      p = (partner m) ∧ cause = (badCause (fwdRoom s p rx) bs fin) ∧ f = ({ frameOf rx.word0 bs with rxAt := rx.rxAt, rxOn := m }) ∧
      (ok = (word0Ok rx.word0 = true ∧ hdrRestOk rx.word0 bs = true ∧ destFits f = true)) ∧ m < 4 ∧ 4 ≤ linkState s m ∧
      (lnk s m).rx = rx :: r ∧ 4 ≤ bs.length ∧ rx.full = false ∧ cause = none ∧ ok ∧ rx.pass = true ∧ rx.take = false ∧ rx.gone = false ∧
      flag s (aRing 0x424) 0 = false ∧ rx.startAt = none) ∧
    (∃ (s : State) (m : Nat) (f : Frame), m < 4 ∧ awake s = true ∧ (ringQ s m).find? forSwitch = some f ∧ tunWaits s f = false) ∧
    (∃ (s : State) (m : Nat), m < 4 ∧ (awake s = false ∨ (ringQ s m).find? forSwitch = none ∨ ∃ f, (ringQ s m).find? forSwitch = some f ∧
      tunWaits s f = true)) ∧
    (∃ (s : State) (m : Nat), m < 4 ∧ ringStopped s = true) ∧
    (∃ (s : State) (m : Nat) (p : _), p = (partner m) ∧ m < 4 ∧ s.power.phase = .stabled ∧ (∀ f ∈ txQ s m, mayLeave s f = false) ∧
      fwdQ s m = [] ∧ (lnk s p).rx = [] ∧ txOf s m = {}) ∧
    (∃ (s : State) (m : Nat) (p : _) (f : Frame) (r : List Frame) (part : Nat), p = (partner m) ∧ m < 4 ∧ linkUp s m = true ∧
      fwdQ s m = [] ∧ (lnk s p).rx = [] ∧ txQ s m = f :: r ∧ (∀ g ∈ f :: r, awaitsGate g = false ∧ g.cell = none) ∧ f.typ ≠ 7 ∧
      f.bad = false ∧ f.adm = false ∧ ringStopped s = false ∧ mayLeave s f = true ∧ txOf s m = {} ∧ f.exp = true ∧
      part + frameLen s f ≤ 512) ∧
    (∃ (s : State) (m : Nat) (p : _) (f : Frame) (r : List Frame) (part : Nat) (coming : Bool), p = (partner m) ∧ m < 4 ∧
      linkUp s m = true ∧ fwdQ s m = [] ∧ (lnk s p).rx = [] ∧ txQ s m = f :: r ∧ (∀ g ∈ f :: r, awaitsGate g = false ∧ g.cell = none) ∧
      f.typ ≠ 7 ∧ f.bad = false ∧ f.adm = false ∧ ringStopped s = false ∧ mayLeave s f = true ∧ txOf s m = {} ∧ (∀ g ∈ f :: r,
      g.exp = false) ∧ part = 0 ∧ coming = false) ∧
    (∃ (s : State) (m : Nat) (p : _) (f : Frame) (r : List Frame) (part : Nat) (g : Frame) (bs : List Byte), p = (partner m) ∧ m < 4 ∧
      linkUp s m = true ∧ fwdQ s m = [] ∧ (lnk s p).rx = [] ∧ txQ s m = f :: r ∧ (∀ g ∈ f :: r, awaitsGate g = false ∧ g.cell = none) ∧
      f.typ ≠ 7 ∧ f.bad = false ∧ f.adm = false ∧ ringStopped s = false ∧ mayLeave s f = true ∧ txOf s m = { cur := some (.own g bs) } ∧
      g.exp = false ∧ f.exp = true ∧ part + frameLen s f ≤ 512) ∧
    (∃ (s : State) (m : Nat) (p : _) (g : Frame) (bs : List Byte), p = (partner m) ∧ m < 4 ∧ txQ s m = [] ∧ fwdQ s m = [] ∧
      (lnk s p).rx = [] ∧ ringStopped s = false ∧ txOf s m = { cur := some (.own g bs) } ∧ g.cell = none) ∧
    (∃ (s : State) (m : Nat) (p : _), p = (partner m) ∧ m < 4 ∧ txQ s m = [] ∧ fwdQ s m = [] ∧ (lnk s p).rx = [] ∧ ringStopped s = false ∧
      txOf s m = { cur := some (.onward false none) }) :=
  ⟨⟨lks up, 3, 0x00500000, by decide +kernel⟩,
   ⟨lks up, 3, 0xFFE00500, true, by decide +kernel⟩,
   ⟨lks up, 3, _, 0x001FFE00, true, rfl, by decide +kernel⟩,
   ⟨lk 3 upLink up, 3, _, 0x001FFE00, true, rfl, by decide +kernel⟩,
   ⟨lks up, 0, by decide +kernel⟩,
   ⟨lks up, 3, [], true, by decide +kernel⟩,
   ⟨lks up, 3, [], false, by decide +kernel⟩,
   ⟨lks up, 3, [], by decide +kernel⟩,
   ⟨rx3 rxF up, 3, _, rxF, [], List.replicate 6 0#8, .eof, _, rfl, rfl, by decide +kernel⟩,
   ⟨rx3 rxF up, 3, _, rxF, [], (frameBytes rqFr rqFr.payload).take 8 ++ [0xFF, 0xFF], .eof, _, rfl, rfl, by decide +kernel⟩,
   ⟨rx3 rxF up, 3, _, rxF, [], (frameBytes rqFr rqFr.payload).take 15 ++ [0], .eof, _, 0x20, rfl, rfl, by decide +kernel⟩,
   ⟨rx3 { rxF with word0 := wd (ofBytesLE ((frameBytes rqFr rqFr.payload).take 4)), take := true } up, 3, _,
     { rxF with word0 := wd (ofBytesLE ((frameBytes rqFr rqFr.payload).take 4)), take := true }, [], frameBytes rqFr rqFr.payload, .eof, _,
     _, _, rfl, rfl, rfl, rfl, by decide +kernel⟩,
   ⟨rx3 rxF up, 3, _, rxF, [], frameBytes rqFr rqFr.payload, .eof, _, _, _, rfl, rfl, rfl, rfl, by decide +kernel⟩,
   ⟨{ rg (aRing 0x424) 0 (rx3 { rxQ with startAt := some 7 } up) with ring := { (rx3 { rxQ with startAt := some 7 } up).ring with tx := [(partner 3, { cur := some (.onward false none) })] } },
     3, _, { rxQ with startAt := some 7 }, [], frameBytes rqFr rqFr.payload, .eof, _, _, _, 7, rfl, rfl, rfl, rfl, by decide +kernel⟩,
   ⟨rx3 rxQ up, 3, _, rxQ, [], frameBytes rqFr rqFr.payload, .eof, _, _, _, rfl, rfl, rfl, rfl, by decide +kernel⟩,
   ⟨{ up with ring := { up.ring with inq := [(3, [rqFr])] } }, 3, rqFr, by decide +kernel⟩,
   ⟨lks up, 3, by decide +kernel⟩,
   ⟨node .stabled, 3, by decide +kernel⟩,
   ⟨node .stabled, 3, _, rfl, by decide +kernel⟩,
   ⟨{ lks up with ring := { (lks up).ring with txq := [(3, [{ rqFr with exp := true, inGate := true }])] } }, 3, _,
     { rqFr with exp := true, inGate := true }, [], 476, rfl, by decide +kernel⟩,
   ⟨{ lks up with ring := { (lks up).ring with txq := [(3, [{ rqFr with inGate := true }])] } }, 3, _, { rqFr with inGate := true }, [], 0,
     false, rfl, by decide +kernel⟩,
   ⟨{ lks up with ring := { (lks up).ring with txq := [(3, [{ rqFr with exp := true, inGate := true }])], tx := [(3, { cur := some (.own rqFr [1]) })] } },
     3, _, { rqFr with exp := true, inGate := true }, [], 476, rqFr, [1], rfl, by decide +kernel⟩,
   ⟨{ lks up with ring := { (lks up).ring with tx := [(3, { cur := some (.own rqFr [1]) })] } }, 3, _, rqFr, [1], rfl, by decide +kernel⟩,
   ⟨{ lks up with ring := { (lks up).ring with tx := [(3, { cur := some (.onward false none) })] } }, 3, _, rfl, by decide +kernel⟩⟩

/-- Every clause of Obligations.Admission has a state and operands that meet its hypotheses. -/
theorem test_admission_clauses :
    (∃ (s : State) (m : Nat) (k : Nat), m < 4 ∧ (ringQ s m).find? (isMgt k) = none ∧ ((3, .assignReceive m) : Nat × Instr).1 = k) ∧
    (∃ (s : State) (m : Nat) (f : Frame), m < 4 ∧ (ringQ s m).find? (isMgt 0) = some f) ∧
    (∃ (s : State) (m : Nat), m < 4 ∧ tabGet (fun _ => none) s.ring.mgr.heardAt m ≠ some s.now ∧
      flag s (aRing (0x488 + 16 * m)) 31 = true) ∧
    (∃ (s : State) (m : Nat), m < 4 ∧
      (tabGet (fun _ => none) s.ring.mgr.heardAt m = some s.now ∨ flag s (aRing (0x488 + 16 * m)) 31 = false)) ∧
    (∃ (s : State) (m : Nat), m < 4 ∧ s.power.phase ≠ .off ∧ s.ring.mgr.readyHold = true) ∧
    (∃ (s : State) (m : Nat), m < 4 ∧ (s.power.phase = .off ∨ s.ring.mgr.readyHold = false)) ∧
    (∃ (s : State) (m : Nat) (f : Frame) (d : _) (decided : _), d = (mgtDuid f) ∧
      decided = (s.ring.mgr.decided.any (fun e => decide (e.1 = d) && decide (s.now - e.2 < 100 * msClocks))) ∧ m < 4 ∧
      (ringQ s m).find? (isMgt 2) = some f ∧ (isMgr s = false ∨ decided = true ∨ (flag s (aRing 0x400) 4 = false ∧
      admqHolds s d = true))) ∧
    (∃ (s : State) (m : Nat) (f : Frame) (d : _) (decided : _), d = (mgtDuid f) ∧
      decided = (s.ring.mgr.decided.any (fun e => decide (e.1 = d) && decide (s.now - e.2 < 100 * msClocks))) ∧ m < 4 ∧
      (ringQ s m).find? (isMgt 2) = some f ∧ isMgr s = true ∧ decided = false ∧ flag s (aRing 0x400) 4 = false ∧ admqHolds s d = false ∧
      admqFill s < 16) ∧
    (∃ (s : State) (m : Nat) (f : Frame) (d : _) (decided : _), d = (mgtDuid f) ∧
      decided = (s.ring.mgr.decided.any (fun e => decide (e.1 = d) && decide (s.now - e.2 < 100 * msClocks))) ∧ m < 4 ∧
      (ringQ s m).find? (isMgt 2) = some f ∧ isMgr s = true ∧ decided = false ∧ flag s (aRing 0x400) 4 = false ∧ admqHolds s d = false ∧
      admqFill s = 16) ∧
    (∃ (s : State) (m : Nat) (f : Frame) (d : _) (decided : _) (id : Nat), d = (mgtDuid f) ∧
      decided = (s.ring.mgr.decided.any (fun e => decide (e.1 = d) && decide (s.now - e.2 < 100 * msClocks))) ∧ m < 4 ∧
      (ringQ s m).find? (isMgt 2) = some f ∧ isMgr s = true ∧ decided = false ∧ flag s (aRing 0x400) 4 = true ∧ mgtHalf4 f % 4096 = 0 ∧
      memberId s d = none ∧ memberFree s (mgtHalf6 f % 4096) (fieldLE f.payload 16 2 % 4096) = some id ∧ originates s = true) ∧
    (∃ (s : State) (m : Nat) (f : Frame) (d : _), d = (mgtDuid f) ∧ m < 4 ∧ (ringQ s m).find? (isMgt 3) = some f ∧ d ≠ s.duid) ∧
    (∃ (s : State) (m : Nat) (f : Frame) (d : _), d = (mgtDuid f) ∧ m < 4 ∧ (ringQ s m).find? (isMgt 3) = some f ∧ mgtByte1 f = 0 ∧
      d = s.duid ∧ s.power.phase = .halter) ∧
    (∃ (s : State) (m : Nat) (f : Frame) (d : _), d = (mgtDuid f) ∧ m < 4 ∧ (ringQ s m).find? (isMgt 3) = some f ∧
      (mgtByte1 f = 1 ∨ mgtByte1 f = 2) ∧ d = s.duid ∧ s.power.phase = .halter) ∧
    (∃ (s : State) (m : Nat) (f : Frame) (id : _) (d : _), id = (mgtHalf4 f % 4096) ∧ d = (mgtDuid f) ∧ m < 4 ∧
      (ringQ s m).find? (isMgt 3) = some f ∧ mgtByte1 f = 4 ∧ d = s.duid ∧ s.power.phase = .running ∧ id = s.nodeId) ∧
    (∃ (s : State) (m : Nat), m < 4 ∧ awake s = false) ∧
    (∃ (s : State) (m : Nat) (id : BitVec 12) (acts : _), acts = ([(0, Instr.admGranted id), (1, .admRefused id), (2, .admEvicted id)]) ∧
      m < 4 ∧ awake s = true ∧ admRefused s ((0, Instr.admGranted id) : Nat × Instr).1 id.toNat = true) ∧
    (∃ (s : State) (m : Nat) (id : BitVec 12) (acts : _), acts = ([(0, Instr.admGranted id), (1, .admRefused id), (2, .admEvicted id)]) ∧
      m < 4 ∧ originates s = true ∧ admRefused s ((0, Instr.admGranted id) : Nat × Instr).1 id.toNat = false ∧ admDuid s ≠ s.duid ∧ (((0,
      Instr.admGranted id) : Nat × Instr).1 = 0 → memberId s (admDuid s) = none ∨ memberId s (admDuid s) = some id.toNat)) :=
  ⟨⟨rq 3 [mgtFr 0 0 0 0 0] (node .halter), 3, 3, by decide +kernel⟩,
   ⟨rq 3 [mgtFr 0 0 0 0 0] (node .halter), 3, mgtFr 0 0 0 0 0, by decide +kernel⟩,
   ⟨rg (aRing (0x488 + 16 * 3)) 0x80000000 up, 3, by decide +kernel⟩,
   ⟨rq 3 [mgtFr 0 0 0 0 0] (node .halter), 3, by decide +kernel⟩,
   ⟨rq 3 [mgtFr 0 0 0 0 0] (node .halter), 3, by decide +kernel⟩,
   ⟨node .off, 3, by decide +kernel⟩,
   ⟨rq 3 [mgtFr 2 0 0 0 7] up, 3, mgtFr 2 0 0 0 7, _, _, rfl, rfl, by decide +kernel, by decide +kernel, .inl (by decide +kernel)⟩,
   ⟨rg (aRing 0x400) 0 (rg (aRing 0x430) 15 (rg (aRing 0x404) 1 (rq 3 [mgtFr 2 0 0 0 7] up))), 3, mgtFr 2 0 0 0 7, _, _, rfl, rfl,
     by decide +kernel⟩,
   ⟨rg (aRing 0x400) 0 (rg (aRing 0x430) 16 (rg (aRing 0x404) 1 (rq 3 [mgtFr 2 0 0 0 7] up))), 3, mgtFr 2 0 0 0 7, _, _, rfl, rfl,
     by decide +kernel⟩,
   ⟨rg (aRing 0x400) 16 (rg (aRing 0x404) 1 (rq 3 [{ mgtFr 2 0 0 0 7 with payload := [2, 0, 0, 0, 0, 0, 1, 0] ++ bytesLE 8 7 ++ bytesLE 8 2 }] up)),
     3, { mgtFr 2 0 0 0 7 with payload := [2, 0, 0, 0, 0, 0, 1, 0] ++ bytesLE 8 7 ++ bytesLE 8 2 }, _, _, 1, rfl, rfl, by decide +kernel⟩,
   ⟨rq 3 [mgtFr 3 0 0xFFE 0 7] up, 3, mgtFr 3 0 0xFFE 0 7, _, rfl, by decide +kernel⟩,
   ⟨rq 3 [mgtFr 3 0 0xFFE 0 1] (node .halter), 3, mgtFr 3 0 0xFFE 0 1, _, rfl, by decide +kernel⟩,
   ⟨rq 3 [mgtFr 3 1 5 0 1] { node .halter with duid := 1 }, 3, mgtFr 3 1 5 0 1, _, rfl, by decide +kernel, by decide +kernel,
     .inl (by decide +kernel), by decide +kernel⟩,
   ⟨rq 3 [mgtFr 3 4 5 0 1] up, 3, mgtFr 3 4 5 0 1, _, _, rfl, rfl, by decide +kernel⟩,
   ⟨node .stabled, 3, by decide +kernel⟩,
   ⟨rq 3 [mgtFr 0 0 0 0 0] (node .halter), 3, 0xFFE, _, rfl, by decide +kernel⟩,
   ⟨rg (aRing 0x400) 0 (rg (aRing 0x430) 15 (rg (aRing 0x404) 1 (rq 3 [mgtFr 2 0 0 0 7] up))), 3, 0xFFE, _, rfl, by decide +kernel⟩⟩

/-- Every clause of Obligations.Elections has a state and operands that meet its hypotheses. -/
theorem test_elections_clauses :
    (∃ (s : State) (m : Nat), m < 4 ∧ ((Instr.electionStart,
      !s.ring.mgr.quietOver && (decide (s.power.phase = .halter) || (!isMgr s && originates s && candidate s))) : Instr × Bool).2 = true ∧
      electing s = false ∧ surveyNow s = false ∧ s.ring.mgr.readyHold = false) ∧
    (∃ (s : State) (m : Nat), m < 4 ∧ (((Instr.electionStart,
      !s.ring.mgr.quietOver && (decide (s.power.phase = .halter) || (!isMgr s && originates s && candidate s))) : Instr × Bool).2 = false ∨
      electing s = true ∨ surveyNow s = true ∨ s.ring.mgr.readyHold = true)) ∧
    (∃ (s : State) (m : Nat) (k : Nat), m < 4 ∧ (ringQ s m).find? (isMgt k) = none ∧ ((1, Instr.claimReceive m) : Nat × Instr).1 = k) ∧
    (∃ (s : State) (m : Nat) (f : Frame) (k : _), k = (mgtKey f) ∧ m < 4 ∧ (ringQ s m).find? (isMgt 1) = some f ∧ (electsNow s = false ∨
      (electing s = true ∧ s.ring.mgr.best ≤ k) ∨ (electing s = false ∧ surveyFresh s = true))) ∧
    (∃ (s : State) (m : Nat) (f : Frame) (k : _), k = (mgtKey f) ∧ m < 4 ∧ (ringQ s m).find? (isMgt 1) = some f ∧ electsNow s = true ∧
      electing s = true ∧ k < s.ring.mgr.best) ∧
    (∃ (s : State) (m : Nat) (f : Frame), m < 4 ∧ (ringQ s m).find? (isMgt 1) = some f ∧ electsNow s = true ∧ electing s = false ∧
      surveyFresh s = false) ∧
    (∃ (s : State) (m : Nat) (due : _), (due = (electing s = true ∧ electsNow s = true ∧ s.ring.mgr.quietOver = false ∧
      s.ring.mgr.bestAt ≠ some s.now)) ∧ m < 4 ∧ ¬ due) ∧
    (∃ (s : State) (m : Nat) (due : _) (won : _), (due = (electing s = true ∧ electsNow s = true ∧ s.ring.mgr.quietOver = false ∧
      s.ring.mgr.bestAt ≠ some s.now)) ∧ won = ((candidate s && decide (s.ring.mgr.best = ownKey s)) = true) ∧ m < 4 ∧ due ∧ ¬ won) ∧
    (∃ (s : State) (m : Nat) (due : _) (won : _), (due = (electing s = true ∧ electsNow s = true ∧ s.ring.mgr.quietOver = false ∧
      s.ring.mgr.bestAt ≠ some s.now)) ∧ won = ((candidate s && decide (s.ring.mgr.best = ownKey s)) = true) ∧ m < 4 ∧ due ∧ won ∧
      originates s = true) ∧
    (∃ (s : State) (m : Nat) (due : _) (won : _) (id : Nat), (due = (electing s = true ∧ electsNow s = true ∧ s.ring.mgr.quietOver = false ∧
      s.ring.mgr.bestAt ≠ some s.now)) ∧ won = ((candidate s && decide (s.ring.mgr.best = ownKey s)) = true) ∧ m < 4 ∧ due ∧ won ∧
      s.power.phase = .halter ∧ fld s (aRing 0x418) 11 0 = id ∧ id ≠ 0 ∧ member s id = 0) ∧
    (∃ (s : State) (m : Nat), m < 4 ∧ isMgr s = true ∧ originates s = true ∧ s.ring.mgr.missed = []) ∧
    (∃ (s : State) (m : Nat), m < 4 ∧ (isMgr s = false ∨ originates s = false)) ∧
    (∃ (s : State) (m : Nat) (f : Frame), m < 4 ∧ (ringQ s m).find? (isMgt 4) = some f) ∧
    (∃ (s : State) (m : Nat) (f : Frame), m < 4 ∧ (ringQ s m).find? (isMgt 5) = some f ∧ isMgr s = true ∧ member s f.src = mgtDuid f) ∧
    (∃ (s : State) (m : Nat) (f : Frame), m < 4 ∧ (ringQ s m).find? (isMgt 5) = some f ∧ isMgr s = true ∧ originates s = true ∧
      mgtDuid f ≠ s.duid ∧ f.src < 4096 ∧ member s f.src = 0 ∧ memberId s (mgtDuid f) = none ∧ mgtDuid f ≠ 0) ∧
    (∃ (s : State) (m : Nat) (f : Frame), m < 4 ∧ (ringQ s m).find? (isMgt 5) = some f ∧ isMgr s = false) :=
  ⟨⟨mg (fun g => { g with quietOver := false, readyHold := false }) (node .halter), 3, by decide +kernel⟩,
   ⟨mg (fun g => { g with quietOver := false }) (node .halter), 3, by decide +kernel⟩,
   ⟨mg (fun g => { g with quietOver := false }) (node .halter), 3, 1, by decide +kernel⟩,
   ⟨mg (fun g => { g with best := 7 }) (rg (aRing 0x404) 2 (rq 3 [mgtFr 1 1 0 0 7] up)), 3, mgtFr 1 1 0 0 7, _, rfl, by decide +kernel⟩,
   ⟨rg (aRing 0x404) 2 (rq 3 [mgtFr 1 1 0 0 0] up), 3, mgtFr 1 1 0 0 0, _, rfl, by decide +kernel⟩,
   ⟨rq 3 [mgtFr 1 1 0 0 7] up, 3, mgtFr 1 1 0 0 7, by decide +kernel⟩,
   ⟨mg (fun g => { g with quietOver := false }) (node .halter), 3, _, rfl, by decide +kernel⟩,
   ⟨rg (aRing 0x404) 2 (rq 3 [mgtFr 1 1 0 0 0] up), 3, _, _, rfl, rfl, by decide +kernel⟩,
   ⟨rg (aRing 0x400) 2 (rg (aRing 0x418) 0x80000000 (rg (aRing 0x404) 2 (mg (fun g => { g with quietOver := false, best := 1 }) up))), 3, _,
     _, rfl, rfl, by decide +kernel⟩,
   ⟨rg (aRing 0x400) 2 (rg (aRing 0x418) 0x80000FFE (rg (aRing 0x404) 2 (mg (fun g => { g with quietOver := false, best := 1 }) (node .halter)))),
     0, _, _, 0xFFE, rfl, rfl, by decide +kernel⟩,
   ⟨rg (aRing 0x404) 1 up, 3, by decide +kernel⟩,
   ⟨mg (fun g => { g with quietOver := false }) (node .halter), 3, by decide +kernel⟩,
   ⟨rq 3 [mgtFr 4 0 0 0 7] up, 3, mgtFr 4 0 0 0 7, by decide +kernel⟩,
   ⟨rg (aRing 0x404) 1 (rq 3 [mgtFr 5 0 0 0xFFE 0] up), 3, mgtFr 5 0 0 0xFFE 0, by decide +kernel⟩,
   ⟨rg (aRing 0x404) 1 (rq 3 [mgtFr 5 0 0 0xFFE 7] up), 3, mgtFr 5 0 0 0xFFE 7, by decide +kernel⟩,
   ⟨rq 3 [mgtFr 5 0 0 0xFFE 0] up, 3, mgtFr 5 0 0 0xFFE 0, by decide +kernel⟩⟩

/-- Every clause of Obligations.EventUnit has a state and operands that meet its hypotheses. -/
theorem test_eventUnit_clauses :
    (∃ (s : State) (n : Nat), awake s = true ∧ n < 128 ∧ pulseSt s n = .request ∧ evtReserved s n = false) ∧
    (∃ (s : State) (n : Nat), awake s = true ∧ n < 128 ∧ pulseSt s n = .ack) ∧
    (∃ (s : State) (n : Nat), awake s = true ∧ n < 128 ∧ pulseSt s n = .idle) ∧
    (∃ (s : State), awake s = false) ∧
    (∃ (s : State) (n : Nat), tabGet (fun _ => none) s.evtHold n = none) ∧
    (∃ (s : State) (n : Nat) (h : Holdoff), awake s = true ∧ tabGet (fun _ => none) s.evtHold n = some h ∧
      (h.merged = false ∨ fld s (aEvtRoute n) 27 16 = 0)) ∧
    (∃ (s : State) (n : Nat) (h : Holdoff), awake s = true ∧ tabGet (fun _ => none) s.evtHold n = some h ∧ h.merged = true ∧
      fld s (aEvtRoute n) 27 16 ≠ 0 ∧ originates s = true ∧ fld s (aEvtRoute n) 27 16 ≠ s.nodeId) ∧
    (∃ (s : State) (m : Nat) (isEvt : _), isEvt = (fun (f : Frame) => decide (f.typ = 9)) ∧ m < 4 ∧ (ringQ s m).find? isEvt = none) ∧
    (∃ (s : State) (m : Nat) (isEvt : _) (f : Frame), isEvt = (fun (f : Frame) => decide (f.typ = 9)) ∧ m < 4 ∧
      (ringQ s m).find? isEvt = some f) :=
  ⟨⟨{ up with pulses := [(127, .request)] }, 127, by decide +kernel⟩,
   ⟨{ up with pulses := [(127, .ack)] }, 127, by decide +kernel⟩,
   ⟨{ up with evtHold := [(127, some {})] }, 127, by decide +kernel⟩,
   ⟨node .stabled, by decide +kernel⟩,
   ⟨{ up with evtHold := [(127, some {})] }, 255, by decide +kernel⟩,
   ⟨{ up with evtHold := [(127, some {})] }, 127, {}, by decide +kernel⟩,
   ⟨{ rg (aEvtRoute 127) 0x0FFE0000 up with evtHold := [(127, some { merged := true })] }, 127, { merged := true }, by decide +kernel⟩,
   ⟨{ up with evtHold := [(127, some {})] }, 3, _, rfl, by decide +kernel⟩,
   ⟨rg (aRing 0x444) 63 (rq 3 [{ typ := 9, dest := 5, src := 1 }] up), 3, _, { typ := 9, dest := 5, src := 1 }, rfl, by decide +kernel⟩⟩

/-- Every clause of Obligations.CanStates has a state and operands that meet its hypotheses. -/
theorem test_canStates_clauses :
    (∃ (s : State) (k : Nat), k < 2 ∧ awake s = false) ∧
    (∃ (s : State) (k : Nat) (st : _) (n : _) (bad : _) (v : Word), st = (canState s k) ∧ n = (nbtBit (getReg s (aCan k 0x0C))) ∧
      (bad = (fun (v : Word) => bits v 9 8 = 3 ∨ (bits v 9 8 = 2 ∧ ¬ (160 ≤ n ∧ n ≤ 1600)) ∨ (bit v 1 ≠ flag s (aCan k 0x00) 1 ∧ st ≠ 0))) ∧
      k < 2 ∧ awake s = true ∧ (bad v ∨ st = 3 ∨ st = 4)) ∧
    (∃ (s : State) (k : Nat) (st : _) (n : _) (bad : _) (v : Word) (busy : Bool), st = (canState s k) ∧
      n = (nbtBit (getReg s (aCan k 0x0C))) ∧ (bad = (fun (v : Word) => bits v 9 8 = 3 ∨ (bits v 9 8 = 2 ∧ ¬ (160 ≤ n ∧ n ≤ 1600)) ∨
      (bit v 1 ≠ flag s (aCan k 0x00) 1 ∧ st ≠ 0))) ∧ k < 2 ∧ awake s = true ∧ ¬ bad v ∧ (st = 1 ∨ st = 2 ∨ st = 5) ∧ (busy = true ∨
      txbIn s k 2 ≠ [])) ∧
    (∃ (s : State) (k : Nat) (st : _) (n : _) (bad : _) (v : Word) (busy : Bool), st = (canState s k) ∧
      n = (nbtBit (getReg s (aCan k 0x0C))) ∧ (bad = (fun (v : Word) => bits v 9 8 = 3 ∨ (bits v 9 8 = 2 ∧ ¬ (160 ≤ n ∧ n ≤ 1600)) ∨
      (bit v 1 ≠ flag s (aCan k 0x00) 1 ∧ st ≠ 0))) ∧ k < 2 ∧ awake s = true ∧ ¬ bad v ∧ (st = 1 ∨ st = 2 ∨ st = 5) ∧ busy = false ∧
      txbIn s k 2 = []) ∧
    (∃ (s : State) (k : Nat) (st : _) (n : _) (bad : _) (v : Word), st = (canState s k) ∧ n = (nbtBit (getReg s (aCan k 0x0C))) ∧
      (bad = (fun (v : Word) => bits v 9 8 = 3 ∨ (bits v 9 8 = 2 ∧ ¬ (160 ≤ n ∧ n ≤ 1600)) ∨ (bit v 1 ≠ flag s (aCan k 0x00) 1 ∧ st ≠ 0))) ∧
      k < 2 ∧ awake s = true ∧ ¬ bad v ∧ st = 0) ∧
    (∃ (s : State) (k : Nat) (st : _), st = (canState s k) ∧ k < 2 ∧ awake s = true ∧ st = 5 ∧ (canSt s k).initPend = false) ∧
    (∃ (s : State) (k : Nat) (st : _), st = (canState s k) ∧ k < 2 ∧ awake s = true ∧ st = 5 ∧ (canSt s k).initPend = true) ∧
    (∃ (s : State) (k : Nat) (st : _), st = (canState s k) ∧ k < 2 ∧ awake s = true ∧ st ≠ 5) ∧
    (∃ (s : State) (k : Nat) (st : _) (n : _) (bad : _) (v : Word), st = (canState s k) ∧ n = (nbtBit (getReg s (aCan k 0x0C))) ∧
      (bad = (fun (v : Word) => bits v 9 8 = 3 ∨ (bits v 9 8 = 2 ∧ ¬ (160 ≤ n ∧ n ≤ 1600)) ∨ (bit v 1 ≠ flag s (aCan k 0x00) 1 ∧ st ≠ 0))) ∧
      k < 2 ∧ awake s = true ∧ ¬ bad v ∧ bit v 0 = false ∧ st = 3) ∧
    (∃ (s : State) (k : Nat) (st : _) (n : _) (bad : _) (v : Word), st = (canState s k) ∧ n = (nbtBit (getReg s (aCan k 0x0C))) ∧
      (bad = (fun (v : Word) => bits v 9 8 = 3 ∨ (bits v 9 8 = 2 ∧ ¬ (160 ≤ n ∧ n ≤ 1600)) ∨ (bit v 1 ≠ flag s (aCan k 0x00) 1 ∧ st ≠ 0))) ∧
      k < 2 ∧ awake s = true ∧ ¬ bad v ∧ bit v 0 = false ∧ st = 0 ∧ s.power.phase ≠ .fault) ∧
    (∃ (s : State) (k : Nat) (st : _), st = (canState s k) ∧ k < 2 ∧ awake s = true ∧ st = 4) ∧
    (∃ (s : State) (k : Nat) (st : _), st = (canState s k) ∧ k < 2 ∧ awake s = true ∧ st ≠ 4) ∧
    (∃ (s : State) (k : Nat), k < 2 ∧ awake s = true ∧ canOn s k = false) ∧
    (∃ (s : State) (k : Nat), k < 2 ∧ awake s = true ∧ canOn s k = true ∧ (canSt s k).initPend = false ∧ canTec s k ≤ 255) ∧
    (∃ (s : State) (k : Nat), k < 2 ∧ canOn s k = false) ∧
    (∃ (s : State) (k : Nat) (w0 : Word), k < 2 ∧ canOn s k = true ∧ (canSt s k).initPend = false ∧ canTec s k ≤ 255 ∧ bit w0 31 = true ∧
      flag s (aCan k 0x00) 1 = false) ∧
    (∃ (s : State) (k : Nat) (w0 : Word), k < 2 ∧ canOn s k = true ∧ (canSt s k).initPend = false ∧ canTec s k ≤ 255 ∧ (bit w0 31 = true →
      flag s (aCan k 0x00) 1 = true)) ∧
    (∃ (s : State) (k : Nat), k < 2 ∧ s.canGate.head?.map Prod.fst ≠ some k) ∧
    (∃ (s : State) (k : Nat) (f : CanStaged) (r : List (Nat × CanStaged)), k < 2 ∧ s.canGate = (k, f) :: r ∧ (awake s = false ∨
      ftOfCount s canClock f.count = none ∨ (canLoops s f = true ∧ canRecRoom s = false))) ∧
    (∃ (s : State) (k : Nat) (f : CanStaged) (r : List (Nat × CanStaged)) (d : DWord), k < 2 ∧ s.canGate = (k, f) :: r ∧ awake s = true ∧
      ftOfCount s canClock f.count = some d ∧ (canSt s 0).stage = [] ∧ (canSt s 1).stage = [] ∧ bit f.act 29 = false ∧
      bits f.act 24 20 = 0 ∧ bit f.act 30 = false) ∧
    (∃ (s : State) (k : Nat) (f : CanStaged) (r : List (Nat × CanStaged)) (d : DWord) (c : Nat), k < 2 ∧ s.canGate = (k, f) :: r ∧
      awake s = true ∧ ftOfCount s canClock f.count = some d ∧ (canSt s 0).stage = [] ∧ (canSt s 1).stage = [] ∧ bit f.act 29 = false ∧
      bits f.act 24 20 = 0 ∧ bit f.act 30 = true ∧ (canSt s k).stageLost = false ∧ (canSt s k).rxLost = false ∧
      (canSt s k).rxq.length < 128 ∧ f.data.length ≤ 64 ∧ f.b4 < 64 ∧ 1 ≤ poolFree s ∧ poolFirst s = some c) ∧
    (∃ (s : State) (k : Nat), k < 2 ∧ awake s = true ∧ (canSt s k).rxq = []) ∧
    (∃ (s : State) (k : Nat) (c : Nat) (r : List Nat), k < 2 ∧ awake s = true ∧ s.ecc = [] ∧ (canSt s k).rxq = c :: r ∧
      (canSt s k).rxPos + 1 < (canItem s c).length) ∧
    (∃ (s : State) (k : Nat) (c : Nat) (r : List Nat), k < 2 ∧ awake s = true ∧ s.ecc = [] ∧ (canSt s k).rxq = c :: r ∧
      (canItem s c).length ≤ (canSt s k).rxPos + 1) :=
  ⟨⟨node .stabled, 1, by decide +kernel⟩,
   ⟨cn 1 {} up, 1, _, _, _, 0x5A5A000F, rfl, rfl, rfl, by decide +kernel⟩,
   ⟨cn 1 {} up, 1, _, _, _, 0x100, true, rfl, rfl, rfl, by decide +kernel⟩,
   ⟨cn 1 {} up, 1, _, _, _, 0x100, false, rfl, rfl, rfl, by decide +kernel⟩,
   ⟨cn 1 {} up, 0, _, _, _, 0x100, rfl, rfl, rfl, by decide +kernel⟩,
   ⟨cn 5 {} up, 1, _, rfl, by decide +kernel⟩,
   ⟨cn 5 { initPend := true } up, 1, _, rfl, by decide +kernel⟩,
   ⟨cn 1 {} up, 1, _, rfl, by decide +kernel⟩,
   ⟨cn 3 {} up, 1, _, _, _, 0x100, rfl, rfl, rfl, by decide +kernel⟩,
   ⟨cn 1 {} up, 0, _, _, _, 0x100, rfl, rfl, rfl, by decide +kernel⟩,
   ⟨cn 4 {} up, 1, _, rfl, by decide +kernel⟩,
   ⟨cn 1 {} up, 1, _, rfl, by decide +kernel⟩,
   ⟨cn 1 {} up, 0, by decide +kernel⟩,
   ⟨cn 1 {} up, 1, by decide +kernel⟩,
   ⟨cn 1 {} up, 0, by decide +kernel⟩,
   ⟨cn 1 {} up, 1, 0xFFFFFFFF, by decide +kernel⟩,
   ⟨cn 1 {} up, 1, 0, by decide +kernel⟩,
   ⟨cn 1 {} up, 1, by decide +kernel⟩,
   ⟨{ cn 1 {} (node .off) with canGate := [(1, stg 0)] }, 1, stg 0, [], by decide +kernel, by decide +kernel, .inl (by decide +kernel)⟩,
   ⟨{ pr canClock (cn 1 {} up) with canGate := [(1, stg 0)] }, 1, stg 0, [],
     (ftOfCount ({ pr canClock (cn 1 {} up) with canGate := [(1, stg 0)] }) canClock 0).getD 0, by decide +kernel⟩,
   ⟨{ pr canClock (cn 1 { rxq := List.replicate 127 0 } up) with canGate := [(1, stg 0x40000000)] }, 1, stg 0x40000000, [],
     (ftOfCount ({ pr canClock (cn 1 { rxq := List.replicate 127 0 } up) with canGate := [(1, stg 0x40000000)] }) canClock 0).getD 0,
     (poolFirst up).getD 0, by decide +kernel⟩,
   ⟨cn 1 {} up, 1, by decide +kernel⟩,
   ⟨mw (aCell 32767 + 0x0E) 2 1 (cn 1 { rxq := [32767] } up), 1, 32767, [], by decide +kernel⟩,
   ⟨cn 1 { rxq := [32767], rxPos := 7 } up, 1, 32767, [], by decide +kernel⟩⟩

/-- Every clause of Obligations.CanTransmission has a state and operands that meet its hypotheses. -/
theorem test_canTransmission_clauses :
    (∃ (s : State) (k : Nat) (b : Nat), k < 2 ∧ b < 64 ∧ awake s = false) ∧
    (∃ (s : State) (k : Nat) (b : Nat), k < 2 ∧ b < 64 ∧ canOn s k = false) ∧
    (∃ (s : State) (k : Nat) (b : Nat) (v : Word), k < 2 ∧ b < 64 ∧ awake s = true ∧ bit v 30 = true) ∧
    (∃ (s : State) (k : Nat) (b : Nat) (v : Word), k < 2 ∧ b < 64 ∧ awake s = true ∧ bit v 30 = false ∧ txbState s k b ≠ 0) ∧
    (∃ (s : State) (k : Nat) (b : Nat) (v : Word), k < 2 ∧ b < 64 ∧ awake s = true ∧ bit v 30 = false ∧ txbState s k b = 0 ∧
      recRejected s k (txbRec s k b) = true) ∧
    (∃ (s : State) (k : Nat) (b : Nat) (v : Word), k < 2 ∧ b < 64 ∧ awake s = true ∧ bit v 30 = false ∧ txbState s k b = 0 ∧
      recRejected s k (txbRec s k b) = false) ∧
    (∃ (s : State) (k : Nat) (b : Nat) (v : Word), k < 2 ∧ b < 64 ∧ awake s = true ∧ bit v 31 = true) ∧
    (∃ (s : State) (k : Nat) (b : Nat) (v : Word), k < 2 ∧ b < 64 ∧ awake s = true ∧ bit v 31 = false ∧ txbState s k b = 0) ∧
    (∃ (s : State) (k : Nat) (b : Nat) (v : Word), k < 2 ∧ b < 64 ∧ awake s = true ∧ bit v 31 = false ∧ txbState s k b = 2) ∧
    (∃ (s : State) (k : Nat) (b : Nat) (v : Word), k < 2 ∧ b < 64 ∧ awake s = true ∧ bit v 31 = false ∧ (txbState s k b = 1 ∨
      txbState s k b = 3) ∧ (canSt s k).series = none) ∧
    (∃ (s : State) (k : Nat) (b : Nat), k < 2 ∧ b < 64 ∧ canOn s k = true ∧ txbIn s k 2 = [] ∧ (canSt s k).initPend = false ∧ (∀ j < 64,
      txbOffered s k j = false)) ∧
    (∃ (s : State) (k : Nat) (b : Nat), k < 2 ∧ b < 64 ∧ canOn s k = true ∧ txbIn s k 2 = [] ∧ (canSt s k).initPend = false ∧
      txbOffered s k b = true ∧ (∀ j < 64, j ≠ b → txbOffered s k j = true →
      arbKey (getReg s (aTxb k b 0)) < arbKey (getReg s (aTxb k j 0))) ∧ isStale s (getReg s (aTxb k b 0x08)).toNat = false) ∧
    (∃ (s : State) (k : Nat) (b : Nat), k < 2 ∧ b < 64 ∧ canOn s k = true ∧ txbIn s k 2 = [] ∧ (canSt s k).initPend = false ∧
      txbOffered s k b = true ∧ (∀ j < 64, j ≠ b → txbOffered s k j = true →
      arbKey (getReg s (aTxb k b 0)) < arbKey (getReg s (aTxb k j 0))) ∧ isStale s (getReg s (aTxb k b 0x08)).toNat = true ∧ (∀ j < 64,
      j ≠ b → txbOffered s k j = false) ∧ (canSt s k).series = none) ∧
    (∃ (s : State) (k : Nat) (b : Nat), k < 2 ∧ b < 64 ∧ txbIn s k 2 = []) ∧
    (∃ (s : State) (k : Nat) (b : Nat) (plain : _), (plain = ((canSt s k).series = none ∧ tabGet (fun _ => []) (canSt s k).repl b = [] ∧
      (canSt s k).initPend = false)) ∧ k < 2 ∧ b < 64 ∧ canOn s k = true ∧ txbIn s k 2 = [b] ∧ plain ∧ canTec s k ≤ 255) ∧
    (∃ (s : State) (k : Nat) (b : Nat) (ctl : _) (plain : _), ctl = (aTxb k b 0x7C) ∧ (plain = ((canSt s k).series = none ∧
      tabGet (fun _ => []) (canSt s k).repl b = [] ∧ (canSt s k).initPend = false)) ∧ k < 2 ∧ b < 64 ∧ awake s = true ∧ txbIn s k 2 = [b] ∧
      plain ∧ (canSt s k).aborts = [] ∧ (canSt s k).lone = false ∧ flag s ctl 28 = false) ∧
    (∃ (s : State) (k : Nat) (b : Nat) (plain : _) (how : TxFail), (plain = ((canSt s k).series = none ∧
      tabGet (fun _ => []) (canSt s k).repl b = [] ∧ (canSt s k).initPend = false)) ∧ (canState s k = 1 ∨ canState s k = 2) ∧ k < 2 ∧
      b < 64 ∧ awake s = true ∧ how ≠ .arbitration ∧ txbIn s k 2 = [b] ∧ plain ∧ (canSt s k).lone = false) ∧
    (∃ (s : State) (k : Nat) (b : Nat), k < 2 ∧ b < 64 ∧ s.recGate.head?.map Prod.fst ≠ some k) ∧
    (∃ (s : State) (k : Nat) (b : Nat) (mb : Bool) (r : List Byte) (rest : List (Nat × Bool × List Byte)), k < 2 ∧ b < 64 ∧ s.recGate = (k,
      mb, r) :: rest ∧ awake s = true ∧ (canState s k = 0 ∨
      recRejected s k (if mb then r else if r.length < 16 then r else tunRecord r) = true)) ∧
    (∃ (s : State) (k : Nat) (b : Nat) (mb : Bool) (r : List Byte) (rest : List (Nat × Bool × List Byte)), k < 2 ∧ b < 64 ∧ s.recGate = (k,
      mb, r) :: rest ∧ awake s = true ∧ mb = true ∧ (recByte r 5).toNat = 64 + b ∧ canState s k ≠ 0 ∧ recRejected s k r = false ∧
      isSentBuf s k b = true) ∧
    (∃ (s : State) (k : Nat) (b : Nat) (mb : Bool) (r : List Byte) (rest : List (Nat × Bool × List Byte)), k < 2 ∧ b < 64 ∧ s.recGate = (k,
      mb, r) :: rest ∧ awake s = true ∧ mb = true ∧ (recByte r 5).toNat = 64 + b ∧ canState s k ≠ 0 ∧ recRejected s k r = false ∧
      isSentBuf s k b = false ∧ txbState s k b = 2) ∧
    (∃ (s : State) (k : Nat) (b : Nat) (mb : Bool) (r : List Byte) (rest : List (Nat × Bool × List Byte)), k < 2 ∧ b < 64 ∧ s.recGate = (k,
      mb, r) :: rest ∧ awake s = true ∧ mb = true ∧ (recByte r 5).toNat = 64 + b ∧ canState s k ≠ 0 ∧ recRejected s k r = false ∧
      isSentBuf s k b = false ∧ txbState s k b = 0) ∧
    (∃ (s : State) (k : Nat) (b : Nat) (mb : Bool) (r : List Byte) (rest : List (Nat × Bool × List Byte)) (named : _), (named = (mb = true ∧
      (recByte r 5).getLsbD 6 = true)) ∧ k < 2 ∧ b < 64 ∧ s.recGate = (k, mb, r) :: rest ∧ awake s = true ∧ ¬ named ∧ canState s k ≠ 0 ∧
      recRejected s k (if mb then r else if r.length < 16 then r else tunRecord r) = false ∧ fld s (aCan k 0x20) 5 0 ≤ b ∧
      txbState s k b = 0 ∧ fld s (aCan k 0x28) 5 0 ≠ b ∧ (∀ j < b, fld s (aCan k 0x20) 5 0 ≤ j → txbState s k j = 0 →
      fld s (aCan k 0x28) 5 0 = j)) ∧
    (∃ (s : State) (k : Nat) (b : Nat) (mb : Bool) (r : List Byte) (rest : List (Nat × Bool × List Byte)) (named : _), (named = (mb = true ∧
      (recByte r 5).getLsbD 6 = true)) ∧ k < 2 ∧ b < 64 ∧ s.recGate = (k, mb, r) :: rest ∧ awake s = true ∧ ¬ named ∧ canState s k ≠ 0 ∧
      recRejected s k (if mb then r else if r.length < 16 then r else tunRecord r) = false ∧ (∀ j < 64, fld s (aCan k 0x20) 5 0 ≤ j →
      txbState s k j = 0 → fld s (aCan k 0x28) 5 0 = j)) ∧
    (∃ (s : State) (k : Nat) (b : Nat) (may : _), (may = (flag s (aCan k 0x28) 31 = true ∧ (canSt s k).series = none ∧
      txbState s k (fld s (aCan k 0x28) 5 0) = 0 ∧ canState s k ≠ 0 ∧ awake s = true ∧ inFault s = false)) ∧ k < 2 ∧ b < 64 ∧ (¬ may ∨
      (canSt s k).sq = [])) ∧
    (∃ (s : State) (k : Nat) (b : Nat) (may : _) (c : Nat) (r : List Nat), (may = (flag s (aCan k 0x28) 31 = true ∧
      (canSt s k).series = none ∧ txbState s k (fld s (aCan k 0x28) 5 0) = 0 ∧ canState s k ≠ 0 ∧ awake s = true ∧ inFault s = false)) ∧
      k < 2 ∧ b < 64 ∧ may ∧ s.ecc = [] ∧ fld s (aCan k 0x28) 5 0 = b ∧ (canSt s k).sq = c :: r ∧ isStale s (cellDeadline s c) = false) :=
  ⟨⟨node .stabled, 1, 63, by decide +kernel⟩,
   ⟨rg (aTxb 1 63 0) 0x80000000 (cn 1 {} up), 0, 63, by decide +kernel⟩,
   ⟨rg (aTxb 1 63 0) 0x80000000 (cn 1 {} up), 1, 63, 0xC0000001, by decide +kernel⟩,
   ⟨rg (aTxb 1 63 0x7C) 2 (cn 1 {} up), 1, 63, 4, by decide +kernel⟩,
   ⟨rg (aTxb 1 63 0) 0x80000000 (cn 1 {} up), 1, 63, 4, by decide +kernel⟩,
   ⟨rg (aTxb 1 63 0) 0x80000000 (cn 1 {} up), 1, 0, 4, by decide +kernel⟩,
   ⟨rg (aTxb 1 63 0) 0x80000000 (cn 1 {} up), 1, 63, 0xC0000001, by decide +kernel⟩,
   ⟨rg (aTxb 1 63 0) 0x80000000 (cn 1 {} up), 1, 63, 0x40000001, by decide +kernel⟩,
   ⟨rg (aTxb 1 63 0x7C) 2 (cn 1 {} up), 1, 63, 0x40000001, by decide +kernel⟩,
   ⟨rg (aTxb 1 63 0x7C) 3 (cn 1 {} up), 1, 63, 0x40000001, by decide +kernel⟩,
   ⟨rg (aTxb 1 63 0) 0x80000000 (cn 1 {} up), 1, 63, by decide +kernel⟩,
   ⟨rg (aTxb 1 63 0x7C) 1 (cn 1 {} up), 1, 63, by decide +kernel⟩,
   ⟨tm (fun t => { t with dnow := 1 }) (rg (aTxb 1 63 0x08) 1 (rg (aTxb 1 63 0x7C) 1 (cn 1 {} up))), 1, 63, by decide +kernel⟩,
   ⟨rg (aTxb 1 63 0) 0x80000000 (cn 1 {} up), 1, 63, by decide +kernel⟩,
   ⟨rg (aTxb 1 63 0x7C) 2 (cn 1 {} up), 1, 63, _, rfl, by decide +kernel⟩,
   ⟨rg (aTxb 1 63 0x7C) 2 (cn 1 {} up), 1, 63, _, _, rfl, rfl, by decide +kernel⟩,
   ⟨rg (aTxb 1 63 0x7C) 2 (cn 1 {} up), 1, 63, _, .other, rfl, .inl (by decide +kernel), by decide +kernel⟩,
   ⟨rg (aTxb 1 63 0) 0x80000000 (cn 1 {} up), 1, 63, by decide +kernel⟩,
   ⟨{ cn 1 {} up with recGate := [(1, true, [])] }, 1, 63, true, [], [], by decide +kernel, by decide +kernel, by decide +kernel,
     by decide +kernel, .inr (by decide +kernel)⟩,
   ⟨{ rg (aCan 1 0x28) 0x8000003F (cn 1 {} up) with recGate := [(1, true, recB 127)] }, 1, 63, true, recB 127, [], by decide +kernel⟩,
   ⟨{ rg (aTxb 1 63 0x7C) 2 (cn 1 {} up) with recGate := [(1, true, recB 127)] }, 1, 63, true, recB 127, [], by decide +kernel⟩,
   ⟨{ cn 1 {} up with recGate := [(1, true, recB 127)] }, 1, 63, true, recB 127, [], by decide +kernel⟩,
   ⟨{ rg (aCan 1 0x20) 63 (rg (aCan 1 0x28) 0 (cn 1 {} up)) with recGate := [(1, false, recB 0)] }, 1, 63, false, recB 0, [], _, rfl,
     by decide +kernel⟩,
   ⟨{ rg (aCan 1 0x20) 63 (rg (aCan 1 0x28) 0x8000003F (cn 1 {} up)) with recGate := [(1, false, recB 0)] }, 1, 63, false, recB 0, [], _,
     rfl, by decide +kernel⟩,
   ⟨rg (aTxb 1 63 0) 0x80000000 (cn 1 {} up), 1, 63, _, rfl, by decide +kernel⟩,
   ⟨rg (aCan 1 0x28) 0x8000003F (cn 1 { sq := [32767] } up), 1, 63, _, 32767, [], rfl, by decide +kernel⟩⟩

/-- Every clause of Obligations.UpdateCommands has a state and operands that meet its hypotheses. -/
theorem test_updateCommands_clauses :
    (∃ (s : State), awake s = false) ∧
    (∃ (op : BitVec 4), 0 < op.toNat ∧ op.toNat < 8) ∧
    (∃ (s : State), awake s = true ∧ flag s (aUpd 0x00) 31 = true) ∧
    (∃ (s : State) (node : BitVec 12), awake s = true ∧ flag s (aUpd 0x00) 31 = false ∧ s.power.bootMode = 2 ∧ node.toNat = s.nodeId) ∧
    (∃ (s : State) (node : BitVec 12) (loc : BitVec 9) (src : _) (o : Nat × Nat), src = ((node.toNat, loc.toNat)) ∧ awake s = true ∧
      flag s (aUpd 0x00) 31 = false ∧ (s.power.bootMode ≠ 2 ∨ node.toNat ≠ s.nodeId) ∧ s.upd.owner = some o ∧ o ≠ src) ∧
    (∃ (s : State) (node : BitVec 12) (loc : BitVec 9) (op : BitVec 4) (src : _), src = ((node.toNat, loc.toNat)) ∧ awake s = true ∧
      flag s (aUpd 0x00) 31 = false ∧ (s.power.bootMode ≠ 2 ∨ node.toNat ≠ s.nodeId) ∧ ownedByOther s src = false ∧
      (op = 0 ∨ 8 ≤ op.toNat)) ∧
    (∃ (s : State) (node : BitVec 12) (loc : BitVec 9) (src : _) (r : _), src = ((node.toNat, loc.toNat)) ∧ r = (jRec s) ∧
      awake s = true ∧ flag s (aUpd 0x00) 31 = false ∧ (s.power.bootMode ≠ 2 ∨ node.toNat ≠ s.nodeId) ∧ ownedByOther s src = false ∧
      r.state = 1) ∧
    (∃ (s : State) (node : BitVec 12) (loc : BitVec 9) (src : _) (r : _), src = ((node.toNat, loc.toNat)) ∧ r = (jRec s) ∧
      awake s = true ∧ flag s (aUpd 0x00) 31 = false ∧ (s.power.bootMode ≠ 2 ∨ node.toNat ≠ s.nodeId) ∧ ownedByOther s src = false ∧
      r.state ≠ 1 ∧ check1 (updBuf s 512) = false) ∧
    (∃ (s : State) (node : BitVec 12) (loc : BitVec 9) (src : _) (r : _) (h : _), src = ((node.toNat, loc.toNat)) ∧ r = (jRec s) ∧
      h = (slotHdr s (proofSlot s)) ∧ awake s = true ∧ flag s (aUpd 0x00) 31 = false ∧ (s.power.bootMode ≠ 2 ∨ node.toNat ≠ s.nodeId) ∧
      ownedByOther s src = false ∧ r.state ≠ 1 ∧ check1 (updBuf s 512) = true ∧ r.proof = 1 ∧ updBuf s 512 = h) ∧
    (∃ (s : State) (node : BitVec 12) (loc : BitVec 9) (fl : Bool) (src : _) (r : _) (h : _), src = ((node.toNat, loc.toNat)) ∧
      r = (jRec s) ∧ h = (slotHdr s (proofSlot s)) ∧ awake s = true ∧ flag s (aUpd 0x00) 31 = false ∧
      (s.power.bootMode ≠ 2 ∨ node.toNat ≠ s.nodeId) ∧ ownedByOther s src = false ∧ r.state ≠ 1 ∧ check1 (updBuf s 512) = true ∧
      (r.proof ≠ 1 ∨ updBuf s 512 ≠ h) ∧ fl = false) ∧
    (∃ (s : State) (node : BitVec 12) (loc : BitVec 9) (fl : Bool) (src : _) (r : _) (h : _), src = ((node.toNat, loc.toNat)) ∧
      r = (jRec s) ∧ h = (slotHdr s (proofSlot s)) ∧ awake s = true ∧ flag s (aUpd 0x00) 31 = false ∧
      (s.power.bootMode ≠ 2 ∨ node.toNat ≠ s.nodeId) ∧ ownedByOther s src = false ∧ r.state ≠ 1 ∧ check1 (updBuf s 512) = true ∧
      (r.proof ≠ 1 ∨ updBuf s 512 ≠ h) ∧ fl = true) ∧
    (∃ (s : State) (node : BitVec 12) (loc : BitVec 9) (src : _) (r : _), src = ((node.toNat, loc.toNat)) ∧ r = (jRec s) ∧
      awake s = true ∧ flag s (aUpd 0x00) 31 = false ∧ (s.power.bootMode ≠ 2 ∨ node.toNat ≠ s.nodeId) ∧ ownedByOther s src = false ∧
      r.proof ≠ 1) ∧
    (∃ (s : State) (node : BitVec 12) (loc : BitVec 9) (blk : BitVec 12) (src : _) (r : _) (h : _), src = ((node.toNat, loc.toNat)) ∧
      r = (jRec s) ∧ h = (slotHdr s (proofSlot s)) ∧ awake s = true ∧ flag s (aUpd 0x00) 31 = false ∧
      (s.power.bootMode ≠ 2 ∨ node.toNat ≠ s.nodeId) ∧ ownedByOther s src = false ∧ r.proof = 1 ∧ hNblk h ≤ blk.toNat) ∧
    (∃ (s : State) (node : BitVec 12) (loc : BitVec 9) (blk : BitVec 12) (src : _) (r : _) (h : _), src = ((node.toNat, loc.toNat)) ∧
      r = (jRec s) ∧ h = (slotHdr s (proofSlot s)) ∧ awake s = true ∧ flag s (aUpd 0x00) 31 = false ∧
      (s.power.bootMode ≠ 2 ∨ node.toNat ≠ s.nodeId) ∧ ownedByOther s src = false ∧ r.proof = 1 ∧ blk.toNat < hNblk h ∧
      blockOk s 0x00061000 = false) ∧
    (∃ (s : State) (node : BitVec 12) (loc : BitVec 9) (blk : BitVec 12) (src : _) (r : _) (h : _), src = ((node.toNat, loc.toNat)) ∧
      r = (jRec s) ∧ h = (slotHdr s (proofSlot s)) ∧ awake s = true ∧ flag s (aUpd 0x00) 31 = false ∧
      (s.power.bootMode ≠ 2 ∨ node.toNat ≠ s.nodeId) ∧ ownedByOther s src = false ∧ r.proof = 1 ∧ blk.toNat < hNblk h ∧
      blockOk s 0x00061000 = true ∧ bitmapBit s blk.toNat = false) ∧
    (∃ (s : State) (node : BitVec 12) (loc : BitVec 9) (blk : BitVec 12) (fl : Bool) (src : _) (r : _) (h : _), src = ((node.toNat,
      loc.toNat)) ∧ r = (jRec s) ∧ h = (slotHdr s (proofSlot s)) ∧ awake s = true ∧ flag s (aUpd 0x00) 31 = false ∧
      (s.power.bootMode ≠ 2 ∨ node.toNat ≠ s.nodeId) ∧ ownedByOther s src = false ∧ r.proof = 1 ∧ blk.toNat < hNblk h ∧
      blockOk s 0x00061000 = true ∧ bitmapBit s blk.toNat = true ∧ blk.toNat < 3071 ∧ fl = true) ∧
    (∃ (s : State) (node : BitVec 12) (loc : BitVec 9) (src : _) (r : _), src = ((node.toNat, loc.toNat)) ∧ r = (jRec s) ∧
      awake s = true ∧ flag s (aUpd 0x00) 31 = false ∧ (s.power.bootMode ≠ 2 ∨ node.toNat ≠ s.nodeId) ∧ ownedByOther s src = false ∧
      r.proof = 0) ∧
    (∃ (s : State) (node : BitVec 12) (loc : BitVec 9) (src : _) (r : _) (code : _), src = ((node.toNat, loc.toNat)) ∧ r = (jRec s) ∧
      code = (verifyCode s (proofSlot s)) ∧ awake s = true ∧ flag s (aUpd 0x00) 31 = false ∧
      (s.power.bootMode ≠ 2 ∨ node.toNat ≠ s.nodeId) ∧ ownedByOther s src = false ∧ (r.proof = 2 ∨ (r.proof = 1 ∧
      downloadWhole s = true)) ∧ code ≠ 0) ∧
    (∃ (s : State) (node : BitVec 12) (loc : BitVec 9) (src : _) (r : _) (code : _), src = ((node.toNat, loc.toNat)) ∧ r = (jRec s) ∧
      code = (verifyCode s (proofSlot s)) ∧ awake s = true ∧ flag s (aUpd 0x00) 31 = false ∧
      (s.power.bootMode ≠ 2 ∨ node.toNat ≠ s.nodeId) ∧ ownedByOther s src = false ∧ (r.proof = 2 ∨ (r.proof = 1 ∧
      downloadWhole s = true)) ∧ code = 0 ∧ r.proof = 2) ∧
    (∃ (s : State) (node : BitVec 12) (loc : BitVec 9) (fl : Bool) (src : _) (r : _) (code : _), src = ((node.toNat, loc.toNat)) ∧
      r = (jRec s) ∧ code = (verifyCode s (proofSlot s)) ∧ awake s = true ∧ flag s (aUpd 0x00) 31 = false ∧
      (s.power.bootMode ≠ 2 ∨ node.toNat ≠ s.nodeId) ∧ ownedByOther s src = false ∧ (r.proof = 2 ∨ (r.proof = 1 ∧
      downloadWhole s = true)) ∧ code = 0 ∧ r.proof = 1 ∧ fl = false) ∧
    (∃ (s : State) (node : BitVec 12) (loc : BitVec 9) (fl : Bool) (src : _) (r : _) (code : _), src = ((node.toNat, loc.toNat)) ∧
      r = (jRec s) ∧ code = (verifyCode s (proofSlot s)) ∧ awake s = true ∧ flag s (aUpd 0x00) 31 = false ∧
      (s.power.bootMode ≠ 2 ∨ node.toNat ≠ s.nodeId) ∧ ownedByOther s src = false ∧ (r.proof = 2 ∨ (r.proof = 1 ∧
      downloadWhole s = true)) ∧ code = 0 ∧ r.proof = 1 ∧ fl = true) ∧
    (∃ (s : State) (node : BitVec 12) (loc : BitVec 9) (src : _) (r : _), src = ((node.toNat, loc.toNat)) ∧ r = (jRec s) ∧
      awake s = true ∧ flag s (aUpd 0x00) 31 = false ∧ (s.power.bootMode ≠ 2 ∨ node.toNat ≠ s.nodeId) ∧ ownedByOther s src = false ∧
      (r.proof ≠ 2 ∨ r.state ≠ 0)) ∧
    (∃ (s : State) (node : BitVec 12) (loc : BitVec 9) (src : _) (r : _) (h : _), src = ((node.toNat, loc.toNat)) ∧ r = (jRec s) ∧
      h = (slotHdr s (proofSlot s)) ∧ awake s = true ∧ flag s (aUpd 0x00) 31 = false ∧ (s.power.bootMode ≠ 2 ∨ node.toNat ≠ s.nodeId) ∧
      ownedByOther s src = false ∧ r.proof = 2 ∧ r.state = 0 ∧ check7 s h = false) ∧
    (∃ (s : State) (node : BitVec 12) (loc : BitVec 9) (fl : Bool) (src : _) (r : _) (h : _), src = ((node.toNat, loc.toNat)) ∧
      r = (jRec s) ∧ h = (slotHdr s (proofSlot s)) ∧ awake s = true ∧ flag s (aUpd 0x00) 31 = false ∧
      (s.power.bootMode ≠ 2 ∨ node.toNat ≠ s.nodeId) ∧ ownedByOther s src = false ∧ r.proof = 2 ∧ r.state = 0 ∧ check7 s h = true ∧
      hLive h = false ∧ fl = false) ∧
    (∃ (s : State) (node : BitVec 12) (loc : BitVec 9) (fl : Bool) (src : _) (r : _) (h : _), src = ((node.toNat, loc.toNat)) ∧
      r = (jRec s) ∧ h = (slotHdr s (proofSlot s)) ∧ awake s = true ∧ flag s (aUpd 0x00) 31 = false ∧
      (s.power.bootMode ≠ 2 ∨ node.toNat ≠ s.nodeId) ∧ ownedByOther s src = false ∧ r.proof = 2 ∧ r.state = 0 ∧ check7 s h = true ∧
      hLive h = false ∧ fl = true) ∧
    (∃ (s : State) (node : BitVec 12) (loc : BitVec 9) (src : _) (r : _) (h : _), src = ((node.toNat, loc.toNat)) ∧ r = (jRec s) ∧
      h = (slotHdr s (proofSlot s)) ∧ awake s = true ∧ flag s (aUpd 0x00) 31 = false ∧ (s.power.bootMode ≠ 2 ∨ node.toNat ≠ s.nodeId) ∧
      ownedByOther s src = false ∧ r.proof = 2 ∧ r.state = 0 ∧ check7 s h = true ∧ hLive h = true ∧ s.tables.busy = true) ∧
    (∃ (s : State) (node : BitVec 12) (loc : BitVec 9) (src : _) (r : _) (h : _), src = ((node.toNat, loc.toNat)) ∧ r = (jRec s) ∧
      h = (slotHdr s (proofSlot s)) ∧ awake s = true ∧ flag s (aUpd 0x00) 31 = false ∧ (s.power.bootMode ≠ 2 ∨ node.toNat ≠ s.nodeId) ∧
      ownedByOther s src = false ∧ r.proof = 2 ∧ r.state = 0 ∧ check7 s h = true ∧ hLive h = true ∧ s.tables.busy = false ∧
      s.power.phase ≠ .halter ∧ s.power.phase ≠ .running) ∧
    (∃ (s : State) (node : BitVec 12) (loc : BitVec 9) (fl : Bool) (src : _) (r : _) (h : _), src = ((node.toNat, loc.toNat)) ∧
      r = (jRec s) ∧ h = (slotHdr s (proofSlot s)) ∧ awake s = true ∧ flag s (aUpd 0x00) 31 = false ∧
      (s.power.bootMode ≠ 2 ∨ node.toNat ≠ s.nodeId) ∧ ownedByOther s src = false ∧ r.proof = 2 ∧ r.state = 0 ∧ check7 s h = true ∧
      hLive h = true ∧ s.tables.busy = false ∧ (s.power.phase = .halter ∨ s.power.phase = .running) ∧ fl = true) ∧
    (∃ (s : State) (node : BitVec 12) (loc : BitVec 9) (src : _), src = ((node.toNat, loc.toNat)) ∧ awake s = true ∧
      flag s (aUpd 0x00) 31 = false ∧ (s.power.bootMode ≠ 2 ∨ node.toNat ≠ s.nodeId) ∧ ownedByOther s src = false ∧
      s.upd.runTrial = false) ∧
    (∃ (s : State) (node : BitVec 12) (loc : BitVec 9) (fl : Bool) (src : _), src = ((node.toNat, loc.toNat)) ∧ awake s = true ∧
      flag s (aUpd 0x00) 31 = false ∧ (s.power.bootMode ≠ 2 ∨ node.toNat ≠ s.nodeId) ∧ ownedByOther s src = false ∧
      s.upd.runTrial = true ∧ fl = false) ∧
    (∃ (s : State) (node : BitVec 12) (loc : BitVec 9) (fl : Bool) (src : _), src = ((node.toNat, loc.toNat)) ∧ awake s = true ∧
      flag s (aUpd 0x00) 31 = false ∧ (s.power.bootMode ≠ 2 ∨ node.toNat ≠ s.nodeId) ∧ ownedByOther s src = false ∧
      s.upd.runTrial = true ∧ fl = true) ∧
    (∃ (s : State) (node : BitVec 12) (loc : BitVec 9) (src : _), src = ((node.toNat, loc.toNat)) ∧ awake s = true ∧
      flag s (aUpd 0x00) 31 = false ∧ (s.power.bootMode ≠ 2 ∨ node.toNat ≠ s.nodeId) ∧ ownedByOther s src = false ∧
      s.power.bootMode ≠ 3) ∧
    (∃ (s : State) (node : BitVec 12) (loc : BitVec 9) (key : BitVec 2) (src : _), src = ((node.toNat, loc.toNat)) ∧ awake s = true ∧
      flag s (aUpd 0x00) 31 = false ∧ (s.power.bootMode ≠ 2 ∨ node.toNat ≠ s.nodeId) ∧ ownedByOther s src = false ∧
      s.power.bootMode = 3 ∧ keyProgrammed s key.toNat = true) ∧
    (∃ (s : State) (node : BitVec 12) (loc : BitVec 9) (key : BitVec 2) (fl : Bool) (src : _), src = ((node.toNat, loc.toNat)) ∧
      awake s = true ∧ flag s (aUpd 0x00) 31 = false ∧ (s.power.bootMode ≠ 2 ∨ node.toNat ≠ s.nodeId) ∧ ownedByOther s src = false ∧
      s.power.bootMode = 3 ∧ keyProgrammed s key.toNat = false ∧ fl = true) ∧
    (∃ (s : State) (node : BitVec 12) (r : _), r = (jRec s) ∧ awake s = true ∧ flag s (aUpd 0x00) 31 = false ∧
      (s.power.bootMode ≠ 2 ∨ node.toNat ≠ s.nodeId) ∧ r.proof ≠ 1 ∧ (r.state ≠ 1 ∨ s.upd.runTrial = true)) ∧
    (∃ (s : State) (node : BitVec 12) (fl : Bool) (r : _), r = (jRec s) ∧ awake s = true ∧ flag s (aUpd 0x00) 31 = false ∧
      (s.power.bootMode ≠ 2 ∨ node.toNat ≠ s.nodeId) ∧ (r.proof = 1 ∨ (r.state = 1 ∧ s.upd.runTrial = false)) ∧ fl = false) ∧
    (∃ (s : State) (node : BitVec 12) (fl : Bool) (r : _), r = (jRec s) ∧ awake s = true ∧ flag s (aUpd 0x00) 31 = false ∧
      (s.power.bootMode ≠ 2 ∨ node.toNat ≠ s.nodeId) ∧ (r.proof = 1 ∨ (r.state = 1 ∧ s.upd.runTrial = false)) ∧ fl = true) :=
  ⟨⟨node .off, by decide +kernel⟩,
   ⟨0x1#4, by decide +kernel⟩,
   ⟨rg (aUpd 0x00) 0x80000000 up, by decide +kernel⟩,
   ⟨pw (fun p => { p with bootMode := 2 }) up, 5, by decide +kernel⟩,
   ⟨up' (fun u => { u with owner := some (0, 1) }) up, default, default, _, (0, 1), rfl, by decide +kernel, by decide +kernel,
     .inl (by decide +kernel), by decide +kernel⟩,
   ⟨pw (fun p => { p with bootMode := 2 }) up, 0x0#12, 0x0#9, 8, _, rfl, by decide +kernel⟩,
   ⟨jr { state := 1 } up, 5, 0x0#9, _, _, rfl, rfl, by decide +kernel⟩,
   ⟨pw (fun p => { p with bootMode := 2 }) up, 0x0#12, 0x0#9, _, _, rfl, rfl, by decide +kernel⟩,
   ⟨upSame, default, default, _, _, _, rfl, rfl, rfl, test_upSame_awake, test_upSame_free, .inl test_upSame_mode, test_upSame_owner _,
     (by rw [test_upSame_rec]; decide), test_upSame_check1, (by rw [test_upSame_rec]), test_upSame_hdr⟩,
   ⟨upHdr, default, default, false, _, _, _, rfl, rfl, rfl, by decide +kernel, by decide +kernel, .inl (by decide +kernel),
     by decide +kernel, by decide +kernel, test_upHdr_check1, by decide +kernel⟩,
   ⟨upHdr, default, default, true, _, _, _, rfl, rfl, rfl, by decide +kernel, by decide +kernel, .inl (by decide +kernel),
     by decide +kernel, by decide +kernel, test_upHdr_check1, by decide +kernel⟩,
   ⟨pw (fun p => { p with bootMode := 2 }) up, 0x0#12, 0x0#9, _, _, rfl, rfl, by decide +kernel⟩,
   ⟨jr { proof := 1 } (mw 0x02C00014 2 1 up), default, default, 1, _, _, _, rfl, rfl, rfl, by decide +kernel, by decide +kernel,
     .inl (by decide +kernel), by decide +kernel⟩,
   ⟨upBlkX, default, default, 3070, _, _, _, rfl, rfl, rfl, by decide +kernel, by decide +kernel, .inl (by decide +kernel),
     by decide +kernel, by decide +kernel, by decide +kernel, test_upBlkX_blockOk⟩,
   ⟨upBlk0, default, default, 0, _, _, _, rfl, rfl, rfl, by decide +kernel, by decide +kernel, .inl (by decide +kernel),
     by decide +kernel, by decide +kernel, by decide +kernel, test_upBlk0_blockOk, by decide +kernel⟩,
   ⟨upBlk, default, default, 3070, true, _, _, _, rfl, rfl, rfl, by decide +kernel, by decide +kernel, .inl (by decide +kernel),
     by decide +kernel, by decide +kernel, by decide +kernel, test_upBlk_blockOk, by decide +kernel⟩,
   ⟨pw (fun p => { p with bootMode := 2 }) up, 0x0#12, 0x0#9, _, _, rfl, rfl, by decide +kernel⟩,
   ⟨jr { proof := 2 } up, 5, 0x0#9, _, _, _, rfl, rfl, rfl, by decide +kernel⟩,
   ⟨upSig 2, default, default, _, _, _, rfl, rfl, rfl, test_upSig_awake 2, test_upSig_free 2, .inl (test_upSig_mode 2),
     test_upSig_owner 2 _, .inl (by rw [test_upSig_rec2]), test_upSig_code2, (by rw [test_upSig_rec2])⟩,
   ⟨upSig 1, default, default, false, _, _, _, rfl, rfl, rfl, test_upSig_awake 1, test_upSig_free 1, .inl (test_upSig_mode 1),
     test_upSig_owner 1 _, .inr ⟨by rw [test_upSig_rec1], test_upSig_whole⟩, test_upSig_code1, (by rw [test_upSig_rec1]),
     by decide +kernel⟩,
   ⟨upSig 1, default, default, true, _, _, _, rfl, rfl, rfl, test_upSig_awake 1, test_upSig_free 1, .inl (test_upSig_mode 1),
     test_upSig_owner 1 _, .inr ⟨by rw [test_upSig_rec1], test_upSig_whole⟩, test_upSig_code1, (by rw [test_upSig_rec1]),
     by decide +kernel⟩,
   ⟨pw (fun p => { p with bootMode := 2 }) up, 0x0#12, 0x0#9, _, _, rfl, rfl, by decide +kernel⟩,
   ⟨up' (fun u => { u with minver := 1 }) (jr { proof := 2 } (mw 0x02C0000C 4 0 up)), default, default, _, _, _, rfl, rfl, rfl,
     by decide +kernel, by decide +kernel, .inl (by decide +kernel), by decide +kernel⟩,
   ⟨mw (0x02C00008) 1 0xFE (jr { proof := 2 } up), 5, 0x0#9, false, _, _, _, rfl, rfl, rfl, by decide +kernel⟩,
   ⟨mw (0x02C00008) 1 0xFE (jr { proof := 2 } up), 5, 0x0#9, true, _, _, _, rfl, rfl, rfl, by decide +kernel⟩,
   ⟨{ jr { proof := 2 } up with tables := { busy := true } }, default, default, _, _, _, rfl, rfl, rfl, by decide +kernel,
     by decide +kernel, .inl (by decide +kernel), by decide +kernel⟩,
   ⟨jr { proof := 2 } (node .fault), default, default, _, _, _, rfl, rfl, rfl, by decide +kernel, by decide +kernel,
     .inl (by decide +kernel), by decide +kernel⟩,
   ⟨jr { proof := 2 } up, 5, 0x0#9, true, _, _, _, rfl, rfl, rfl, by decide +kernel⟩,
   ⟨pw (fun p => { p with bootMode := 2 }) up, 0x0#12, 0x0#9, _, rfl, by decide +kernel⟩,
   ⟨up' (fun u => { u with runTrial := true }) up, 5, 0x0#9, false, _, rfl, by decide +kernel⟩,
   ⟨up' (fun u => { u with runTrial := true }) up, 5, 0x0#9, true, _, rfl, by decide +kernel⟩,
   ⟨pw (fun p => { p with bootMode := 2 }) up, 0x0#12, 0x0#9, _, rfl, by decide +kernel⟩,
   ⟨mw (keyAddr 3) 1 0 (pw (fun p => { p with bootMode := 3 }) up), default, default, 3, _, rfl, by decide +kernel, by decide +kernel,
     .inl (by decide +kernel), by decide +kernel⟩,
   ⟨pw (fun p => { p with bootMode := 3 }) up, 5, 0x0#9, 3, true, _, rfl, by decide +kernel⟩,
   ⟨pw (fun p => { p with bootMode := 2 }) up, 0x0#12, _, rfl, by decide +kernel⟩,
   ⟨jr { state := 1 } up, 5, false, _, rfl, by decide +kernel⟩,
   ⟨jr { state := 1 } up, 5, true, _, rfl, by decide +kernel⟩⟩

/-- Every clause of Obligations.UpdateTimes has a state and operands that meet its hypotheses. -/
theorem test_updateTimes_clauses :
    (∃ (s : State) (op : Nat) (code : Nat), awake s = true ∧ s.upd.run = some (op, code) ∧ s.upd.restart = false) ∧
    (∃ (s : State) (op : Nat) (code : Nat), awake s = true ∧ s.upd.run = some (op, code) ∧ s.upd.restart = true) ∧
    (∃ (s : State), (awake s = false ∨ s.upd.run = none)) ∧
    (∃ (s : State) (taken : Bool), (awake s = false ∨ taken = true)) ∧
    (∃ (s : State), awake s = true ∧ s.upd.runTrial = true ∧ fld s (aUpd 0x24) 15 0 ≠ 0) ∧
    (∃ (s : State), awake s = true ∧ s.upd.runTrial = true ∧ s.upd.run ≠ some (5, 0)) ∧
    (∃ (s : State), (s.upd.runTrial = false ∨ awake s = false ∨ s.upd.run = some (5, 0))) ∧
    (∃ (s : State), (s.upd.runTrial = false ∨ awake s = false ∨ fld s (aUpd 0x24) 15 0 = 0)) ∧
    (∃ (s : State) (v : LiveSt), awake s = true ∧ s.upd.live = some v) ∧
    (∃ (s : State), (awake s = false ∨ s.upd.live = none)) :=
  ⟨⟨up' (fun u => { u with run := some (7, 14) }) up, 7, 14, by decide +kernel⟩,
   ⟨up' (fun u => { u with run := some (4, 0), restart := true }) up, 4, 0, by decide +kernel⟩,
   ⟨rg (aUpd 0x24) 1 (up' (fun u => { u with runTrial := true }) up), by decide +kernel⟩,
   ⟨up' (fun u => { u with run := some (7, 14) }) up, true, by decide +kernel⟩,
   ⟨rg (aUpd 0x24) 1 (up' (fun u => { u with runTrial := true }) up), by decide +kernel⟩,
   ⟨rg (aUpd 0x24) 1 (up' (fun u => { u with runTrial := true }) up), by decide +kernel⟩,
   ⟨up' (fun u => { u with run := some (7, 14) }) up, by decide +kernel⟩,
   ⟨up' (fun u => { u with run := some (7, 14) }) up, by decide +kernel⟩,
   ⟨up' (fun u => { u with live := some { slot := 1, engines := [15] } }) up, { slot := 1, engines := [15] }, by decide +kernel⟩,
   ⟨up' (fun u => { u with run := some (7, 14) }) up, by decide +kernel⟩⟩

/-- Every clause of Obligations.Scrubbing has a state and operands that meet its hypotheses. -/
theorem test_scrubbing_clauses :
    (∃ (s : State), awake s = false) ∧
    (∃ (s : State), awake s = true ∧ s.av.scrubbing = true) ∧
    (∃ (s : State) (w : Nat) (e : Nat), awake s = true ∧ s.av.scrubbing = false ∧ scrubbed w = true ∧ 1 ≤ e) ∧
    (∃ (s : State), awake s = true ∧ (∀ e ∈ s.tables.par, e.2 ≠ 4)) ∧
    (∃ (s : State) (k : Nat), awake s = true ∧ s.tables.par = [(k, 4)] ∧ flag s (aAv 0x04) 9 = false) ∧
    (∃ (s : State) (v : Word), awake s = true ∧ bit v 31 = false) ∧
    (∃ (s : State) (v : Word), awake s = true ∧ bit v 31 = true ∧ s.av.logq.length < 16) ∧
    (∃ (s : State) (v : Word), awake s = true ∧ bit v 31 = true ∧ 16 ≤ s.av.logq.length) ∧
    (∃ (s : State), s.av.logq = []) ∧
    (∃ (s : State) (r : LogRec) (q : List LogRec) (n : Nat), awake s = true ∧ s.av.logq = r :: q ∧ s.av.logSeq = some n ∧
      s.av.logHead % 32 = 0 ∧ s.av.logHead < 0xF0000 ∧ r.data.length = 12) ∧
    (∃ (s : State) (r : Nat), r < 6 ∧ awake s = true) :=
  ⟨⟨node .off, by decide +kernel⟩,
   ⟨av (fun v => { v with scrubbing := true }) up, by decide +kernel⟩,
   ⟨{ up with tables := { par := [(5, 4)] } }, 0x013FFFF8 / 8, 1, by decide +kernel⟩,
   ⟨av (fun v => { v with scrubbing := true }) up, by decide +kernel⟩,
   ⟨{ up with tables := { par := [(5, 4)] } }, 5, by decide +kernel⟩,
   ⟨av (fun v => { v with scrubbing := true }) up, 0x40000001, by decide +kernel⟩,
   ⟨av (fun v => { v with scrubbing := true }) up, 0x80000000, by decide +kernel⟩,
   ⟨av (fun v => { v with logq := List.replicate 16 { typ := 9, inst := 0, ft := 0, data := [] } }) up, 0x80000000, by decide +kernel⟩,
   ⟨av (fun v => { v with scrubbing := true }) up, by decide +kernel⟩,
   ⟨av (fun v => { v with logq := [{ typ := 9, inst := 0, ft := 0, data := List.replicate 12 0 }], logSeq := some 7, logHead := 0xEFFE0 }) up,
     { typ := 9, inst := 0, ft := 0, data := List.replicate 12 0 }, [], 7, by decide +kernel⟩,
   ⟨av (fun v => { v with scrubbing := true }) up, 5, by decide +kernel⟩⟩

/-- Every clause of Obligations.Availability has a state and operands that meet its hypotheses. -/
theorem test_availability_clauses :
    (∃ (s : State), awake s = false) ∧
    (∃ (s : State) (x : BitVec 9), awake s = true ∧ (flag s (aAv 0x60) 31 = true ∨ 280 ≤ x.toNat)) ∧
    (∃ (s : State) (x : BitVec 9) (free : _), free = (decide (sliceMap s x.toNat / 0x4000 = 0)) ∧ awake s = true ∧ x.toNat < 280 ∧
      flag s (aAv 0x60) 31 = false ∧ (((0, Instr.sliceTest x) : Nat × Instr).1 = 1 → free = false)) ∧
    (∃ (s : State) (x : BitVec 9) (free : _), free = (decide (sliceMap s x.toNat / 0x4000 = 0)) ∧ awake s = true ∧ x.toNat < 280 ∧
      flag s (aAv 0x60) 31 = false ∧ free = true) ∧
    (∃ (s : State), s.av.sliceCmd = none) ∧
    (∃ (s : State) (c : SliceCmd), awake s = true ∧ s.av.sliceCmd = some c) ∧
    (∃ (s : State) (may : _), (may = (flag s (aAv 0x40) 15 = true ∧ mayMove s = true ∧ s.av.move = none)) ∧ ¬ may) ∧
    (∃ (s : State) (may : _), (may = (flag s (aAv 0x40) 15 = true ∧ mayMove s = true ∧ s.av.move = none)) ∧ may ∧
      (chooseMover s = none ∨ chooseSpare s = none)) ∧
    (∃ (s : State) (may : _) (l : Nat) (e : Nat), (may = (flag s (aAv 0x40) 15 = true ∧ mayMove s = true ∧ s.av.move = none)) ∧ may ∧
      chooseMover s = some l ∧ chooseSpare s = some e) ∧
    (∃ (s : State), awake s = true ∧ flag s (aAv 0x44) 31 = true) ∧
    (∃ (s : State) (l : BitVec 4) (target : BitVec 5), awake s = true ∧ flag s (aAv 0x44) 31 = false ∧ (((Instr.rotMove l target,
      (if target.toNat = 31 then (chooseSpare s).isNone else !isSpare s target.toNat) || !mayMove s) : Instr × Bool).2 = true ∨ s.av.move ≠ none ∨ engPhys s l.toNat = 31)) ∧
    (∃ (s : State) (l : BitVec 4) (target : BitVec 5) (e : Nat), awake s = true ∧ flag s (aAv 0x44) 31 = false ∧
      (if target.toNat = 31 then chooseSpare s = some e else isSpare s target.toNat = true ∧ e = target.toNat) ∧ s.av.move = none ∧
      engPhys s l.toNat ≠ 31 ∧ mayMove s = true) ∧
    (∃ (s : State) (l : BitVec 4) (target : BitVec 5) (e : Nat), awake s = true ∧ flag s (aAv 0x44) 31 = false ∧
      (if target.toNat = 31 then chooseSpare s = some e else isSpare s target.toNat = true ∧ e = target.toNat) ∧ s.av.move = none ∧
      engPhys s l.toNat ≠ 31 ∧ target.toNat ≠ 31) ∧
    (∃ (s : State), (s.av.move = none ∨ ∃ v, s.av.move = some v ∧ v.stalled = true)) ∧
    (∃ (s : State) (v : MoveSt) (dirty : Nat), awake s = true ∧ s.av.move = some v ∧ v.stalled = false ∧ dirty < 1024) ∧
    (∃ (s : State) (v : MoveSt) (dirty : Nat), awake s = true ∧ s.av.move = some v ∧ v.stalled = false ∧ 1024 ≤ dirty ∧ v.round + 1 < 8) ∧
    (∃ (s : State) (v : MoveSt) (dirty : Nat), awake s = true ∧ s.av.move = some v ∧ v.stalled = false ∧ 1024 ≤ dirty ∧ 8 ≤ v.round + 1) ∧
    (∃ (s : State), (s.av.move = none ∨ ∃ v, s.av.move = some v ∧ v.stalled = false)) ∧
    (∃ (s : State) (v : MoveSt), awake s = true ∧ s.av.move = some v ∧ v.stalled = true ∧ v.l < 16 ∧ v.dst < 18) ∧
    (∃ (s : State) (e : Nat) (res : Nat), (e ∉ s.av.testing ∨ res = 0 ∨ 3 < res)) ∧
    (∃ (s : State) (e : Nat) (res : Nat), awake s = true ∧ e ∈ s.av.testing ∧ res = 1) ∧
    (∃ (s : State) (e : Nat) (res : Nat), awake s = true ∧ e ∈ s.av.testing ∧ (res = 2 ∨ res = 3)) :=
  ⟨⟨node .off, by decide +kernel⟩,
   ⟨up, 280, by decide +kernel, .inr (by decide)⟩,
   ⟨up, 279, _, rfl, by decide +kernel⟩,
   ⟨av (fun v => { v with sliceCmd := some { op := 2, slice := 279, err := false } }) up, 279, _, rfl, by decide +kernel⟩,
   ⟨rg (aAv 0x40) 0x8000 (rg (aEng 15 4) 0x0F000000 up), by decide +kernel⟩,
   ⟨av (fun v => { v with sliceCmd := some { op := 2, slice := 279, err := false } }) up, { op := 2, slice := 279, err := false },
     by decide +kernel⟩,
   ⟨av (fun v => { v with move := some { l := 15, dst := 17 } }) up, _, rfl, by decide +kernel⟩,
   ⟨(List.range 16).foldr (fun l s => rg (aEng l 0x00) 4 s) (rg (aAv 0x40) 0x8000 up), _, rfl, by decide +kernel,
     .inl (by decide +kernel)⟩,
   ⟨rg (aAv 0x40) 0x8000 (rg (aEng 15 4) 0x0F000000 up), _, (chooseMover (rg (aAv 0x40) 0x8000 (rg (aEng 15 4) 0x0F000000 up))).getD 0,
     (chooseSpare (rg (aAv 0x40) 0x8000 (rg (aEng 15 4) 0x0F000000 up))).getD 0, rfl, by decide +kernel⟩,
   ⟨rg (aAv 0x44) 0x80000000 up, by decide +kernel⟩,
   ⟨rg (aEng 15 4) 0x0F000000 up, 15, 0, by decide +kernel⟩,
   ⟨av (fun v => { v with sliceCmd := some { op := 2, slice := 279, err := false } }) up,
     (chooseMover (av (fun v => { v with sliceCmd := some { op := 2, slice := 279, err := false } }) up)).getD 0, 17, 17,
     by decide +kernel⟩,
   ⟨av (fun v => { v with sliceCmd := some { op := 2, slice := 279, err := false } }) up,
     (chooseMover (av (fun v => { v with sliceCmd := some { op := 2, slice := 279, err := false } }) up)).getD 0, 17, 17,
     by decide +kernel⟩,
   ⟨av (fun v => { v with sliceCmd := some { op := 2, slice := 279, err := false } }) up, by decide +kernel⟩,
   ⟨av (fun v => { v with move := some { l := 15, dst := 17 } }) up, { l := 15, dst := 17 }, 1023, by decide +kernel⟩,
   ⟨av (fun v => { v with move := some { l := 15, dst := 17 } }) up, { l := 15, dst := 17 }, 1024, by decide +kernel⟩,
   ⟨av (fun v => { v with move := some { l := 15, dst := 17, round := 7 } }) up, { l := 15, dst := 17, round := 7 }, 1024,
     by decide +kernel⟩,
   ⟨av (fun v => { v with sliceCmd := some { op := 2, slice := 279, err := false } }) up, by decide +kernel⟩,
   ⟨av (fun v => { v with move := some { l := 15, dst := 17, stalled := true } }) up, { l := 15, dst := 17, stalled := true },
     by decide +kernel⟩,
   ⟨av (fun v => { v with sliceCmd := some { op := 2, slice := 279, err := false } }) up,
     (chooseSpare (av (fun v => { v with sliceCmd := some { op := 2, slice := 279, err := false } }) up)).getD 0, 3, by decide +kernel⟩,
   ⟨av (fun v => { v with testing := [17] }) up, 17, 1, by decide +kernel⟩,
   ⟨av (fun v => { v with testing := [17] }) up, 17, 3, by decide +kernel⟩⟩

end Sys2Proof.Tests
end

section
/-!
SUPPORT. The ALU instructions, the immediates, branches and jumps (R433–R436, R441–R443): the value of each operation in the
arithmetic of its row, how each shared form of instruction ends, and the two statements about them.
-/
namespace Sys2Proof.Machine

theorem wd_toNat (a : Word) : wd a.toNat = a := by simp [wd]

/-! ### Shifts -/

theorem shiftLeft_eq_wd (a : Word) (n : Nat) : a <<< n = wd (a.toNat * 2 ^ n) := by
  apply BitVec.eq_of_toNat_eq
  simp [wd, Nat.shiftLeft_eq]

theorem shiftRight_eq_wd (a : Word) (n : Nat) : a >>> n = wd (a.toNat / 2 ^ n) := by
  rw [← wd_toNat (a >>> n), BitVec.toNat_ushiftRight, Nat.shiftRight_eq_div_pow]

theorem sshiftRight_eq_ofInt (a : Word) (n : Nat) : a.sshiftRight n = BitVec.ofInt 32 (a.toInt / 2 ^ n) := by
  rw [BitVec.sshiftRight_eq, Int.shiftRight_eq_div_pow]
  norm_cast

/-! ### Comparisons, minima and maxima -/

theorem opSlt_eq (a b : Word) : opSlt a b = if a.toInt < b.toInt then 1 else 0 := by
  simp [opSlt, BitVec.slt]

theorem opSltu_eq (a b : Word) : opSltu a b = if a.toNat < b.toNat then 1 else 0 := by
  simp [opSltu, BitVec.ult]

/-- A choice of one of two words is the word of the number m, when m is the number `v` of the chosen one. -/
theorem ite_eq_word {α : Type} {v : Word → α} {word : α → Word} (h : ∀ a, word (v a) = a) {a b : Word} {m : α} {p : Prop}
    [Decidable p] (hb : p → m = v b) (ha : ¬p → m = v a) : (if p then b else a) = word m := by
  split
  · next hp => rw [hb hp, h]
  · next hp => rw [ha hp, h]

theorem opMin_eq (a b : Word) : opMin a b = BitVec.ofInt 32 (min a.toInt b.toInt) := by
  simp only [opMin, BitVec.slt_iff_toInt_lt]
  exact ite_eq_word (fun _ => BitVec.ofInt_toInt) (fun hlt => by omega) (fun hge => by omega)

theorem opMax_eq (a b : Word) : opMax a b = BitVec.ofInt 32 (max a.toInt b.toInt) := by
  simp only [opMax, BitVec.slt_iff_toInt_lt]
  exact ite_eq_word (fun _ => BitVec.ofInt_toInt) (fun hlt => by omega) (fun hge => by omega)

theorem opMinu_eq (a b : Word) : opMinu a b = wd (min a.toNat b.toNat) := by
  simp only [opMinu, BitVec.ult_iff_toNat_lt]
  exact ite_eq_word wd_toNat (fun hlt => by omega) (fun hge => by omega)

theorem opMaxu_eq (a b : Word) : opMaxu a b = wd (max a.toNat b.toNat) := by
  simp only [opMaxu, BitVec.ult_iff_toNat_lt]
  exact ite_eq_word wd_toNat (fun hlt => by omega) (fun hge => by omega)

/-! ### Products -/

theorem opMulhu_eq (a b : Word) : opMulhu a b = wd (a.toNat * b.toNat / 2 ^ 32) := by
  have hlt : a.toNat * b.toNat < 2 ^ 64 := Nat.lt_of_lt_of_eq (Nat.mul_lt_mul'' a.isLt b.isLt) rfl
  apply BitVec.eq_of_toNat_eq
  rw [opMulhu, BitVec.extractLsb'_toNat, BitVec.toNat_mul, BitVec.toNat_setWidth_of_le (by omega),
    BitVec.toNat_setWidth_of_le (by omega), Nat.mod_eq_of_lt hlt, Nat.shiftRight_eq_div_pow, wd, BitVec.toNat_ofNat]

/-- The upper half of a 64-bit integer is its floor quotient by 2^32. -/
theorem extractLsb'_ofInt (z : Int) : (BitVec.ofInt 64 z).extractLsb' 32 32 = BitVec.ofInt 32 (z / 2 ^ 32) := by
  apply BitVec.eq_of_toNat_eq
  rw [BitVec.extractLsb'_toNat, Nat.shiftRight_eq_div_pow, BitVec.toNat_ofInt, BitVec.toNat_ofInt]
  omega

theorem opMulh_eq (a b : Word) : opMulh a b = BitVec.ofInt 32 (a.toInt * b.toInt / 2 ^ 32) := by
  rw [opMulh, BitVec.signExtend, BitVec.signExtend, ← BitVec.ofInt_mul, extractLsb'_ofInt]

/-! ### Quotients and remainders -/

/-- The quotient saturates at −2^31 / −1 only; every other quotient fits a word (R434). -/
theorem opDiv_eq (a b : Word) :
    opDiv a b = if a.toInt = -2 ^ 31 ∧ b.toInt = -1 then 0x7FFFFFFF#32 else BitVec.ofInt 32 (a.toInt.tdiv b.toInt) := by
  have ha : a.toInt = -2 ^ 31 ↔ a = 0x80000000 := BitVec.toInt_inj (y := 0x80000000#32)
  have hb : b.toInt = -1 ↔ b = 0xFFFFFFFF := BitVec.toInt_inj (y := 0xFFFFFFFF#32)
  have hq : a.sdiv b = BitVec.ofInt 32 (a.toInt.tdiv b.toInt) :=
    BitVec.eq_of_toInt_eq (by rw [BitVec.toInt_sdiv, BitVec.toInt_ofInt])
  simp only [opDiv, ha, hb, hq, BitVec.ofNat_eq_ofNat]

theorem udiv_eq_wd (a b : Word) : a.udiv b = wd (a.toNat / b.toNat) := by
  rw [← wd_toNat (a.udiv b)]; rfl

theorem umod_eq_wd (a b : Word) : a.umod b = wd (a.toNat % b.toNat) := by
  rw [← wd_toNat (a.umod b)]; rfl

theorem srem_eq_ofInt (a b : Word) : a.srem b = BitVec.ofInt 32 (a.toInt.tmod b.toInt) := by
  rw [← BitVec.toInt_srem, BitVec.ofInt_toInt]

/-! ### Counts of bits -/

/-- The run of `p` from 0 below m ends at m or where `p` first fails. -/
theorem length_takeWhile_range (p : Nat → Bool) (m : Nat) :
    ∃ n, ((List.range m).takeWhile p).length = n ∧ n ≤ m ∧ (∀ i < n, p i = true) ∧ (n < m → p n = false) := by
  have hle := List.findIdx_le_length (p := fun i => !p i) (xs := List.range m)
  rw [List.length_range] at hle
  refine ⟨(List.range m).findIdx (fun i => !p i), ?_, hle, fun i hi => ?_, fun h => ?_⟩
  · rw [List.takeWhile_eq_take_findIdx_not, List.length_take, List.length_range, Nat.min_eq_left hle]
  · simpa using List.not_of_lt_findIdx hi
  · have hend := List.findIdx_getElem (p := fun i => !p i) (xs := List.range m) (w := by rwa [List.length_range])
    simpa using hend

/-- clz counts the zero bits above the highest 1 bit (R433). -/
theorem opClz_spec (a : Word) :
    ∃ n, opClz a = wd n ∧ n ≤ 32 ∧ a.toNat < 2 ^ (32 - n) ∧ (n < 32 → 2 ^ (31 - n) ≤ a.toNat) := by
  obtain ⟨n, hlen, hn, hzero, hone⟩ := length_takeWhile_range (fun i => !a.getLsbD (31 - i)) 32
  refine ⟨n, by rw [opClz, hlen], hn, Nat.lt_pow_two_of_testBit _ fun i hi => ?_, fun h => Nat.ge_two_pow_of_testBit ?_⟩
  · rw [BitVec.testBit_toNat]
    by_cases h32 : i < 32
    · have hz := hzero (31 - i) (by omega)
      rwa [show 31 - (31 - i) = i by omega, Bool.not_eq_true'] at hz
    · exact BitVec.getLsbD_of_ge _ _ (by omega)
  · rw [BitVec.testBit_toNat]
    simpa using hone h

theorem length_filter_eq_sum (p : Nat → Bool) (xs : List Nat) : (xs.filter p).length = (xs.map (fun i => b2n (p i))).sum := by
  induction xs with
  | nil => rfl
  | cons x xs ih => cases h : p x <;> simp [h, ih, b2n, Nat.add_comm]

theorem opPopc_eq (a : Word) : opPopc a = wd ((List.range 32).map (fun i => b2n (a.getLsbD i))).sum := by
  rw [opPopc, length_filter_eq_sum]

/-! ### Fields of words -/

theorem toNat_append_eq_add {m n : Nat} (x : BitVec m) (y : BitVec n) : (x ++ y).toNat = x.toNat * 2 ^ n + y.toNat := by
  rw [BitVec.toNat_append, ← Nat.shiftLeft_add_eq_or_of_lt y.isLt, Nat.shiftLeft_eq]

theorem lui_eq_wd (imm : BitVec 22) : imm ++ (0 : BitVec 10) = wd (imm.toNat * 1024) := by
  rw [← wd_toNat (imm ++ (0 : BitVec 10)), toNat_append_eq_add, BitVec.ofNat_eq_ofNat, BitVec.toNat_zero,
    Nat.add_zero (imm.toNat * 2 ^ 10), show 2 ^ 10 = 1024 from rfl]

/-- imm18 of a shift holds KIND above AMT (R436). -/
theorem shiftImm_eq (kind : BitVec 2) (amt : BitVec 5) :
    (0 : BitVec 11) ++ kind ++ amt = BitVec.ofNat 18 (32 * kind.toNat + amt.toNat) := by
  apply BitVec.eq_of_toNat_eq
  have hk := kind.isLt
  have ha := amt.isLt
  rw [toNat_append_eq_add, toNat_append_eq_add, BitVec.ofNat_eq_ofNat, BitVec.toNat_zero, BitVec.toNat_ofNat]
  omega

/-- The fields of an ALU word that its legality reads (R424). -/
theorem bits_encRR (op : BitVec 6) (gd ga gb : BitVec 4) (fn : BitVec 14) :
    bits (encRR op gd ga gb fn) 31 26 = op.toNat ∧ bits (encRR op gd ga gb fn) 17 14 = gb.toNat ∧
    bits (encRR op gd ga gb fn) 13 0 = fn.toNat := by
  have ho := op.isLt
  have hd := gd.isLt
  have ha := ga.isLt
  have hb := gb.isLt
  have hf := fn.isLt
  simp only [bits, encRR, toNat_append_eq_add, Nat.shiftRight_eq_div_pow]
  omega

/-- The one-operand ALU words are listed with gb 0 only (R433, R426). -/
theorem fzLegal_encRR_oneOperand (gd ga gb : BitVec 4) (fn : BitVec 14) (hfn : 0x17 ≤ fn.toNat) (hgb : gb ≠ 0) :
    fzLegal (encRR 0x00 gd ga gb fn) = false := by
  have hgb0 : gb.toNat ≠ 0 := fun h => hgb (BitVec.eq_of_toNat_eq h)
  obtain ⟨hop : _ = 0, hgbf, hfnf⟩ := bits_encRR 0x00 gd ga gb fn
  simp only [fzLegal, hop, hgbf, hfnf, if_true,
    decide_eq_false (p := fn.toNat < 0x17) (by omega), decide_eq_false hgb0, Bool.or_self, Bool.and_false]

/-! ### Targets, conditions and links -/

theorem relTarget_setWidth {n : Nat} (hn : 16 ≤ n) (pc : BitVec 16) (off : BitVec n) :
    relTarget pc (off.setWidth 16) = BitVec.ofInt 16 (pc.toNat + 4 * off.toInt) := by
  rw [BitVec.ofInt_add, BitVec.ofInt_mul, BitVec.ofInt_natCast, BitVec.ofNat_toNat, BitVec.setWidth_eq,
    ← BitVec.signExtend_eq_setWidth_of_le off hn]
  rfl

theorem not_slt_eq_decide (a b : Word) : (!a.slt b) = decide (b.toInt ≤ a.toInt) := by
  simp [BitVec.slt, ← decide_not]

theorem not_ult_eq_decide (a b : Word) : (!a.ult b) = decide (b.toNat ≤ a.toNat) := by
  simp [BitVec.ult, ← decide_not]

/-- A write to g0 changes no register (R427). -/
theorem setG_zero (s : State) (l c : Nat) (w : Word) : setG s l c 0 w = gReg (ctx s l c) := by
  funext r
  exact if_neg fun ⟨h0, hr⟩ => hr h0

theorem bits_1_0_eq_zero {x : Word} (h : x.toNat % 4 = 0) : bits x 1 0 = 0 := by
  rwa [bits, Nat.shiftRight_zero]

theorem bits_31_16_eq_zero {x : Word} (h : x.toNat < 2 ^ 16) : bits x 31 16 = 0 := by
  rw [bits, Nat.shiftRight_eq_div_pow, Nat.div_eq_of_lt h, Nat.zero_mod]

/-! ### How each form of instruction ends -/

section
variable {s : State} {l c : Nat} {w : Word}

/-- An issued word whose effect is one write of gd does that write and nothing else. -/
theorem issue_wrote {word : Word} {f : State → State} {gd : BitVec 4} (h : Fetches l c word s) (hf : f s = wr l c gd w s) :
    ∃ t, issue l c word f s = .next t ∧ Wrote l c gd w s t :=
  ⟨f s, issue_of_fetches h, hf ▸ wrote_wr l c gd w s⟩

theorem aluOp_wrote {fn : BitVec 14} {gd ga gb : BitVec 4} {f : Word → Word → Word}
    (h : Fetches l c (encRR 0x00 gd ga gb fn) s) (hw : f (gv s l c ga) (gv s l c gb) = w) :
    ∃ t, aluOp l c fn gd ga gb f s = .next t ∧ Wrote l c gd w s t :=
  issue_wrote h (by rw [hw])

theorem divOp_wrote {fn : BitVec 14} {gd ga gb : BitVec 4} {f : Word → Word → Word}
    (h : Fetches l c (encRR 0x00 gd ga gb fn) s) (hb : gv s l c gb ≠ 0) (hw : f (gv s l c ga) (gv s l c gb) = w) :
    ∃ t, divOp l c fn gd ga gb f s = .next t ∧ Wrote l c gd w s t :=
  issue_wrote h (by rw [if_neg hb, hw])

theorem immOp_wrote {op : BitVec 6} {gd ga : BitVec 4} {imm : BitVec 18} {f : Word → Word → Word}
    (h : Fetches l c (encRI op gd ga imm) s) (hw : f (gv s l c ga) (imm.signExtend 32) = w) :
    ∃ t, immOp l c op gd ga imm f s = .next t ∧ Wrote l c gd w s t :=
  issue_wrote h (by rw [hw])

theorem shiftOp_wrote {kind : BitVec 2} {gd ga : BitVec 4} {amt : BitVec 5} {f : Word → Nat → Word}
    (h : Fetches l c (encRI 0x05 gd ga (BitVec.ofNat 18 (32 * kind.toNat + amt.toNat))) s) (hw : f (gv s l c ga) amt.toNat = w) :
    ∃ t, shiftOp l c kind gd ga amt f s = .next t ∧ Wrote l c gd w s t :=
  issue_wrote (by rwa [shiftImm_eq]) (by rw [hw])

/-! ### Branches and jumps -/

/-- A branch whose condition has the value `taken` goes to its target or on, and does nothing else (R441). -/
theorem branchOp_went {op : BitVec 6} {ga gb : BitVec 4} {off : BitVec 18} {p : Word → Word → Bool} {taken : Bool}
    (h : Fetches l c (encBR op ga gb off) s) (hp : p (gv s l c ga) (gv s l c gb) = taken) :
    ∃ t, branchOp l c op ga gb off p s = .next t ∧ t = { s with engs := t.engs } ∧
      (taken = true → CtxWent l c .run (BitVec.ofInt 16 ((ctx s l c).pc.toNat + 4 * off.toInt)) (gReg (ctx s l c)) s t) ∧
      (taken = false → CtxWent l c .run ((ctx s l c).pc + 4) (gReg (ctx s l c)) s t) := by
  refine ⟨_, issue_of_fetches h, ?_⟩
  rw [hp]
  cases taken with
  | true =>
    obtain ⟨hwent, hframe⟩ := went_jumpTo l c 0 0 (relTarget (ctx s l c).pc (off.setWidth 16)) s (run_of_fetches h).1
    rw [setG_zero, relTarget_setWidth (by decide)] at hwent
    rw [relTarget_setWidth (by decide)] at hframe ⊢
    exact ⟨hframe, fun _ => hwent, nofun⟩
  | false =>
    obtain ⟨hwent, hframe⟩ := went_finish l c s
    exact ⟨hframe, nofun, fun _ => hwent⟩

/-- An issued word whose effect is a jump with a link goes to its target and writes the link, and does nothing else. -/
theorem issue_jumpTo_went {word link : Word} {f : State → State} {gd : BitVec 4} {pc : BitVec 16} (h : Fetches l c word s)
    (hf : f s = jumpTo l c gd link pc s) :
    ∃ t, issue l c word f s = .next t ∧ CtxWent l c .run pc (setG s l c gd link) s t ∧ t = { s with engs := t.engs } :=
  ⟨f s, issue_of_fetches h, hf ▸ went_jumpTo l c gd link pc s (run_of_fetches h).1⟩

/-- jal goes to its target with the link of the next instruction in gd (R442). -/
theorem execJal_went {gd : BitVec 4} {imm : BitVec 22} (h : Fetches l c (encLI 0x16 gd imm) s) :
    ∃ t, execJal l c gd imm s = .next t ∧
      CtxWent l c .run (BitVec.ofInt 16 ((ctx s l c).pc.toNat + 4 * imm.toInt)) (setG s l c gd (linkOf (ctx s l c).pc)) s t ∧
      t = { s with engs := t.engs } := by
  unfold execJal
  exact issue_jumpTo_went h (by rw [relTarget_setWidth (by decide)])

/-- jalr to an aligned address of instruction memory goes there with the link of the next instruction in gd (R443). -/
theorem execJalr_went {gd ga : BitVec 4} {imm : BitVec 18} (h : Fetches l c (encRI 0x17 gd ga imm) s)
    (hmod : (gv s l c ga + imm.signExtend 32).toNat % 4 = 0) (hlt : (gv s l c ga + imm.signExtend 32).toNat < 2 ^ 16) :
    ∃ t, execJalr l c gd ga imm s = .next t ∧
      CtxWent l c .run (BitVec.ofNat 16 (gv s l c ga + imm.signExtend 32).toNat) (setG s l c gd (linkOf (ctx s l c).pc)) s t ∧
      t = { s with engs := t.engs } := by
  unfold execJalr
  refine issue_jumpTo_went h ?_
  simp only [bits_1_0_eq_zero hmod, bits_31_16_eq_zero hlt, ne_eq, not_true_eq_false, if_false, BitVec.ofNat_toNat]

end
end Sys2Proof.Machine

open Sys2Proof Sys2Proof.Machine

/-- Settles O35: each row is a use of its form's lemma with the value its operation computes. -/
theorem aluResults : Obligations.AluResults := by
  refine ⟨fun s l c gd ga gb => ⟨?rows, fun hb => ?divides, fun h => ?clz, fun h => ?popc, ?oneOperand⟩,
    fun s l c gd ga => ⟨fun imm => ?immediates, fun imm h => issue_wrote h (by rw [lui_eq_wd]), fun amt => ?shifts⟩⟩
  case rows =>
    simp only [List.forall_mem_cons, List.not_mem_nil, false_imp_iff, implies_true, and_true]
    exact ⟨fun h => aluOp_wrote h rfl, fun h => aluOp_wrote h rfl, fun h => aluOp_wrote h rfl, fun h => aluOp_wrote h rfl,
      fun h => aluOp_wrote h rfl, fun h => aluOp_wrote h BitVec.not_or,
      fun h => aluOp_wrote h (shiftLeft_eq_wd _ _), fun h => aluOp_wrote h (shiftRight_eq_wd _ _),
      fun h => aluOp_wrote h (sshiftRight_eq_ofInt _ _), fun h => aluOp_wrote h (opSlt_eq _ _),
      fun h => aluOp_wrote h (opSltu_eq _ _), fun h => aluOp_wrote h BitVec.mul_def, fun h => aluOp_wrote h (opMulh_eq _ _),
      fun h => aluOp_wrote h (opMulhu_eq _ _), fun h => aluOp_wrote h (opMin_eq _ _), fun h => aluOp_wrote h (opMax_eq _ _),
      fun h => aluOp_wrote h (opMinu_eq _ _), fun h => aluOp_wrote h (opMaxu_eq _ _)⟩
  case divides =>
    simp only [List.forall_mem_cons, List.not_mem_nil, false_imp_iff, implies_true, and_true]
    exact ⟨fun h => divOp_wrote h hb (opDiv_eq _ _), fun h => divOp_wrote h hb (udiv_eq_wd _ _),
      fun h => divOp_wrote h hb (srem_eq_ofInt _ _), fun h => divOp_wrote h hb (umod_eq_wd _ _)⟩
  case clz =>
    obtain ⟨n, hn, hle, hlt, hge⟩ := opClz_spec (gv s l c ga)
    obtain ⟨t, ht, hwrote⟩ : ∃ t, exec (.clz l c gd ga) s = .next t ∧ Wrote l c gd (wd n) s t :=
      aluOp_wrote (f := fun a _ => opClz a) h hn
    exact ⟨t, n, ht, hwrote, hle, hlt, hge⟩
  case popc => exact aluOp_wrote (f := fun a _ => opPopc a) h (opPopc_eq _)
  case oneOperand =>
    simp only [List.forall_mem_cons, List.not_mem_nil, false_imp_iff, implies_true, and_true]
    exact ⟨fzLegal_encRR_oneOperand gd ga gb 0x017 (by decide), fzLegal_encRR_oneOperand gd ga gb 0x018 (by decide)⟩
  case immediates =>
    have hslti : opSlt (gv s l c ga) (imm.signExtend 32) = if (gv s l c ga).toInt < imm.toInt then 1 else 0 := by
      rw [opSlt_eq, BitVec.toInt_signExtend_of_le (by decide)]
    exact ⟨fun h => immOp_wrote h rfl, fun h => immOp_wrote h rfl, fun h => immOp_wrote h rfl, fun h => immOp_wrote h rfl,
      fun h => immOp_wrote h hslti⟩
  case shifts =>
    exact ⟨fun h => shiftOp_wrote (kind := 0) (by simpa using h) (shiftLeft_eq_wd _ _),
      fun h => shiftOp_wrote (kind := 1) h (shiftRight_eq_wd _ _), fun h => shiftOp_wrote (kind := 2) h (sshiftRight_eq_ofInt _ _)⟩

/-- Settles O38: every branch by the value of its condition, and the two jumps by their targets. -/
theorem branchesAndJumps : Obligations.BranchesAndJumps := by
  refine fun s l c => ⟨fun ga gb off => ?branches, fun gd imm h => execJal_went h, fun gd ga imm h => execJalr_went h⟩
  simp only [List.forall_mem_cons, List.not_mem_nil, false_imp_iff, implies_true, and_true]
  exact ⟨fun h => branchOp_went (p := fun a b => decide (a = b)) h rfl,
    fun h => branchOp_went (p := fun a b => decide (a ≠ b)) h rfl,
    fun h => branchOp_went (p := BitVec.slt) h rfl,
    fun h => branchOp_went (p := fun a b => !a.slt b) h (not_slt_eq_decide _ _),
    fun h => branchOp_went (p := BitVec.ult) h rfl,
    fun h => branchOp_went (p := fun a b => !a.ult b) h (not_ult_eq_decide _ _)⟩
end
